-- ==== Sys2Proof/Word.lean ====
section
/-! DEFINITION. The word types of the module and their plainest arithmetic (00_scope.md R2, R3). -/

namespace Sys2Proof

/-- One byte. -/
abbrev Byte := BitVec 8

/-- One 64-bit word: a scalar register, a register of the register space, an instruction (R9, R92). -/
abbrev Word := BitVec 64

end Sys2Proof
end

