-- ==== Sys2Proof/Syntax.lean ====
section
/-! DEFINITION. The commands of the block: one constructor of `Instr` per row of spec/opcode_table.json, in
the table's order, and the operand types they carry. -/

namespace Sys2Proof

/-- Outcome of one protected read (R53, R61, R207): good, one corrected error, good on the second read, or
failed twice. -/
inductive Ecc where
  | good | single | transient | lasting
  deriving DecidableEq, Repr

/-- What the surroundings of a thallus instruction supply at issue: the outcome of its fetch (R53), and of the
tile-store reads it makes with the tile offset at which an error falls (R61). -/
structure Env where
  fetch : Ecc
  tile : Ecc
  tileOff : Nat
  deriving DecidableEq, Repr

/-- The agents that reach the register space (R42): service firmware, trusted firmware, the companion, and the
die scheduler of a compute die. -/
inductive Requester where
  | sfw | tfw | companion | scheduler (d : Fin 8)
  deriving DecidableEq, Repr

/-- The header of a fabric packet (R263), field by field. -/
structure Header where
  dst : BitVec 14
  src : BitVec 14
  chamber : BitVec 16
  net : Bool
  vc : BitVec 2
  rclass : BitVec 2
  hops : BitVec 3
  passed : Bool
  detour : BitVec 2
  rsv0 : BitVec 9
  tag : BitVec 32
  stamp : BitVec 24
  op : BitVec 8
  len : BitVec 13
  rsv1 : BitVec 3
  status : BitVec 4
  rsv2 : BitVec 12
  opinfo : BitVec 32
  addr : BitVec 64
  deriving DecidableEq, Repr

/-- A whole fabric packet: its header and its data bytes (R262). -/
structure Packet where
  hdr : Header
  data : List Byte
  deriving DecidableEq, Repr

/-- A flit of 68 B: 64 B of payload and the 4 B trailer (R257, R258). -/
structure Flit where
  payload : BitVec 512
  trailer : BitVec 32
  deriving DecidableEq, Repr

/-- The data of a DISCOVER packet (R306), with the outcome of the checks that only the surroundings decide:
whether the chains reach both roots and are neither denied nor expired (R308). -/
structure DiscoverMsg where
  moduleId : BitVec 14
  port : BitVec 6
  kind : BitVec 4
  stage : BitVec 2
  timeLocked : Bool
  epoch : BitVec 16
  verdict : BitVec 3
  nonce : List Byte
  chain : List Byte
  signature : List Byte
  tag : BitVec 32
  deriving DecidableEq, Repr

/-- The values of the straps at the sample (R298). -/
structure Straps where
  gallery : BitVec 9
  slot : BitVec 5
  bootMode : BitVec 2
  testEn : Bool
  deriving DecidableEq, Repr

/-- A power monitor (R377, R380): a line of a feed, or a transmit or receive lane of a port. -/
inductive Monitor where
  | line (f : Fin 16) (l : Fin 18)
  | tx (p : Fin 64) (l : Fin 18)
  | rx (p : Fin 64) (l : Fin 18)
  deriving DecidableEq, Repr

/-- A junction sensor (R438). -/
inductive Sensor where
  | sorus (g : Fin 200) (j : Fin 4)
  | memside (m : Fin 4) (j : Fin 8)
  | io (i : Fin 8) (j : Fin 16)
  deriving DecidableEq, Repr

/-- The result of margining one channel (R223, R224): eye widths, Vref windows, uncorrectable bursts in the
verification. -/
structure ChannelMargin where
  rdEye : BitVec 8
  wrEye : BitVec 8
  rdVref : BitVec 8
  wrVref : BitVec 8
  uncorrectable : Bool
  deriving DecidableEq, Repr

/-- The command set. A thallus instruction carries the thallus, its surroundings and bits [63:10] of its word
(R92, R93); an event carries the unit on which it falls and what arrives from outside. -/
inductive Instr where
  -- register writes
  | registerWrite (who : Requester) (off : Nat) (size : Nat) (val : Word)
  | ringReset (who : Requester) (d : Fin 8) (r : Fin 256) (val : Word)
  | ptCalStart (who : Requester) (p : Fin 64) (val : Word)
  | ptCalFlagClear (who : Requester) (p : Fin 64) (val : Word)
  | sorusReset (who : Requester) (val : Word)
  | portReset (who : Requester) (val : Word)
  | ddResetFlagClear (who : Requester) (val : Word)
  | faultClear (who : Requester) (val : Word)
  -- thallus instructions (03_thallus_instruction_set.md)
  | add (t : Fin 1200) (e : Env) (f : BitVec 54)
  | sub (t : Fin 1200) (e : Env) (f : BitVec 54)
  | and (t : Fin 1200) (e : Env) (f : BitVec 54)
  | or (t : Fin 1200) (e : Env) (f : BitVec 54)
  | xor (t : Fin 1200) (e : Env) (f : BitVec 54)
  | sll (t : Fin 1200) (e : Env) (f : BitVec 54)
  | srl (t : Fin 1200) (e : Env) (f : BitVec 54)
  | sra (t : Fin 1200) (e : Env) (f : BitVec 54)
  | mul (t : Fin 1200) (e : Env) (f : BitVec 54)
  | mulhu (t : Fin 1200) (e : Env) (f : BitVec 54)
  | divu (t : Fin 1200) (e : Env) (f : BitVec 54)
  | remu (t : Fin 1200) (e : Env) (f : BitVec 54)
  | slt (t : Fin 1200) (e : Env) (f : BitVec 54)
  | sltu (t : Fin 1200) (e : Env) (f : BitVec 54)
  | min (t : Fin 1200) (e : Env) (f : BitVec 54)
  | max (t : Fin 1200) (e : Env) (f : BitVec 54)
  | addi (t : Fin 1200) (e : Env) (f : BitVec 54)
  | andi (t : Fin 1200) (e : Env) (f : BitVec 54)
  | ori (t : Fin 1200) (e : Env) (f : BitVec 54)
  | xori (t : Fin 1200) (e : Env) (f : BitVec 54)
  | slli (t : Fin 1200) (e : Env) (f : BitVec 54)
  | srli (t : Fin 1200) (e : Env) (f : BitVec 54)
  | srai (t : Fin 1200) (e : Env) (f : BitVec 54)
  | li (t : Fin 1200) (e : Env) (f : BitVec 54)
  | lih (t : Fin 1200) (e : Env) (f : BitVec 54)
  | slti (t : Fin 1200) (e : Env) (f : BitVec 54)
  | clz (t : Fin 1200) (e : Env) (f : BitVec 54)
  | popc (t : Fin 1200) (e : Env) (f : BitVec 54)
  | lb (t : Fin 1200) (e : Env) (f : BitVec 54)
  | lbu (t : Fin 1200) (e : Env) (f : BitVec 54)
  | lh (t : Fin 1200) (e : Env) (f : BitVec 54)
  | lhu (t : Fin 1200) (e : Env) (f : BitVec 54)
  | lw (t : Fin 1200) (e : Env) (f : BitVec 54)
  | lwu (t : Fin 1200) (e : Env) (f : BitVec 54)
  | ld (t : Fin 1200) (e : Env) (f : BitVec 54)
  | sb (t : Fin 1200) (e : Env) (f : BitVec 54)
  | sh (t : Fin 1200) (e : Env) (f : BitVec 54)
  | sw (t : Fin 1200) (e : Env) (f : BitVec 54)
  | sd (t : Fin 1200) (e : Env) (f : BitVec 54)
  | beq (t : Fin 1200) (e : Env) (f : BitVec 54)
  | bne (t : Fin 1200) (e : Env) (f : BitVec 54)
  | blt (t : Fin 1200) (e : Env) (f : BitVec 54)
  | bge (t : Fin 1200) (e : Env) (f : BitVec 54)
  | bltu (t : Fin 1200) (e : Env) (f : BitVec 54)
  | bgeu (t : Fin 1200) (e : Env) (f : BitVec 54)
  | bbs (t : Fin 1200) (e : Env) (f : BitVec 54)
  | bbc (t : Fin 1200) (e : Env) (f : BitVec 54)
  | jal (t : Fin 1200) (e : Env) (f : BitVec 54)
  | jr (t : Fin 1200) (e : Env) (f : BitVec 54)
  | srd (t : Fin 1200) (e : Env) (f : BitVec 54)
  | endStage (t : Fin 1200) (e : Env) (f : BitVec 54)
  | nop (t : Fin 1200) (e : Env) (f : BitVec 54)
  | vadd (t : Fin 1200) (e : Env) (f : BitVec 54)
  | vsub (t : Fin 1200) (e : Env) (f : BitVec 54)
  | vmul (t : Fin 1200) (e : Env) (f : BitVec 54)
  | vfma (t : Fin 1200) (e : Env) (f : BitVec 54)
  | vmin (t : Fin 1200) (e : Env) (f : BitVec 54)
  | vmax (t : Fin 1200) (e : Env) (f : BitVec 54)
  | vand (t : Fin 1200) (e : Env) (f : BitVec 54)
  | vor (t : Fin 1200) (e : Env) (f : BitVec 54)
  | vxor (t : Fin 1200) (e : Env) (f : BitVec 54)
  | vshl (t : Fin 1200) (e : Env) (f : BitVec 54)
  | vshr (t : Fin 1200) (e : Env) (f : BitVec 54)
  | vabs (t : Fin 1200) (e : Env) (f : BitVec 54)
  | vneg (t : Fin 1200) (e : Env) (f : BitVec 54)
  | vsel (t : Fin 1200) (e : Env) (f : BitVec 54)
  | vcmplt (t : Fin 1200) (e : Env) (f : BitVec 54)
  | vcmpeq (t : Fin 1200) (e : Env) (f : BitVec 54)
  | vcmple (t : Fin 1200) (e : Env) (f : BitVec 54)
  | vbcast (t : Fin 1200) (e : Env) (f : BitVec 54)
  | vtos (t : Fin 1200) (e : Env) (f : BitVec 54)
  | vredadd (t : Fin 1200) (e : Env) (f : BitVec 54)
  | vredmax (t : Fin 1200) (e : Env) (f : BitVec 54)
  | vredmin (t : Fin 1200) (e : Env) (f : BitVec 54)
  | vexp2 (t : Fin 1200) (e : Env) (f : BitVec 54)
  | vlog2 (t : Fin 1200) (e : Env) (f : BitVec 54)
  | vrcp (t : Fin 1200) (e : Env) (f : BitVec 54)
  | vrsqrt (t : Fin 1200) (e : Env) (f : BitVec 54)
  | vtanh (t : Fin 1200) (e : Env) (f : BitVec 54)
  | vsigm (t : Fin 1200) (e : Env) (f : BitVec 54)
  | vcvt (t : Fin 1200) (e : Env) (f : BitVec 54)
  | pmov (t : Fin 1200) (e : Env) (f : BitVec 54)
  | ptos (t : Fin 1200) (e : Env) (f : BitVec 54)
  | pand (t : Fin 1200) (e : Env) (f : BitVec 54)
  | por (t : Fin 1200) (e : Env) (f : BitVec 54)
  | vld (t : Fin 1200) (e : Env) (f : BitVec 54)
  | vst (t : Fin 1200) (e : Env) (f : BitVec 54)
  | vgather (t : Fin 1200) (e : Env) (f : BitVec 54)
  | vscatter (t : Fin 1200) (e : Env) (f : BitVec 54)
  | mma (t : Fin 1200) (e : Env) (f : BitVec 54)
  | mmaTs (t : Fin 1200) (e : Env) (f : BitVec 54)
  | tfill (t : Fin 1200) (e : Env) (f : BitVec 54)
  | tdrain (t : Fin 1200) (e : Env) (f : BitVec 54)
  | tmove (t : Fin 1200) (e : Env) (f : BitVec 54)
  | tzero (t : Fin 1200) (e : Env) (f : BitVec 54)
  | tstrm (t : Fin 1200) (e : Env) (f : BitVec 54)
  | trowst (t : Fin 1200) (e : Env) (f : BitVec 54)
  | xdesc (t : Fin 1200) (e : Env) (f : BitVec 54)
  | xcopy (t : Fin 1200) (e : Env) (f : BitVec 54)
  | xld (t : Fin 1200) (e : Env) (f : BitVec 54)
  | xst (t : Fin 1200) (e : Env) (f : BitVec 54)
  | xamo (t : Fin 1200) (e : Env) (f : BitVec 54)
  | waitc (t : Fin 1200) (e : Env) (f : BitVec 54)
  | consume (t : Fin 1200) (e : Env) (f : BitVec 54)
  | cread (t : Fin 1200) (e : Env) (f : BitVec 54)
  | fenceL (t : Fin 1200) (e : Env) (f : BitVec 54)
  | fenceF (t : Fin 1200) (e : Env) (f : BitVec 54)
  | acq (t : Fin 1200) (e : Env) (f : BitVec 54)
  | flush (t : Fin 1200) (e : Env) (f : BitVec 54)
  -- thallus events
  | stageStop (t : Fin 1200)
  | stageDeadlineExpiry (t : Fin 1200)
  | nearCacheRefillDone (t : Fin 1200) (e : Ecc)
  | xldReply (t : Fin 1200) (tag : BitVec 32)
  | issueStallEnd (t : Fin 1200) (e : Env)
  | fenceComplete (t : Fin 1200)
  | rangeOpComplete (t : Fin 1200)
  | stageEndReport (t : Fin 1200)
  | waitSatisfied (t : Fin 1200)
  | waitDeadline (t : Fin 1200)
  | fillComplete (t : Fin 1200) (fr : Fin 4) (e : Env)
  | accumulatorComplete (t : Fin 1200) (fr : Fin 4) (acc : Fin 4) (e : Env)
  | drainComplete (t : Fin 1200) (fr : Fin 4) (e : Env)
  -- sleep and wake
  | wakeRequest (d : Fin 8) (s : Option (Fin 25)) (stamp : Word)
  | wakeGrant (d : Fin 8)
  | sorusWakeComplete (g : Fin 200)
  | sorusPowerGate (g : Fin 200)
  | sorusDeepOff (g : Fin 200)
  | deadlineWakeTimer (g : Fin 200)
  | pllStop (d : Fin 8)
  | pllLocked (d : Fin 8)
  -- router and gathering queues
  | routerBatch (d : Fin 8) (b : Fin 8) (e : Ecc)
  | batchComplete (d : Fin 8) (b : Fin 8)
  | queueEnqueue (d : Fin 8) (b : Fin 8)
  | gatherRelease (d : Fin 8) (q : Fin 256) (lost : BitVec 16)
  | releaseArrived (d : Fin 8) (q : Fin 256)
  | windowExpiry (d : Fin 8) (q : Fin 256)
  | queueFlush (d : Fin 8) (q : Fin 256)
  -- rings and launches
  | ringPoll (d : Fin 8) (r : Fin 256)
  | ringEntryRead (d : Fin 8) (r : Fin 256) (entry : BitVec 512)
  | ringLaunch (d : Fin 8) (r : Fin 256) (shared : BitVec 1024) (e : Ecc)
  | ringCancel (d : Fin 8) (r : Fin 256)
  | ringNop (d : Fin 8) (r : Fin 256)
  | launchResources (d : Fin 8) (i : Fin 64)
  | launchLoadDone (d : Fin 8) (i : Fin 64) (e : Ecc)
  | stageWakeDue (d : Fin 8) (i : Fin 64) (st : Fin 64)
  | launchEnding (d : Fin 8) (i : Fin 64)
  | launchDeadline (d : Fin 8) (i : Fin 64)
  -- memory side
  | homeAccess (n : Nat) (e : Ecc)
  | journalHoldRelease (m : Fin 4) (k : Fin 8)
  | sumpIdleWriteback (m : Fin 4) (line : Nat)
  | stackSelfRefresh (stack : Fin 32)
  | readRetryResult (stack : Fin 32) (good : Bool)
  | writeRepeatResult (stack : Fin 32) (good : Bool)
  | remapCopyDone (stack : Fin 32) (failed : List (Fin 64))
  | scrubRead (stack : Fin 32) (burst : Nat) (e : Ecc)
  | stackTempPoll (stack : Fin 32) (first : Option (BitVec 8)) (second : Option (BitVec 8))
  | marginingDone (stack : Fin 32) (res : List ChannelMargin)
  | chamberClearDone (k : Fin 8)
  | stackZeroDone (m : Fin 4)
  | ledgerRequest (m : Fin 4)
  | ledgerSnapshot
  | ledgerCheck (pool : Nat) (read1 : Bool) (read2 : Bool)
  -- fabric link layer
  | dataFlit (p : Fin 64) (f : Flit)
  | controlFlit (p : Fin 64) (f : Flit)
  | controlFlitSend (p : Fin 64)
  | nakRepeat (p : Fin 64)
  | linkLoss (p : Fin 64)
  | linkUp (p : Fin 64)
  | onpkgLinkLoss (n : Fin 57)
  -- withdrawal, discovery, routes, time, chambers
  | withdraw (p : Fin 64) (moduleId : BitVec 14) (reason : BitVec 2) (at_ : Word) (tag : BitVec 32)
  | withdrawReply (p : Fin 64)
  | withdrawDrainEnd
  | discover (p : Fin 64) (msg : DiscoverMsg) (certOk : Bool) (sigOk : Bool)
  | discoverReply (p : Fin 64) (stage : BitVec 2)
  | discoveryTimeout (p : Fin 64)
  | discoveryRetryTimer (p : Fin 64)
  | portAbsent (p : Fin 64)
  | absentRetrain (p : Fin 64)
  | routeNotice (p : Fin 64) (moduleId : BitVec 14) (serial : BitVec 32) (reach : BitVec 289) (dist : BitVec 8) (tag : BitVec 32)
  | routeNoticeReply (p : Fin 64)
  | routeNoticeTimer
  | passageExpiry (slot : Fin 24)
  | timeExchangeTimer
  | timeExchange (p : Fin 64) (t1 : Word) (t2 : Word) (tag : BitVec 32)
  | timeExchangeReply (p : Fin 64) (t1 : Word) (t2 : Word) (t3 : Word) (t4 : Word) (dist : BitVec 8) (source : BitVec 14) (locked : Bool)
  | ppsEdge (stamp : Word)
  | ppsLoss
  | chamberStartDecision (k : Fin 8)
  | strapSample (v : Straps)
  | strapTimeout
  -- remote memory
  | load (i : Fin 8) (pk : Packet) (e : Ecc)
  | store (i : Fin 8) (pk : Packet) (e : Ecc)
  | atomic (i : Fin 8) (pk : Packet) (e : Ecc)
  | copyWrite (i : Fin 8) (pk : Packet) (e : Ecc)
  | copyRead (i : Fin 8) (pk : Packet) (e : Ecc)
  | blockFetch (i : Fin 8) (pk : Packet) (e : Ecc)
  | aggStore (i : Fin 8) (pk : Packet) (e : Ecc)
  | remoteReply (pk : Packet)
  | statusOnly (pk : Packet)
  | requestTimeout (tag : BitVec 32)
  | aggBufferSend (i : Fin 8) (n : Nat)
  | descCopy (t : Fin 1200) (seq : BitVec 64) (e : Ecc)
  | descFanout (t : Fin 1200) (seq : BitVec 64) (e : Ecc)
  | descAmoArray (t : Fin 1200) (seq : BitVec 64) (e : Ecc)
  | descQsend (t : Fin 1200) (seq : BitVec 64) (e : Ecc)
  | descUnpack (t : Fin 1200) (seq : BitVec 64) (e : Ecc)
  | transferComplete (t : Fin 1200) (seq : BitVec 64) (e : Ecc)
  -- optics
  | feedPilotCheck (f : Fin 16) (lines : List Int) (total : Int)
  | feedFullPowerCheck (f : Fin 16) (lines : List Int) (total : Int)
  | feedPilotRetry (f : Fin 16)
  | feedPowerLoss (f : Fin 16)
  | ringLockLoss (p : Fin 64) (tx : Bool) (l : Fin 18)
  | ringRelockTimeout (p : Fin 64) (tx : Bool) (l : Fin 18)
  | monitorReading (mon : Monitor) (cdb : Int)
  | moveReq (p : Fin 64) (frame : Word)
  | trainStart (p : Fin 64) (frame : Word)
  | trained (p : Fin 64) (frame : Word)
  | mirrorOn (p : Fin 64) (frame : Word)
  | switched (p : Fin 64) (frame : Word)
  | calStart (p : Fin 64) (frame : Word)
  | calDone (p : Fin 64) (frame : Word)
  | lmcAbort (p : Fin 64) (frame : Word)
  | lmcMap (p : Fin 64) (frame : Word)
  | lmcAck (p : Fin 64) (frame : Word)
  | lmcFrameRepeat (p : Fin 64)
  | laneTrained (p : Fin 64) (x : Fin 18)
  | mirrorVerified (p : Fin 64)
  | spareRetrainDone (p : Fin 64) (x : Fin 18) (pass : Bool)
  | calibrationPhaseEnd (pass : Bool)
  | calSettingsRestored (p : Fin 64)
  | selectorRelockDone (p : Fin 64) (l : Fin 18)
  -- Volosh
  | hello (p : Fin 64) (version : BitVec 8) (winLog2 : BitVec 6) (modTags : BitVec 12) (hostTags : BitVec 12)
  | helloRepeat (p : Fin 64)
  | inv (off : BitVec 52) (tag : BitVec 16)
  | recall (off : BitVec 52) (tag : BitVec 16)
  | voloshData (tag : BitVec 16) (status : BitVec 4) (state : BitVec 2) (data : List Byte)
  | voloshAck (tag : BitVec 16) (status : BitVec 4)
  | devRd (tag : BitVec 16) (addr : BitVec 52) (rlen : BitVec 13) (e : Ecc)
  | devWr (tag : BitVec 16) (addr : BitVec 52) (data : List Byte) (cen : Bool) (cnt : BitVec 12) (e : Ecc)
  | regRd (tag : BitVec 16) (off : BitVec 52) (rlen : BitVec 13)
  | regWr (tag : BitVec 16) (off : BitVec 52) (data : List Byte)
  | wbTimer (off : BitVec 52)
  | voloshLoss
  -- SPDM and confidential chambers
  | getVersion (version : BitVec 8)
  | getCapabilities (flags : BitVec 32)
  | negotiateAlgorithms (offersFixedSet : Bool)
  | getDigests
  | getCertificate (slot : BitVec 8) (off : BitVec 16) (len : BitVec 16)
  | getMeasurements (nonce : List Byte) (signed : Bool)
  | keyExchange (reqSession : BitVec 16) (exchange : List Byte)
  | finish (verifyOk : Bool) (mutualOk : Bool)
  | bind (tag : BitVec 16) (stamp : Word)
  | keyUpdate
  | endSession
  | spdmHeartbeat
  | spdmHeartbeatTimeout
  | spdmAttest (nonce : List Byte)
  | getDigestList (k : Fin 8) (page : Nat)
  | bounceLoad (k : Fin 8) (slot : List Byte)
  | bounceExport (k : Fin 8) (slot : List Byte) (e : Ecc)
  | bounceNop (k : Fin 8) (slot : List Byte)
  -- clocks, thermal, pins
  | dripLoss
  | dripRestore
  | sensorSample (sn : Sensor) (first : Option Int) (second : Option Int)
  | thermalRelease (n : Fin 22)
  | warmReset
  | modResetRelease
  | powerFail
  | coldStart (vaon : Bool) (present : BitVec 22)
  | laserFault (f : Fin 16)
  | inputMaskEnd (n : Fin 19) (level : Bool)
  | heldLevelReport (n : Fin 19)
  | vaonLoss
  -- trusted firmware and gates
  | sfwWatchdog
  | lockstepMismatch (pc : Word) (within1s : Bool)
  | slotConfirm
  | windowGate (mb : Fin 3) (k : Word) (win : Word) (w0 w1 w2 w3 : Word)
  | feedEnable (mb : Fin 3) (feed : Word)
  | feedDisable (mb : Fin 3) (feed : Word)
  | feedHandover (mb : Fin 3) (io : Word) (feed : Word)
  | stackMargin (mb : Fin 3) (m : Word) (c : Word)
  | stackMarginReturn (mb : Fin 3) (m : Word) (c : Word)
  | stackRemove (mb : Fin 3) (m : Word) (c : Word)
  | timeStart (mb : Fin 3) (v : Word)
  | updateChunk (mb : Fin 3) (kind : Word) (idx : Word) (page : List Byte)
  | updateCommit (mb : Fin 3) (kind : Word) (len : Word) (sigOk : Bool)
  | isolateDie (mb : Fin 3) (die : Word)
  | withdrawCommand (mb : Fin 3)
  | startShadow (mb : Fin 3) (a0 a1 a2 a3 a4 : Word)
  | clearChamber (mb : Fin 3) (k : Word)
  | maintEnter (mb : Fin 3)
  | maintLeave (mb : Fin 3)
  | commission (mb : Fin 3) (part : Word) (last : Bool) (page : List Byte) (rootSigned : Bool)
  -- dies and links
  | heartbeatLoss (n : Fin 22)
  | dieRejoin (n : Fin 22)
  | standaloneTestDone (n : Fin 22) (code : BitVec 4)
  | zalaoftIdent (n : Fin 57) (rec : BitVec 512)
  | zalaoftLink (n : Fin 57) (rec : BitVec 512)
  | zalaoftFabric (n : Fin 57) (rec : BitVec 512)
  | zalaoftPorts (n : Fin 57) (rec : BitVec 512)
  | zalaoftPool (n : Fin 57) (rec : BitVec 512)
  | zalaoftLedger (n : Fin 57) (rec : BitVec 512)
  | zalaoftTime (n : Fin 57) (rec : BitVec 512)
  | zalaoftMgmt (n : Fin 57) (rec : BitVec 512)
  | zalaoftAccessory (n : Fin 57) (rec : BitVec 512)
  | capEnd (n : Fin 57) (rec : BitVec 512)
  | agree (n : Fin 57) (rec : BitVec 512)
  | agreeAck (n : Fin 57) (rec : BitVec 512)
  | negotiationTimeout (n : Fin 57)
  | accessoryRequest (pk : Packet) (e : Ecc)
  -- reporting and fleet operation
  | recordTake
  | scoreUpdate
  | sessionOpen (control : Bool) (chainOk : Bool)
  | sessionTimeout (id : Nat)
  | mgmtAttest (id : Nat) (tag : Word) (nonce : List Byte)
  | mgmtRecords (id : Nat) (tag : Word) (first : Word) (count : Nat) (follow : Bool)
  | mgmtScores (id : Nat) (tag : Word) (kinds : BitVec 8) (min : BitVec 16)
  | mgmtRead (id : Nat) (tag : Word) (off : Nat) (count : Nat)
  | mgmtGate (id : Nat) (tag : Word) (gate : BitVec 8) (args : List Word) (page : List Byte)
  | mgmtFeed (id : Nat) (tag : Word) (source : BitVec 14) (sigOk : Bool) (steps : List (Word × BitVec 384))
  | mgmtHeartbeat (id : Nat)
  | mgmtHeartbeatSend
  | shadowStep (m : Fin 4)
  | shadowDigestDone
  | shadowUnmatched (step : Word)
  | availHourly
  | phyScan (found : Option (Fin 32))
  | smbusReadIdent
  | smbusReadPosition
  | smbusReadState
  | smbusReadDieState
  | smbusReadThDie (n : Fin 22)
  | smbusReadAvail
  -- rows added after the others
  | suspectLaneRetrained (p : Fin 64) (tx : Bool) (l : Fin 18) (pass : Bool)
  | laserFaultCleared (f : Fin 16)
  | voloshUnlistedRequest (opc : BitVec 8) (tag : BitVec 16)
  | flashWriteDone (ok : Bool)
  | sorusResetDone (g : Fin 200)
  | ucieTrainingDone (n : Fin 57) (pass : Bool)
  | ucieLaneRepairDone (n : Fin 57) (mod : Fin 4) (pass : Bool)
  | stackTrainingDone (m : Fin 4)
  | tokenAdmission (m : Fin 4) (k : Fin 8) (e : Ecc)
  | flitSlotGrant (p : Fin 64)
  | ringReacquired (p : Fin 64) (tx : Bool) (l : Fin 18)
  | jtagStandaloneTest (n : Fin 22)
  | issuePeriodEnd (t : Fin 1200) (fr : Fin 4) (e : Env)
  deriving DecidableEq, Repr

end Sys2Proof
end

