-- ==== Sys2Proof/Decode.lean ====
section
/-! DEFINITION. Words of spec/opcode_table.json. The table gives no row bits, so no word spells a command. -/

namespace Sys2Proof

/-- The command that a table word spells: none, since the table gives none of its rows bits. -/
def decodeTableWord (_nbits _w : Nat) : Option Instr := none

end Sys2Proof
end

