-- ==== Sys2Proof/Config.lean ====
section
/-! DEFINITION. What one part fixes and the manual leaves open: free values, as constants with no body. Nothing
in Lean can evaluate one, so a statement that mentions one holds for every value of it. -/

namespace Sys2Proof.Config

/-- Contents of an accumulator element that no instruction has written since stage start (R62): by the
thallus's stage-start count and the element's place. Log 10. -/
opaque undefinedAcc : Nat → Nat → Nat → BitVec 32

/-- Result that the part would give for an approximation (R102), whose bits the manual bounds and does not state: by the
instruction's opcode, the type code and the operand. The model takes it where it lies within the bound. Log 11. -/
opaque approx : Nat → Nat → BitVec 32 → BitVec 32

/-- Value of a result that the manual leaves unstated for the operands given: by the reading instruction's
opcode and a fresh count. Log 12. -/
opaque freeWord : Nat → Nat → BitVec 64

/-- Which of the two values a read of a burst returns after a last-use drop (R199), by a fresh count and the
burst: true for the dropped value. Log 13. -/
opaque afterDrop : Nat → Nat → Bool

/-- What the memory-side cache's address hash makes of the address bits above a run of 65,536 lines (R196). Log 14. -/
opaque cacheHash : Nat → Nat

/-- A byte of a stack whose contents were not kept in partial-array self-refresh (R191), by its local address. Log 86. -/
opaque unkeptByte : Nat → BitVec 8

/-- Which of the bursts of an access an error strikes (R207), by a fresh count and the number of bursts. Log 63. -/
opaque struckBurst : Nat → Nat → Nat

/-- Whether an error of an access that both reads and writes strikes its write (R190, R208), by a fresh count. Log 63. -/
opaque strikesWrite : Nat → Bool

/-- The 32 meta bits of a burst: the check bytes of the end-to-end code, by its data and its stack offset bits [35:5],
and the error that it finds (R206). Log 87. -/
opaque metaBits : List Byte → Nat → BitVec 32

/-- For an overlapping XCOPY (R113), whether destination byte `a` takes the byte already copied (true) or the
byte as it was before the copy. Log 15. -/
opaque overlapNew : Nat → Nat → Bool

/-- SHA-384 of a byte string (R162, R177, R421, R475). Log 16. -/
opaque sha384 : List Byte → BitVec 384

/-- AES-256-GCM open (R417, R420, R422): key, 12-byte IV, additional data, ciphertext and tag; the plaintext, or
none where the tag fails. Log 16. -/
opaque gcmOpen : BitVec 256 → BitVec 96 → List Byte → List Byte → BitVec 128 → Option (List Byte)

/-- AES-256-GCM seal: ciphertext and tag. Log 16. -/
opaque gcmSeal : BitVec 256 → BitVec 96 → List Byte → List Byte → List Byte × BitVec 128

/-- HKDF-Expand over HMAC-SHA-384 (R416): the secret's handle, the label and the tag. Log 16. -/
opaque hkdf : Nat → Nat → BitVec 16 → BitVec 256

/-- ECDSA P-384 signature by the device key over a digest (R305, R475). Log 16. -/
opaque sign : BitVec 384 → BitVec 768

/-- A fresh nonce or random value (R305, R415). Log 12. -/
opaque nonce : Nat → BitVec 384

/-- One second of decay of a wear score (R520): the score and the half-life in hours. Log 17. -/
opaque decay : Nat → Nat → Nat

/-- The device certificate chain of this part (R415, R475). Log 18. -/
opaque deviceChainAt : Nat → List Byte

/-- What identifies the silicon of this part: the identity digest of each die (R503, R505) by its number, the ROM
measurement (R475) at 64, and at 100 and above the revision byte of a die's IDENT record. Log 19. -/
opaque dieDigest : Nat → BitVec 384

end Sys2Proof.Config
end

