-- ==== Sys2Proof/Machine/State.lean ====
section
/-! DEFINITION. The state of the module: every piece of state the manual names, as plain data. -/

namespace Sys2Proof.Machine

/-- A finite map from numbers, as pairs in rising key order. -/
abbrev SMap (α : Type) := List (Nat × α)

/-- A field of a register: its lowest bit and its width (R2). -/
structure Fld where
  lo : Nat
  w : Nat
  deriving DecidableEq, Repr

/-! ### Thallus -/

/-- A stationary bank of a frond (R63, R80, R104, R126): the tag of its last fill (TYPE, SPARSE), 256 element
codes in column order, the metadata words and the scale bytes. -/
structure Bank where
  tag : Option (Nat × Nat)
  vals : List (BitVec 16)
  mdata : List (BitVec 32)
  scales : List Byte
  deriving DecidableEq, Repr

/-- One frond (R62–R77): its two banks, the fill in progress, the issue period in force, the mode of its last
matrix instruction, the accumulators not yet complete, and its drain slot. -/
structure Frond where
  active : Bank
  shadow : Bank
  fill : Option Bank
  busy : Bool
  mode : Option Nat
  incomplete : List Nat
  draining : Bool
  deriving DecidableEq, Repr

/-- A line of the near cache (R54, R234). -/
structure NLine where
  tag : Nat
  dirty : BitVec 64
  data : List Byte
  deriving DecidableEq, Repr

/-- A wait entry of the wait unit (R48, R117); `notified` where the memory-side die has given its notification, which
is not dropped (R50). -/
structure Wait where
  counter : Nat
  target : Word
  deadline : Word
  rd : BitVec 5
  dx : Bool
  notified : Bool
  deriving DecidableEq, Repr

/-- What an issued instruction of a thallus still waits for before the next may issue (R98, R118, R119, R120). -/
inductive Block where
  | miss (addr : Nat) (size : Nat) (signed : Bool) (rd : BitVec 5) (store : Option Word) (pc : Word) (word : Word)
  | fenceL
  | fenceF
  | range (acq : Bool) (base : Nat) (len : Nat)
  | ending
  deriving DecidableEq, Repr

/-- State of one segment of a descriptor (R349, R356): not started; an UNPACK's, with this many blocks done and
its first failure; waiting for this many packets or local pieces; waiting for its mark; done; failed with a status. -/
inductive SegSt where
  | idle
  | part (blocks : Nat) (worst : Nat)
  | waiting (packets : Nat) (retried : Bool) (worst : Nat)
  | mark (retried : Bool)
  | ok
  | failed (status : Nat)
  deriving DecidableEq, Repr

/-- A descriptor in a thallus's transfer queue (R110, R112, R347); `dests` holds the destinations that a FANOUT's table
entries named, with their counters (R358), and `refused` marks one that R350 refused and whose record is still to write. -/
structure Xfer where
  seq : Nat
  desc : BitVec 512
  segs : List SegSt
  retried : Bool
  delivered : Nat
  stopped : Bool
  slot : Nat
  dests : SMap (Word × Bool × Nat)
  refused : Bool
  deriving DecidableEq, Repr

/-- An exception that falls due and waits for the instruction boundary (R122, R125): its code, the instruction it is of,
the status and the address. -/
structure DueExc where
  code : Nat
  pc : Word
  word : Word
  status : Nat
  addr : Word
  deriving DecidableEq, Repr

/-- How a thallus came to stop (R123): a deadline or a stage stop, a precise exception, or one whose status returned
late. -/
inductive StopKind where
  | outside | precise | late
  deriving DecidableEq, Repr

/-- One thallus (R51, R87). Registers not listed hold zero; bank, frond and line maps list what differs from the
state at stage start (R88). -/
structure Thallus where
  sregs : SMap Word
  vregs : SMap (BitVec 1024)
  pregs : SMap (BitVec 128)
  pc : Word
  istore : SMap Word
  codeLen : Nat
  ctx : SMap Word
  acc : SMap (BitVec 32)
  accInt : SMap Bool
  starts : Nat
  fronds : SMap Frond
  near : SMap NLine
  plru : SMap (BitVec 3)
  queue : List Xfer
  nextSeq : Nat
  waitRd : List (Nat × BitVec 32)
  tagSerial : Nat
  wait : Option Wait
  held : Option Word
  block : Option Block
  launch : Option Nat
  branchPc : Option Word
  due : List DueExc
  stopped : Option (Word × StopKind)
  deriving DecidableEq, Repr

/-- A bank as it stands before any fill since stage start: no tag (R88). -/
def Bank.empty : Bank := ⟨none, [], [], []⟩

/-- A frond at stage start (R88). -/
def Frond.init : Frond := ⟨Bank.empty, Bank.empty, none, false, none, [], false⟩

/-- A thallus that has run no stage (R88; log 3). -/
def Thallus.init : Thallus :=
  { sregs := [], vregs := [], pregs := [], pc := 0, istore := [], codeLen := 0, ctx := [], acc := [],
    accInt := [], starts := 0, fronds := [], near := [], plru := [], queue := [], nextSeq := 0, waitRd := [],
    tagSerial := 0, wait := none, held := none, block := none, launch := none, branchPc := none, due := [], stopped := none }

/-! ### Launches, routers, gathering queues (04, 05) -/

/-- A stage record (R160) with what the scheduler knows of the stage: whether its sori have been asked to wake, the
sori whose thalli have started, and whether a first arrival was counted (R179). -/
structure Stage where
  sori : BitVec 25
  die : Nat
  wakeCntEn : Bool
  wakeCnt : Nat
  codeOff : Nat
  codeLen : Nat
  entry : Nat
  firstInput : Nat
  wakeTarget : Nat
  asked : Bool
  started : BitVec 25
  arrived : Bool
  deriving DecidableEq, Repr

/-- A stage-queue binding (R162) and the transfer engine's state of it (R163, R164): sends made, sends not
matched by a returned credit, the next slot to be counted, whether it is closed. -/
structure StageQueue where
  prod : Nat
  cons : Nat
  dcnt : Nat
  ccnt : Nat
  slotOff : Nat
  nslot : Nat
  slotBytes : Nat
  sent : Nat
  unmatched : Nat
  closed : Bool
  deriving DecidableEq, Repr

/-- One entry bound for a gathering queue (R145). -/
structure GEntry where
  die : Nat
  queue : Nat
  token : BitVec 32
  row : Nat
  rank : Nat
  weight : BitVec 32
  time : Nat
  launch : Nat
  deriving DecidableEq, Repr

/-- A router batch in progress (R142–R146). -/
structure Batch where
  slotAddr : Nat
  sends : List GEntry
  final : Bool
  dropped : Nat
  routed : Nat
  err : Nat
  deriving DecidableEq, Repr

/-- A router binding (R140) with its expert map (R141), the ring slot next in turn, and its batch. -/
structure Router where
  trig : Nat
  doneCnt : Nat
  nslot : Nat
  ringBase : Nat
  stride : Nat
  emap : Nat
  experts : List (BitVec 16)
  slot : Nat
  batch : Option Batch
  launch : Nat
  deriving DecidableEq, Repr

/-- A release of a gathering queue in progress (R151–R153), with the rows as they were at its start. -/
structure Release where
  slot : Nat
  seq : Nat
  entries : List GEntry
  rows : List (List Byte)
  flags : BitVec 8
  stamp : Word
  lost : BitVec 16
  deriving DecidableEq, Repr

/-- A gathering queue: its binding (R149) and its state (R152–R154): pending entries, releases made, whether a partial
release is owed, the router bindings with a FINAL batch since the last flush, entries still to flush. -/
structure GQueue where
  kt : Nat
  ty : Nat
  nslot : Nat
  cnt : Nat
  rowBytes : Nat
  firstSorus : Nat
  tmask : BitVec 24
  slotOff : Nat
  slotStride : Nat
  window : Nat
  launch : Nat
  pend : List GEntry
  seq : Nat
  due : Bool
  finals : List Nat
  flush : Option Nat
  releasing : Option Release
  deriving DecidableEq, Repr

/-- What a launch-table slot holds beside its words (R172): its stages, bindings and progress. `home` and
`satellites` name slots as 64·d + i; `cancel` is the completion status asked for; `stopping` says that its thalli
stop (R182, R183); `exc` is the exception code of the first faulted stage; `orphan` says that the home entry is lost with
its die (R185), and `home` then names the satellite that keeps what it kept. -/
structure Launch where
  stages : List Stage
  routers : List Router
  gqs : List (Nat × Nat × GQueue)
  sqs : List StageQueue
  ring : Nat
  subStamp : Word
  submitted : BitVec 32
  ran : Word
  cancel : Option Nat
  stopping : Bool
  exc : Nat
  digest : BitVec 384
  home : Nat
  satellites : List Nat
  orphan : Bool
  deriving DecidableEq, Repr

/-- The residency record of a sorus (R177). -/
structure Resident where
  digest : BitVec 384
  codeOff : Nat
  codeLen : Nat
  entry : Nat
  deriving DecidableEq, Repr

/-- A ring of a die scheduler beside its registers (R169–R171): CSEQ, the read outstanding, whether this lap has
been re-read, the accepted entries not yet acted on, and for a bound chamber the highest SEQ sealed and the number of
entries sealed in each direction (R417). -/
structure Ring where
  cseq : BitVec 32
  reading : Bool
  reread : Bool
  accepted : List (BitVec 512)
  sealedIn : Option (BitVec 32)
  sealedOut : Option (BitVec 32)
  nIn : Nat
  nOut : Nat
  deriving DecidableEq, Repr

/-- One compute die beside its registers: wake requests waiting for a grant (R178), the arbiter pointer (R35),
sori whose wake is granted, resets pending, the last wake window with its grants, its launches, rings, router bindings, queues and
residency, and whether its router unit is fail-stopped (R288). -/
structure CDie where
  wakeReqs : List (Nat × Word)
  wakePtr : Nat
  waking : List Nat
  resetting : List Nat
  window : Nat × Nat
  launches : SMap Launch
  rings : SMap Ring
  routers : SMap Router
  queues : SMap GQueue
  resident : SMap Resident
  timers : SMap Word
  routerStopped : Bool
  deriving DecidableEq, Repr

/-! ### Memory side (06, 10) -/

/-- A line of the memory-side cache (R196): valid and dirty bursts, keep mark, chamber, and its 128 B. The list
of a die holds the most recently used line first. -/
structure MLine where
  line : Nat
  valid : BitVec 4
  dirty : BitVec 4
  keep : Bool
  chamber : Nat
  data : List Byte
  deriving DecidableEq, Repr

/-- A regulator (R201): level and floor credit in 1/128 token. -/
structure Regulator where
  level : Nat
  credit : Nat
  failed : Bool
  deriving DecidableEq, Repr

/-- What an access or packet of a descriptor's segment is: the move of a piece, the read of the source of the piece at
an offset, or of a FANOUT's table entry. -/
inductive XPart where
  | move
  | source (off : Nat)
  | entry
  deriving DecidableEq, Repr

/-- Who sent an access to its home (R192, R227). -/
inductive Origin where
  | thallus (t : Nat)
  | copy (t : Nat)
  | near (t : Nat)
  | xfer (t : Nat) (seq : Nat) (seg : Nat) (part : XPart)
  | fabric (io : Nat) (hdr : Header)
  | volosh (tag : BitVec 16)
  | accessory (hdr : Header)
  | gateway (io : Nat)
  deriving DecidableEq, Repr

/-- What an access does at its home; `patch` writes the bytes of a burst under a mask. An array atomic and an aggregated
store hold what is still to do, and the first failure so far. -/
inductive AKind where
  | read
  | write (data : List Byte)
  | patch (mask : BitVec 32) (data : List Byte)
  | amo (op : Nat) (ty : Nat) (operand : Word) (cmp : Word)
  | copy (dst : Nat) (done : Nat) (old : SMap Byte)
  | amoArray (op : Nat) (ty : Nat) (data : List Byte) (failed : Option (Nat × Nat))
  | agg (recs : List (Nat × BitVec 8 × Word)) (done : Nat) (mask : Nat) (failed : Nat)
  deriving DecidableEq, Repr

/-- An access on its way to its home (R231, R232), with what its sender needs when it ends (R114). -/
structure Access where
  org : Origin
  kind : AKind
  addr : Nat
  size : Nat
  hint : Nat
  chamber : Nat
  cnt : Option Nat
  stat : Bool
  tag : BitVec 32
  pc : Word
  word : Word
  stamp : Word
  rd : BitVec 5
  run : Nat
  deriving DecidableEq, Repr

/-- A sump entry (R359): the line, its value and the requests queued behind it. -/
structure SumpEntry where
  line : Nat
  queued : Nat
  deriving DecidableEq, Repr

/-- One memory-side die beside its registers; `admPtr` is the pointer of its admission arbiter (R35, R37). -/
structure MDie where
  cache : List MLine
  regs : SMap Regulator
  sump : List SumpEntry
  held : List Access
  jnlHeld : List Access
  jnlGap : List Nat
  frozen : List Nat
  ledgerReqs : List (BitVec 512)
  admPtr : Nat
  deriving DecidableEq, Repr

/-- One stack beside its registers: lost bursts (R209), spare rows taken by (channel, bank), accesses held for a
retry or a repeat (R207, R208), the remap copies in progress (R214: entry and the value it takes), the admitted accesses
that a copy or a retry holds back, temperature history (R218, R221), whether it is in self-refresh and whether its
contents are no longer kept (R191), the margining action asked for (R222), and the bytes dropped by last use (R199). -/
structure Stack where
  lost : List Nat
  spares : SMap Nat
  retry : List Access
  repeating : List Access
  remaps : List (Nat × Word)
  heldRow : List Access
  cool : SMap Nat
  failedPolls : Nat
  selfRefresh : Bool
  unkept : Bool
  action : Nat
  clearWanted : Bool
  dropped : SMap Byte
  deriving DecidableEq, Repr

/-- A pool of the conservation ledger (R285): what is not measured. -/
structure Pool where
  issued : Nat
  returned : Nat
  retired : Nat
  deriving DecidableEq, Repr

/-- A snapshot of a pool (R287): issued, returned, in flight, retired. -/
structure PoolSnap where
  issued : Nat
  returned : Nat
  inFlight : Nat
  retired : Nat
  deriving DecidableEq, Repr

/-! ### Fabric (08, 09, 10) -/

/-- Where a packet being received goes (R268): to this module, to an output port and VC, or nowhere. -/
inductive RouteTo where
  | here
  | out (port : Nat) (vc : Nat)
  | dropped
  deriving DecidableEq, Repr

/-- A packet being received on one (network, VC) of a port. -/
structure Partial where
  hdr : Header
  data : List Byte
  goes : RouteTo
  deriving DecidableEq, Repr

/-- A flit waiting at a port output (R268): its packet, the requester it is of at the output arbiter (R36), the
receive cell it holds, and its packet's STAMP and CHAMBER. Its sequence number and CRC are set as it is sent. -/
structure OutFlit where
  flit : Flit
  pid : Nat
  src : Nat
  cell : Option (Nat × Nat)
  stamp : BitVec 24
  chamber : BitVec 16
  deriving DecidableEq, Repr

/-- A lane move in one direction of a port (R384), and the frames being repeated (R383). -/
structure Move where
  tx : Bool
  logical : Nat
  src : Nat
  dst : Nat
  cause : Nat
  step : Nat
  retried : Bool
  stamp : Word
  deriving DecidableEq, Repr

/-- A frame of the lane management channel awaiting its answer (R383). -/
structure LmcSend where
  frame : Word
  sends : Nat
  deriving DecidableEq, Repr

/-- A flit held in a retry buffer (R278). -/
structure HeldFlit where
  seq : Nat
  flit : Flit
  deriving DecidableEq, Repr

/-- One port beside its registers: link layer (R259–R292), discovery (R304–R310), optical layer (R365–R394); `calR` says that
receive lane 16 carries a lane that the neighbour calibrates (R389). -/
structure Port where
  expect : Nat
  txSeq : Nat
  retryBuf : List HeldFlit
  dropping : Bool
  raw : Option Flit
  fails : Nat
  peerEpoch : Option (BitVec 16)
  ctlHeard : Bool
  granted : SMap Nat
  spent : SMap Nat
  rxGranted : SMap Nat
  rxGot : SMap Nat
  occupied : SMap Nat
  asm : SMap Partial
  outq : List OutFlit
  owner : SMap Nat
  ptr : Nat
  attrib : SMap Nat
  stage : Nat
  peerStage : Nat
  attempts : Nat
  peer : Option (BitVec 14)
  peerKind : Nat
  verdictOut : Nat
  verdictIn : Option Nat
  nonce : BitVec 384
  sentLocked : Bool
  peerNonce : List Byte
  peerCert : BitVec 384
  absent : Bool
  peerLocked : Bool
  peerDist : Nat
  move : Option Move
  moveR : Option Move
  queuedMoves : List Move
  lmcSerial : BitVec 8
  lmcTx : Option LmcSend
  lmcRx : Option LmcSend
  retiredTx : List Nat
  retiredRx : List Nat
  suspTx : List Nat
  suspRx : List Nat
  returned : SMap Nat
  retraining : List (Nat × Bool)
  levelRun : SMap (Nat × Nat)
  calR : Bool
  deriving DecidableEq, Repr

/-- An on-package link beside DD_LINK (R500–R506): the step of its negotiation, the failures so far, the modules whose
repair failed, how many records the peer has sent, every record exchanged in order, the peer's identity digest and the
AGREE record. -/
structure Link where
  step : Nat
  tries : Nat
  dead : List Nat
  sender : Nat
  records : List (BitVec 512)
  identity : BitVec 384
  agreed : BitVec 512
  deriving DecidableEq, Repr

/-- An aggregation buffer of a gateway engine (R343): its key, its records (word, mask, data, contributing
request tags) and the time of its first record. -/
structure AggBuf where
  module : BitVec 14
  window : BitVec 8
  chamber : Nat
  io : Nat
  recs : List (Nat × BitVec 8 × Word × List (BitVec 32))
  since : Word
  tag : Option (BitVec 32)
  deriving DecidableEq, Repr

/-- A block fetch of a gateway engine (R342): its block and the waiting loads. -/
structure Fetch where
  tag : BitVec 32
  block : Word
  chamber : Nat
  ordered : Bool
  sent : Bool
  waiters : List (BitVec 32)
  deriving DecidableEq, Repr

/-- A feed handover of an I/O die (R392): the feed taken, the ports still to do (the first is under way), on that port
the logical lanes still to unwind, the free spares relocking and the physical lanes still to shuttle, and whether a port
was left on the old feed (R393). -/
structure Hand where
  feed : Nat
  ports : List Nat
  unwind : List Nat
  spares : List Nat
  shuttle : List Nat
  left : Bool
  deriving DecidableEq, Repr

/-- One I/O die beside its registers (R270, R341–R346, R362): with the comb-line moves still to make, as line and port
(R387), and the feed handover under way. -/
structure IoDie where
  bufs : List AggBuf
  fetches : List Fetch
  lastHead : SMap Word
  rotate : Nat
  tie : Nat
  inbox : List Packet
  comb : List (Nat × Nat)
  hand : Option Hand
  deriving DecidableEq, Repr

/-- An outstanding remote request of this module (R112, R265, R339): its packet, where its answer goes, and whether
it has been sent or waits for the injection limiter (R362) or at its gateway engine (R342, R343). -/
structure Req where
  tag : BitVec 32
  org : Origin
  hdr : Header
  data : List Byte
  rd : BitVec 5
  size : Nat
  stat : Bool
  pc : Word
  word : Word
  run : Nat
  stamp : Word
  chamber : Nat
  io : Nat
  sent : Bool
  gateway : Bool
  retried : Bool
  deriving DecidableEq, Repr

/-- A reply waiting to reach its thallus (R112, R114). -/
structure Reply where
  t : Nat
  tag : BitVec 32
  rd : BitVec 5
  status : Nat
  data : Word
  addr : Word
  stat : Bool
  pc : Word
  word : Word
  deriving DecidableEq, Repr

/-- What the fabric layer of the module knows (R269, R314, R315, R323–R327). -/
structure Fabric where
  gallery : SMap (List Nat)
  passage : SMap (List (Nat × Nat))
  serials : SMap Nat
  lastNotice : SMap Nat
  reach : SMap (BitVec 289)
  serial : BitVec 32
  started : Bool
  discPassed : Bool
  opened : Bool
  goodExchanges : Nat
  slew : Int
  stepped : Bool
  wasLocked : Bool
  sourceId : BitVec 14
  withdrawing : Bool
  withdrawn : Bool
  withdrawReason : BitVec 2
  replies : List Nat
  floor : SMap Nat
  freeRun : Bool
  vc3Serial : Nat
  deriving DecidableEq, Repr

/-! ### Chambers and confidential operation (09, 12) -/

/-- A measurement slot of a bounce engine (R421): chunk digests so far, bytes so far, closed digest. -/
structure MSlot where
  slot : Nat
  digests : List (BitVec 384)
  bytes : Nat
  nextAddr : Nat
  closed : Option (BitVec 384)
  deriving DecidableEq, Repr

/-- An export in progress (R423). -/
structure Export where
  reqId : Word
  addr : Nat
  len : Nat
  off : Nat
  deriving DecidableEq, Repr

/-- One local chamber: its template (R317, R469), its state (R318), its binding (R416) and its bounce engine. -/
structure Chamber where
  tag : BitVec 16
  valid : Bool
  startPolicy : Bool
  minMembers : Nat
  cntFirst : Nat
  cntNum : Nat
  stackMask : BitVec 32
  sori : BitVec 200
  members : List (BitVec 64)
  nwin : Nat
  st : Nat
  clearing : Bool
  clears : Nat
  cleared : Bool
  bindWanted : Option Word
  secret : Nat
  kIn : BitVec 256
  kOut : BitVec 256
  sIn : BitVec 32
  sOut : BitVec 32
  inCtr : Nat
  outCtr : Nat
  inProd : Nat
  inCons : Nat
  outProd : Nat
  outCons : Nat
  mslots : List MSlot
  exporting : Option Export
  deriving DecidableEq, Repr

/-- A window entry (R332): its four words. -/
structure Win where
  w0 : Word
  w1 : Word
  w2 : Word
  w3 : Word
  deriving DecidableEq, Repr

/-- A shared-window line held by the module (R405, R408): Shared or Held-by-module, whether it was written, who
watches it, and its bytes. -/
structure VLine where
  owned : Bool
  written : Bool
  watch : Option (Nat × Nat)
  data : List Byte
  deriving DecidableEq, Repr

/-- An outstanding Volosh request of the module (R404), with the port that it left on; none while it waits. -/
structure VReq where
  tag : BitVec 16
  opc : Nat
  off : Nat
  data : List Byte
  watch : Option (Nat × Nat)
  port : Option Nat
  deriving DecidableEq, Repr

/-- The Volosh agents (R399–R411) and the SPDM responder (R415). -/
structure Volosh where
  lines : SMap VLine
  reqs : List VReq
  nextTag : Nat
  hostTags : List (BitVec 16)
  spdm : Nat
  session : Nat
  secret : Nat
  deriving DecidableEq, Repr

/-! ### Trust, resets, reporting (13–17) -/

/-- The configuration image that runs (R467–R469) as the parts the module acts on: the plan header and
entries, the floors, the security policy. -/
structure Image where
  loaded : Bool
  serial : BitVec 32
  self : BitVec 14
  timeSrc : BitVec 14
  timeBackup : BitVec 14
  discMs : Nat
  standby : Bool
  plan : SMap Word
  floors : SMap (BitVec 32)
  feedAllow : BitVec 16
  mutAuth : Bool
  jtagLock : Bool
  cmdAllow : BitVec 6
  chambers : List Chamber
  windows : SMap Win
  regs : SMap Word
  deny : List (BitVec 384)
  deriving DecidableEq, Repr

/-- One slot of a signed object (R461, R466): whether it verifies, its security version, COMMIT, measurement,
and for an image its contents. -/
structure Slot where
  good : Bool
  svn : Nat
  commit : Bool
  measurement : BitVec 384
  image : Option Image
  deriving DecidableEq, Repr

/-- The state of one kind of object in the boot header (R460): the active slot, the pending slot, its tries. -/
structure BootKind where
  active : Nat
  pending : Option Nat
  tries : Nat
  trying : Bool
  svnMin : Nat
  slots : List Slot
  deriving DecidableEq, Repr

/-- An update in progress (R464): its kind, the mailbox that opened it, chunks written. -/
structure Update where
  kind : Nat
  mailbox : Nat
  chunks : List (Nat × List Byte)
  deriving DecidableEq, Repr

/-- A flash write in progress (R455, R471): for a gate's mailbox, or a ledger append with its attempt. -/
inductive FlashJob where
  | gate (mb : Nat) (gate : Nat)
  | append (rec : BitVec 512) (again : Bool)
  deriving DecidableEq, Repr

/-- Flash, trusted firmware and the boot chain (R452–R475); `svcSpare` holds the logical lanes that a port's spares carry for
retired lanes, as the service records keep them (R473). -/
structure Trust where
  tfw : BootKind
  sfw : BootKind
  img : BootKind
  headerSeq : BitVec 32
  headerOk : Bool
  coldStarts : BitVec 32
  used : Nat
  updates : List Update
  mgmtWait : Option (Nat × Word)
  flash : List FlashJob
  ledger : List (BitVec 512)
  ledgerQueue : List (BitVec 512)
  generation : BitVec 32
  commParts : SMap (List Byte)
  commPend : List (Nat × List Byte)
  operatorRoot : Bool
  svcRetiredTx : SMap (List Nat)
  svcRetiredRx : SMap (List Nat)
  svcSpare : SMap (List (Nat × Nat))
  feedFailed : List Nat
  pilotOk : List Nat
  image : Image
  halted : Bool
  maint : Bool
  reportSeq : Nat
  resetSince : SMap Word
  dieIds : SMap (BitVec 384)
  prevDies : List Nat
  sfwUp : Bool
  confirmWait : Bool
  testEn : Bool
  deriving DecidableEq, Repr

/-- Resets and inputs (R298, R445–R447, R481–R487); `heldDies` stay in reset while MOD_RESET_N is low at a cold start (R552). -/
structure Reset where
  powerGood : Bool
  resetHeld : Bool
  warmPending : Bool
  phaseB : Bool
  planned : Bool
  stacksZeroing : List Nat
  heldDies : List Nat
  edges : SMap (List Nat)
  deriving DecidableEq, Repr

/-- One error record (R514), field by field; DETAIL is bytes 32–63. -/
structure Rec where
  stamp : Word
  dpath : Word
  mpath : Word
  code : BitVec 16
  cls : BitVec 2
  severity : BitVec 3
  chamber : Option (BitVec 3)
  seq : BitVec 32
  detail : BitVec 256
  deriving DecidableEq, Repr

/-- A local record queue (R518): the records held and the count not yet reported. -/
structure RQueue where
  recs : List Rec
  overflow : Nat
  deriving DecidableEq, Repr

/-- A management session (R522, R523); `follow` is the TAG of the RECORDS request that asked to follow the journal. -/
structure Session where
  id : Nat
  control : Bool
  follow : Option Word
  deriving DecidableEq, Repr

/-- The shadow role (R524–R526) beside ER_SHADOW_STAT. -/
structure Shadow where
  source : BitVec 14
  chamber : Nat
  ety : Nat
  base : Nat
  len : Nat
  stepCnt : Nat
  doneCnt : Nat
  steps : List Nat
  running : Option (Nat × List Byte)
  own : SMap (BitVec 384)
  peer : SMap (BitVec 384)
  lastStep : Nat
  deriving DecidableEq, Repr

/-- A sensor beside its register (R438–R442). -/
structure SensorSt where
  last : Option Int
  goods : Nat
  excluded : Bool
  awake : Nat
  deriving DecidableEq, Repr

/-- The clamps of a compute die (R441, R442): whether each is held, and good samples counted towards release. -/
structure Clamp where
  slope : Bool
  hot : Bool
  slopeFree : Nat
  coolSince : Option Word
  deriving DecidableEq, Repr

/-- What the module sends out, newest first: one constructor per kind of message or answer. -/
inductive Out where
  | regFault (who : Requester) (off : Nat)
  | packet (port : Nat) (pk : Packet)
  | flit (port : Nat) (f : Flit)
  | lmc (port : Nat) (frame : Word)
  | volosh (port : Nat) (opc : Nat) (status : Nat) (state : Nat) (tag : BitVec 16) (off : Nat) (rlen : Nat) (stamp : Word)
      (data : List Byte)
  | hello (port : Nat) (winLog2 : Nat) (modTags : Nat) (hostTags : Nat) (moduleId : Nat)
  | spdm (code : Nat) (body : List Byte)
  | mgmt (session : Nat) (type : Nat) (tag : Word) (result : Nat) (body : List Word)
  | records (session : Nat) (tag : Word) (recs : List Rec)
  | report (session : Option Nat) (content : List Word) (signature : BitVec 768)
  | smbus (words : List Word)
  | zalaoft (link : Nat) (rec : BitVec 512)
  | pcTrace (t : Nat) (pc : Word)
  | accessory (pk : Packet)
  | idcode (v : BitVec 32)
  deriving DecidableEq, Repr

/-- Output pins (R371, R443, R545): false is low or released as the pin's rule says. -/
structure Pins where
  laserEn : BitVec 16
  thermLow : Bool
  faultLow : Bool
  xspiReset : Bool
  phyReset : Bool
  phy : Option Nat
  deriving DecidableEq, Repr

/-- Everything the module holds but the queue of waiting commands. Of the ledger (R287, R289): the pools' counts at the last
boundary that takes snapshots, those that the checker last read, and the pools its pass has still to check. `tagsDone` are the
request tags that have ended and the time they did (R265). `winNext` are the window entries that the next drip-tick boundary
writes (R335), `scoresSent` the scores that service firmware last exported (R521). -/
structure Mod where
  now : Word
  tick : Nat
  regs : SMap Word
  snap : SMap Word
  snapWin : SMap Win
  mem : List Host.Cell
  thalli : SMap Thallus
  cdies : SMap CDie
  mdies : SMap MDie
  stks : SMap Stack
  counters : SMap Word
  cntFrozen : List Nat
  pools : SMap Pool
  poolSnap : SMap PoolSnap
  poolBound : SMap PoolSnap
  poolRead : SMap PoolSnap
  ledgerTodo : List Nat
  ports : SMap Port
  links : SMap Link
  iodies : SMap IoDie
  windows : SMap Win
  winNext : SMap Win
  chambers : SMap Chamber
  fabric : Fabric
  reqs : List Req
  tagsDone : List (BitVec 32 × Word)
  flight : List Access
  replies : List Reply
  volosh : Volosh
  trust : Trust
  rst : Reset
  queues : SMap RQueue
  recPtr : Nat
  journal : List Rec
  scores : SMap Nat
  alerted : List Nat
  scoreIn : SMap Nat
  scoresSent : SMap Nat
  sessions : List Session
  shadow : Option Shadow
  sensors : SMap SensorSt
  clamps : SMap Clamp
  pins : Pins
  calPhase : Option (Nat × Nat × Nat)
  lossNs : Nat
  lossHour : Nat
  interlocked : SMap Word
  freeCount : Nat
  out : List Out
  deriving DecidableEq, Repr

/-- The state of the block: the module, and the commands that wait, first in, first out. -/
structure State where
  mod : Mod
  pending : List Instr
  deriving DecidableEq, Repr

/-- Why a step may stop with a fault. -/
inductive Fault where
  /-- Raised by a fabric command (LOAD to AGG_STORE, REMOTE_REPLY, STATUS_ONLY, ACCESSORY_REQUEST) whose packet
  holds more data bytes than R262 lets any packet hold: no such packet can be sent. Safe. -/
  | oversizePacket
  deriving DecidableEq, Repr

/-- Why a step may be refused. -/
inductive Refusal where
  /-- An instruction whose arm has no meaning yet. Safe. -/
  | notModelled (mnemonic : String)
  deriving DecidableEq, Repr

/-- A chamber of which the image says nothing (R469: VALID = 0). -/
def Chamber.init : Chamber :=
  { tag := 0, valid := false, startPolicy := false, minMembers := 0, cntFirst := 0, cntNum := 0, stackMask := 0,
    sori := 0, members := [], nwin := 0, st := 0, clearing := false, clears := 0, cleared := false,
    bindWanted := none, secret := 0, kIn := 0, kOut := 0, sIn := 0, sOut := 0, inCtr := 0, outCtr := 0,
    inProd := 0, inCons := 0, outProd := 0, outCons := 0, mslots := [], exporting := none }

/-- A compute die at reset (R35, R494): pointer 0, nothing asked, nothing held. -/
def CDie.init : CDie :=
  { wakeReqs := [], wakePtr := 0, waking := [], resetting := [], window := (0, 0), launches := [], rings := [],
    routers := [], queues := [], resident := [], timers := [], routerStopped := false }

/-- A memory-side die at reset. -/
def MDie.init : MDie :=
  { cache := [], regs := [], sump := [], held := [], jnlHeld := [], jnlGap := [], frozen := [], ledgerReqs := [], admPtr := 0 }

/-- A stack at reset. -/
def Stack.init : Stack :=
  { lost := [], spares := [], retry := [], repeating := [], remaps := [], heldRow := [], cool := [],
    failedPolls := 0, selfRefresh := false, unkept := false, action := 0, clearWanted := false, dropped := [] }

/-- A port at reset: the link down, no discovery, no move. -/
def Port.init : Port :=
  { expect := 0, txSeq := 0, retryBuf := [], dropping := false, raw := none, fails := 0, peerEpoch := none,
    ctlHeard := false, granted := [], spent := [], rxGranted := [], rxGot := [], occupied := [], asm := [],
    outq := [], owner := [], ptr := 0, attrib := [], stage := 0, peerStage := 0, attempts := 0, peer := none, peerKind := 0,
    verdictOut := 0, verdictIn := none, nonce := 0, sentLocked := false, peerNonce := [], peerCert := 0, absent := false,
    peerLocked := false, peerDist := 255, move := none, moveR := none, queuedMoves := [], lmcSerial := 0,
    lmcTx := none, lmcRx := none, retiredTx := [], retiredRx := [], suspTx := [],
    suspRx := [], returned := [], retraining := [], levelRun := [], calR := false }

/-- A link at reset. -/
def Link.init : Link := { step := 0, tries := 0, dead := [], sender := 0, records := [], identity := 0, agreed := 0 }

/-- An I/O die at reset. -/
def IoDie.init : IoDie :=
  { bufs := [], fetches := [], lastHead := [], rotate := 0, tie := 0, inbox := [], comb := [], hand := none }

/-- A window entry that maps nothing (R332). -/
def Win.init : Win := ⟨0, 0, 0, 0⟩

/-- No configuration image (R468). -/
def Image.none : Image :=
  { loaded := false, serial := 0, self := 0x3FFF, timeSrc := 0, timeBackup := 0x3FFF, discMs := 2000,
    standby := false, plan := [], floors := [], feedAllow := 0, mutAuth := false, jtagLock := false, cmdAllow := 0,
    chambers := [], windows := [], regs := [], deny := [] }

/-- A kind of signed object before any start: slot A active, nothing pending (R460), the slots' contents those
that flash is taken to hold (log 19). -/
def BootKind.init : BootKind :=
  { active := 0, pending := none, tries := 0, trying := false, svnMin := 0,
    slots := [⟨true, 0, false, 0, none⟩, ⟨false, 0, false, 0, none⟩] }

/-- Trusted firmware before its first start. -/
def Trust.init : Trust :=
  { tfw := BootKind.init, sfw := BootKind.init, img := BootKind.init, headerSeq := 0, headerOk := true, coldStarts := 0, used := 0, updates := [], mgmtWait := none, flash := [],
    ledger := [], ledgerQueue := [], generation := 0, commParts := [], commPend := [], operatorRoot := false, svcRetiredTx := [],
    svcRetiredRx := [], svcSpare := [], feedFailed := [], pilotOk := [], image := Image.none, halted := false, maint := false, reportSeq := 0,
    resetSince := [], dieIds := [], prevDies := [], sfwUp := false, confirmWait := false, testEn := false }

/-- The fabric layer at reset. -/
def Fabric.init : Fabric :=
  { gallery := [], passage := [], serials := [], lastNotice := [], reach := [], serial := 0, started := false,
    discPassed := false, opened := false, goodExchanges := 0, slew := 0, stepped := false, wasLocked := false, sourceId := 0,
    withdrawing := false, withdrawn := false, withdrawReason := 0, replies := [], floor := [], freeRun := false,
    vc3Serial := 0 }

/-- The Volosh agents at reset. -/
def Volosh.init : Volosh := { lines := [], reqs := [], nextTag := 0, hostTags := [], spdm := 0, session := 0, secret := 0 }

/-- A sensor not yet sampled (R450). -/
def SensorSt.init : SensorSt := { last := none, goods := 0, excluded := false, awake := 0 }

/-- A compute die with no clamp. -/
def Clamp.init : Clamp := { slope := false, hot := false, slopeFree := 0, coolSince := none }

/-- The module right after cold reset, before PWR_GOOD is accepted: every register at its Reset value (R14: the
register map lists only what differs from that column), no stage, memory not written, nothing in flight. -/
def Mod.reset : Mod :=
  { now := 0, tick := 0, regs := [], snap := [], snapWin := [], mem := [], thalli := [], cdies := [], mdies := [], stks := [],
    counters := [], cntFrozen := [], pools := [], poolSnap := [], poolBound := [], poolRead := [], ledgerTodo := [], ports := [], links := [], iodies := [], windows := [], winNext := [],
    chambers := [], fabric := Fabric.init, reqs := [], tagsDone := [], flight := [], replies := [], volosh := Volosh.init,
    trust := Trust.init,
    rst := { powerGood := false, resetHeld := false, warmPending := false, phaseB := false,
               planned := true, stacksZeroing := [], heldDies := [], edges := [] },
    queues := [], recPtr := 0, journal := [], scores := [], alerted := [], scoreIn := [], scoresSent := [], sessions := [], shadow := none,
    sensors := [], clamps := [],
    pins := { laserEn := 0, thermLow := false, faultLow := false, xspiReset := false, phyReset := false, phy := none },
    calPhase := none, lossNs := 0, lossHour := 0, interlocked := [], freeCount := 0, out := [] }

/-- The block right after reset: its queue is empty. -/
def State.reset : State := { mod := Mod.reset, pending := [] }

end Sys2Proof.Machine
end

