-- ==== Sys2Proof/Machine/Bits.lean ====
section
/-! DEFINITION. Bit fields, byte order (R3) and the finite maps that hold sparse state. -/

namespace Sys2Proof.Machine

/-! ### Numbers and bits -/

/-- Bits `[lo + n - 1 : lo]` of a word, as a number (R2). -/
def bitsOf {k : Nat} (w : BitVec k) (lo n : Nat) : Nat := w.toNat / 2 ^ lo % 2 ^ n

/-- Bit `i` of a word. -/
def bitOf {k : Nat} (w : BitVec k) (i : Nat) : Bool := w.getLsbD i

/-- A word with one field replaced. -/
def putBits (w : Word) (lo n v : Nat) : Word :=
  let mask : Word := BitVec.ofNat 64 ((2 ^ n - 1) * 2 ^ lo)
  (w &&& ~~~mask) ||| BitVec.ofNat 64 (v % 2 ^ n * 2 ^ lo)

/-- A number's two's-complement value in `n` bits. -/
def toSigned (n v : Nat) : Int :=
  let u := v % 2 ^ n
  if u < 2 ^ (n - 1) then (u : Int) else (u : Int) - (2 ^ n : Nat)

/-- The `n`-bit pattern of an integer. -/
def ofSigned (n : Nat) (v : Int) : Nat := (v % ((2 ^ n : Nat) : Int)).toNat

/-- `n` little-endian bytes of a number (R3). -/
def leBytes : Nat → Nat → List Byte
  | 0, _ => []
  | n + 1, v => BitVec.ofNat 8 v :: leBytes n (v / 256)

/-- The number that little-endian bytes spell (R3). -/
def leNat : List Byte → Nat
  | [] => 0
  | b :: bs => b.toNat + 256 * leNat bs

/-- The 64-bit word at byte `i` of a byte string. -/
def wordAt (bs : List Byte) (i : Nat) : Word := BitVec.ofNat 64 (leNat ((bs.drop i).take 8))

/-- How many of the low `n` bits of a number are one. -/
def popCount : Nat → Nat → Nat
  | 0, _ => 0
  | n + 1, v => v % 2 + popCount n (v / 2)

/-- The numbers below `n` whose bit is one, in rising order. -/
def setBits (n v : Nat) : List Nat := (List.range n).filter fun i => v.testBit i

/-- A bit mask of a list of bit numbers. -/
def maskOf (l : List Nat) : Nat := l.foldl (fun a i => a ||| 2 ^ i) 0

/-- Replaces element `i` of a list. -/
def setAt {α : Type} (l : List α) (i : Nat) (v : α) : List α := l.set i v

/-- Cuts a list into pieces of `k` (at most `fuel` of them). -/
def chunks {α : Type} (k : Nat) : Nat → List α → List (List α)
  | 0, _ => []
  | fuel + 1, l => if l.isEmpty then [] else l.take k :: chunks k fuel (l.drop k)

/-- Cuts a list of known length `n · k` into `n` pieces of `k`. -/
def pieces {α : Type} (k n : Nat) (l : List α) : List (List α) := chunks k n l

/-- Adds a byte string to a detail or record at a byte offset: a list of (offset, bytes, value). -/
def layNat (fs : List (Nat × Nat × Nat)) : Nat :=
  fs.foldl (fun a f => a + f.2.2 % 2 ^ (8 * f.2.1) * 2 ^ (8 * f.1)) 0

/-! ### Finite maps -/

/-- The value listed under a key. -/
def SMap.get? {α : Type} : SMap α → Nat → Option α
  | [], _ => none
  | (k, v) :: m, j => if k = j then some v else SMap.get? m j

/-- The value under a key, or `d` where none is listed. -/
def SMap.getD {α : Type} (m : SMap α) (j : Nat) (d : α) : α := (m.get? j).getD d

/-- Lists a value under a key, in rising key order. -/
def SMap.put {α : Type} : SMap α → Nat → α → SMap α
  | [], j, v => [(j, v)]
  | (k, x) :: m, j, v =>
    if j < k then (j, v) :: (k, x) :: m
    else if j = k then (j, v) :: m
    else (k, x) :: SMap.put m j v

/-- Lists nothing under a key. -/
def SMap.del {α : Type} (m : SMap α) (j : Nat) : SMap α := m.filter fun e => e.1 ≠ j

/-- Sets the value under a key in a map whose unlisted keys hold `d`: `d` itself is not listed. -/
def SMap.set {α : Type} [DecidableEq α] (d : α) (m : SMap α) (j : Nat) (v : α) : SMap α :=
  if v = d then m.del j else m.put j v

/-- Keys strictly rising. -/
def SMap.rising {α : Type} : SMap α → Bool
  | [] => true
  | [_] => true
  | a :: b :: m => decide (a.1 < b.1) && SMap.rising (b :: m)

/-- The canonical form: keys strictly rising, and no entry holds what an unlisted key reads as. -/
def SMap.wf {α : Type} [DecidableEq α] (d : α) (m : SMap α) : Bool :=
  SMap.rising m && m.all fun e => decide (e.2 ≠ d)

/-! ### Memory (log 2) -/

/-- What a byte that nothing has written reads as: device memory is zeroed at start-up (R486); log 2. -/
def memDefault : Byte := 0

/-- The canonical form of the memory. -/
def Memory.wf (m : List Host.Cell) : Bool := SMap.wf memDefault m

/-- One byte of memory. -/
def memByte (m : List Host.Cell) (a : Nat) : Byte := SMap.getD m a memDefault

/-- `n` bytes from an address upward. -/
def memRead (m : List Host.Cell) (a n : Nat) : List Byte := (List.range n).map fun i => memByte m (a + i)

/-- Writes bytes from an address upward. -/
def memWrite : List Host.Cell → Nat → List Byte → List Host.Cell
  | m, _, [] => m
  | m, a, b :: bs => memWrite (SMap.set memDefault m a b) (a + 1) bs

/-- Makes every byte of a range read zero. -/
def memZero (m : List Host.Cell) (a n : Nat) : List Host.Cell := m.filter fun c => c.1 < a ∨ a + n ≤ c.1

end Sys2Proof.Machine
end

