-- ==== Sys2Proof/Machine/Regs.lean ====
section
/-! DEFINITION. The register space (R9, R10, R14, R43): the address of every register and the place of every
field, from the register tables of the chapters, and the table of access codes and reset values. Offsets count
from the base 0x3F0_0000_0000. -/

namespace Sys2Proof.Machine

/-- `MOD_IDENT` (R44). -/
def MOD_IDENT : Nat := 0x0
/-- `MOD_POSITION` (R44). -/
def MOD_POSITION : Nat := 0x8
/-- `MOD_DIE_PRESENT` (R44). -/
def MOD_DIE_PRESENT : Nat := 0x10
/-- `MOD_DIE_STATE` (R44). -/
def MOD_DIE_STATE : Nat := 0x18
/-- `MOD_DIE_MODE` (R44). -/
def MOD_DIE_MODE : Nat := 0x20
/-- `CD_IDENT` (R85). -/
def CD_IDENT (d : Nat) : Nat := 0x100000 + 0x10000 * d
/-- `CD_NUMERIC` (R85). -/
def CD_NUMERIC (d : Nat) : Nat := 0x100010 + 0x10000 * d
/-- `CD_SRAM_ECC` (R85). -/
def CD_SRAM_ECC (d : Nat) : Nat := 0x100020 + 0x10000 * d
/-- `CD_MMA_COUNT` (R85). -/
def CD_MMA_COUNT (d : Nat) : Nat := 0x100028 + 0x10000 * d
/-- `CD_FROND_BUSY` (R85). -/
def CD_FROND_BUSY (d : Nat) : Nat := 0x100030 + 0x10000 * d
/-- `CD_SORUS_STATE` (R85). -/
def CD_SORUS_STATE (d s : Nat) : Nat := 0x100800 + 0x10000 * d + 0x8 * s
/-- `CD_THALLUS_STATE` (R85). -/
def CD_THALLUS_STATE (d s p : Nat) : Nat := 0x101000 + 0x10000 * d + 0x30 * s + 0x8 * p
/-- `CD_LAUNCH_CFG` (R186). -/
def CD_LAUNCH_CFG (d : Nat) : Nat := 0x108000 + 0x10000 * d
/-- `CD_LAUNCH_STAT` (R186). -/
def CD_LAUNCH_STAT (d : Nat) : Nat := 0x108008 + 0x10000 * d
/-- `CD_WAKE_STAT` (R186). -/
def CD_WAKE_STAT (d : Nat) : Nat := 0x108010 + 0x10000 * d
/-- `CD_RING_SUB` (R186). -/
def CD_RING_SUB (d r : Nat) : Nat := 0x109000 + 0x10000 * d + 0x20 * r
/-- `CD_RING_CMP` (R186). -/
def CD_RING_CMP (d r : Nat) : Nat := 0x109008 + 0x10000 * d + 0x20 * r
/-- `CD_RING_CTL` (R186). -/
def CD_RING_CTL (d r : Nat) : Nat := 0x109010 + 0x10000 * d + 0x20 * r
/-- `CD_RING_STATE` (R186). -/
def CD_RING_STATE (d r : Nat) : Nat := 0x109018 + 0x10000 * d + 0x20 * r
/-- `CD_LAUNCH_ENTRY` (R186). -/
def CD_LAUNCH_ENTRY (d i w : Nat) : Nat := 0x10C000 + 0x10000 * d + 0x80 * i + 0x8 * w
/-- `MS_IDENT` (R229). -/
def MS_IDENT (m : Nat) : Nat := 0x200000 + 0x10000 * m
/-- `MS_CFG` (R229). -/
def MS_CFG (m : Nat) : Nat := 0x200008 + 0x10000 * m
/-- `MS_STACK_STATE` (R229). -/
def MS_STACK_STATE (m c : Nat) : Nat := 0x200100 + 0x10000 * m + 0x8 * c
/-- `MS_STACK_ECC` (R229). -/
def MS_STACK_ECC (m c : Nat) : Nat := 0x200140 + 0x10000 * m + 0x8 * c
/-- `MS_REG_CFG` (R229). -/
def MS_REG_CFG (m k : Nat) : Nat := 0x200200 + 0x10000 * m + 0x10 * k
/-- `MS_REG_STAT` (R229). -/
def MS_REG_STAT (m k : Nat) : Nat := 0x200208 + 0x10000 * m + 0x10 * k
/-- `MS_KEEP` (R229). -/
def MS_KEEP (m k : Nat) : Nat := 0x200280 + 0x10000 * m + 0x8 * k
/-- `MS_JNL_BASE` (R229). -/
def MS_JNL_BASE (m k : Nat) : Nat := 0x200300 + 0x10000 * m + 0x20 * k
/-- `MS_JNL_CTL` (R229). -/
def MS_JNL_CTL (m k : Nat) : Nat := 0x200308 + 0x10000 * m + 0x20 * k
/-- `MS_JNL_STAT` (R229). -/
def MS_JNL_STAT (m k : Nat) : Nat := 0x200310 + 0x10000 * m + 0x20 * k
/-- `MS_MAINT` (R229). -/
def MS_MAINT (m : Nat) : Nat := 0x200400 + 0x10000 * m
/-- `MS_MARGIN` (R229). -/
def MS_MARGIN (m c ch : Nat) : Nat := 0x200800 + 0x10000 * m + 0x40 * c + 0x8 * ch
/-- `MS_REMAP` (R229). -/
def MS_REMAP (m c e : Nat) : Nat := 0x204000 + 0x10000 * m + 0x800 * c + 0x8 * e
/-- `MS_RETIRED` (R229). -/
def MS_RETIRED (m c e : Nat) : Nat := 0x208000 + 0x10000 * m + 0x1000 * c + 0x8 * e
/-- `FB_CFG` (R296). -/
def FB_CFG : Nat := 0x500000
/-- `FB_POOL_CFG` (R296). -/
def FB_POOL_CFG (i : Nat) : Nat := 0x500100 + 0x10 * i
/-- `FB_POOL_STAT` (R296). -/
def FB_POOL_STAT (i : Nat) : Nat := 0x500108 + 0x10 * i
/-- `FB_LEDGER_STAT` (R296). -/
def FB_LEDGER_STAT : Nat := 0x500200
/-- `FB_LEDGER_SEL` (R296). -/
def FB_LEDGER_SEL : Nat := 0x500208
/-- `FB_LEDGER_VAL` (R296). -/
def FB_LEDGER_VAL (w : Nat) : Nat := 0x500210 + 0x8 * w
/-- `FB_PORT_ALLOT` (R296). -/
def FB_PORT_ALLOT (p : Nat) : Nat := 0x501000 + 0x20 * p
/-- `FB_PORT_LINK` (R296). -/
def FB_PORT_LINK (p : Nat) : Nat := 0x501008 + 0x20 * p
/-- `FB_PORT_RETRY` (R296). -/
def FB_PORT_RETRY (p : Nat) : Nat := 0x501010 + 0x20 * p
/-- `FB_PORT_LANE` (R296). -/
def FB_PORT_LANE (p : Nat) : Nat := 0x501018 + 0x20 * p
/-- `RM_CFG` (R363). -/
def RM_CFG : Nat := 0x600000
/-- `RM_STAT` (R363). -/
def RM_STAT : Nat := 0x600008
/-- `RM_WIN_SEL` (R363). -/
def RM_WIN_SEL : Nat := 0x600010
/-- `RM_WIN_VAL` (R363). -/
def RM_WIN_VAL (w : Nat) : Nat := 0x600018 + 0x8 * w
/-- `RM_INJ` (R363). -/
def RM_INJ (k : Nat) : Nat := 0x600100 + 0x8 * k
/-- `RM_GW_STAT` (R363). -/
def RM_GW_STAT (i : Nat) : Nat := 0x600200 + 0x8 * i
/-- `RM_SUMP_STAT` (R363). -/
def RM_SUMP_STAT (m : Nat) : Nat := 0x600300 + 0x8 * m
/-- `PT_CFG` (R396). -/
def PT_CFG (port : Nat) : Nat := 0x300000 + 0x1000 * port
/-- `PT_TXMAP_LO` (R396). -/
def PT_TXMAP_LO (port : Nat) : Nat := 0x300008 + 0x1000 * port
/-- `PT_TXMAP_HI` (R396). -/
def PT_TXMAP_HI (port : Nat) : Nat := 0x300010 + 0x1000 * port
/-- `PT_RXMAP_LO` (R396). -/
def PT_RXMAP_LO (port : Nat) : Nat := 0x300018 + 0x1000 * port
/-- `PT_RXMAP_HI` (R396). -/
def PT_RXMAP_HI (port : Nat) : Nat := 0x300020 + 0x1000 * port
/-- `PT_SPARE` (R396). -/
def PT_SPARE (port : Nat) : Nat := 0x300028 + 0x1000 * port
/-- `PT_MOVE` (R396). -/
def PT_MOVE (port : Nat) : Nat := 0x300030 + 0x1000 * port
/-- `PT_CAL` (R396). -/
def PT_CAL (port : Nat) : Nat := 0x300038 + 0x1000 * port
/-- `PT_TX_LANE` (R396). -/
def PT_TX_LANE (port l : Nat) : Nat := 0x300100 + 0x1000 * port + 0x8 * l
/-- `PT_RX_LANE` (R396). -/
def PT_RX_LANE (port l : Nat) : Nat := 0x300200 + 0x1000 * port + 0x8 * l
/-- `LS_CFG` (R397). -/
def LS_CFG : Nat := 0x400000
/-- `LS_CAL` (R397). -/
def LS_CAL : Nat := 0x400008
/-- `LS_FEED_CTL` (R397). -/
def LS_FEED_CTL (f : Nat) : Nat := 0x400100 + 0x10 * f
/-- `LS_FEED_STAT` (R397). -/
def LS_FEED_STAT (f : Nat) : Nat := 0x400108 + 0x10 * f
/-- `LS_DIE` (R397). -/
def LS_DIE (i : Nat) : Nat := 0x400200 + 0x8 * i
/-- `LS_LINE` (R397). -/
def LS_LINE (f l : Nat) : Nat := 0x401000 + 0x90 * f + 0x8 * l
/-- `VL_CFG` (R427). -/
def VL_CFG : Nat := 0x700000
/-- `VL_PORTS` (R427). -/
def VL_PORTS : Nat := 0x700008
/-- `VL_STAT` (R427). -/
def VL_STAT : Nat := 0x700010
/-- `VL_LINES` (R427). -/
def VL_LINES : Nat := 0x700018
/-- `VL_CHAMBER` (R427). -/
def VL_CHAMBER (k : Nat) : Nat := 0x700100 + 0x20 * k
/-- `VL_BOUNCE_SZ` (R427). -/
def VL_BOUNCE_SZ (k : Nat) : Nat := 0x700108 + 0x20 * k
/-- `VL_CONF_STATE` (R427). -/
def VL_CONF_STATE (k : Nat) : Nat := 0x700110 + 0x20 * k
/-- `VL_CONF_CNT` (R427). -/
def VL_CONF_CNT (k : Nat) : Nat := 0x700118 + 0x20 * k
/-- `TM_NOW` (R448). -/
def TM_NOW : Nat := 0x10000
/-- `TM_STATUS` (R448). -/
def TM_STATUS : Nat := 0x10008
/-- `TM_CFG` (R448). -/
def TM_CFG : Nat := 0x10010
/-- `TM_START` (R448). -/
def TM_START : Nat := 0x10018
/-- `TM_EXCHANGE` (R448). -/
def TM_EXCHANGE : Nat := 0x10020
/-- `TM_ASYM` (R448). -/
def TM_ASYM (p : Nat) : Nat := 0x10100 + 0x8 * p
/-- `CP_CFG` (R449). -/
def CP_CFG : Nat := 0x20000
/-- `CP_COMPUTE` (R449). -/
def CP_COMPUTE (d : Nat) : Nat := 0x20100 + 0x8 * d
/-- `CP_SORUS` (R449). -/
def CP_SORUS (g : Nat) : Nat := 0x20400 + 0x8 * g
/-- `CP_INPUT` (R449). -/
def CP_INPUT (n : Nat) : Nat := 0x20C00 + 0x8 * n
/-- `TH_STATUS` (R450). -/
def TH_STATUS : Nat := 0x30000
/-- `TH_DIE` (R450). -/
def TH_DIE (n : Nat) : Nat := 0x30100 + 0x8 * n
/-- `TH_SORUS` (R450). -/
def TH_SORUS (g : Nat) : Nat := 0x30400 + 0x8 * g
/-- `TR_STATE` (R479). -/
def TR_STATE : Nat := 0x50000
/-- `TR_SVN` (R479). -/
def TR_SVN : Nat := 0x50008
/-- `TR_BOOT` (R479). -/
def TR_BOOT : Nat := 0x50010
/-- `TR_IMAGE` (R479). -/
def TR_IMAGE : Nat := 0x50018
/-- `TR_MEAS` (R479). -/
def TR_MEAS (w : Nat) : Nat := 0x50100 + 0x8 * w
/-- `TR_GATE_CTL` (R479). -/
def TR_GATE_CTL (r : Nat) : Nat := 0x50400 + 0x80 * r
/-- `TR_GATE_ARG` (R479). -/
def TR_GATE_ARG (r w : Nat) : Nat := 0x50408 + 0x80 * r + 0x8 * w
/-- `TR_GATE_STAT` (R479). -/
def TR_GATE_STAT (r : Nat) : Nat := 0x50448 + 0x80 * r
/-- `TR_LEDGER` (R479). -/
def TR_LEDGER : Nat := 0x50600
/-- `TR_STAGE` (R479). -/
def TR_STAGE (r w : Nat) : Nat := 0x51000 + 0x1000 * (r - 1) + 0x8 * w
/-- `DD_LINK` (R510). -/
def DD_LINK (n : Nat) : Nat := 0x800000 + 0x8 * n
/-- `DD_DIE` (R510). -/
def DD_DIE (j : Nat) : Nat := 0x800200 + 0x8 * j
/-- `DD_ACC_CFG` (R510). -/
def DD_ACC_CFG : Nat := 0x800400
/-- `DD_ACC_IDENT` (R510). -/
def DD_ACC_IDENT (w : Nat) : Nat := 0x800408 + 0x8 * w
/-- `DD_RESET` (R510). -/
def DD_RESET : Nat := 0x800500
/-- `ER_JNL_SEQ` (R531). -/
def ER_JNL_SEQ : Nat := 0x40000
/-- `ER_AVAIL` (R531). -/
def ER_AVAIL : Nat := 0x40008
/-- `ER_SCORE_CFG` (R531). -/
def ER_SCORE_CFG : Nat := 0x40010
/-- `ER_SHADOW_CFG` (R531). -/
def ER_SHADOW_CFG : Nat := 0x40018
/-- `ER_SHADOW_STAT` (R531). -/
def ER_SHADOW_STAT : Nat := 0x40020
/-- `ER_SHADOW_DIG` (R531). -/
def ER_SHADOW_DIG (w : Nat) : Nat := 0x40040 + 0x8 * w
/-- `ER_QUEUE` (R531). -/
def ER_QUEUE (n : Nat) : Nat := 0x40100 + 0x8 * n
/-! ### Fields -/

def MOD_IDENT_VENDOR : Fld := ⟨0, 16⟩
def MOD_IDENT_PART : Fld := ⟨16, 16⟩
def MOD_IDENT_STEPPING : Fld := ⟨32, 4⟩
def MOD_POSITION_MODULE_ID : Fld := ⟨0, 14⟩
def MOD_POSITION_BOOT_MODE : Fld := ⟨14, 2⟩
def MOD_POSITION_TEST_EN : Fld := ⟨16, 1⟩
def MOD_POSITION_STRAPS_VALID : Fld := ⟨17, 1⟩
def MOD_DIE_PRESENT_COMPUTE : Fld := ⟨0, 8⟩
def MOD_DIE_PRESENT_MEMSIDE : Fld := ⟨8, 4⟩
def MOD_DIE_PRESENT_IO : Fld := ⟨12, 8⟩
def MOD_DIE_PRESENT_MGMT : Fld := ⟨20, 1⟩
def MOD_DIE_PRESENT_ACCESSORY : Fld := ⟨21, 1⟩
def MOD_DIE_STATE_DIE0 : Fld := ⟨0, 2⟩
def MOD_DIE_STATE_DIE1 : Fld := ⟨2, 2⟩
def MOD_DIE_STATE_DIE2 : Fld := ⟨4, 2⟩
def MOD_DIE_STATE_DIE3 : Fld := ⟨6, 2⟩
def MOD_DIE_STATE_DIE4 : Fld := ⟨8, 2⟩
def MOD_DIE_STATE_DIE5 : Fld := ⟨10, 2⟩
def MOD_DIE_STATE_DIE6 : Fld := ⟨12, 2⟩
def MOD_DIE_STATE_DIE7 : Fld := ⟨14, 2⟩
def MOD_DIE_STATE_DIE8 : Fld := ⟨16, 2⟩
def MOD_DIE_STATE_DIE9 : Fld := ⟨18, 2⟩
def MOD_DIE_STATE_DIE10 : Fld := ⟨20, 2⟩
def MOD_DIE_STATE_DIE11 : Fld := ⟨22, 2⟩
def MOD_DIE_STATE_DIE12 : Fld := ⟨24, 2⟩
def MOD_DIE_STATE_DIE13 : Fld := ⟨26, 2⟩
def MOD_DIE_STATE_DIE14 : Fld := ⟨28, 2⟩
def MOD_DIE_STATE_DIE15 : Fld := ⟨30, 2⟩
def MOD_DIE_STATE_DIE16 : Fld := ⟨32, 2⟩
def MOD_DIE_STATE_DIE17 : Fld := ⟨34, 2⟩
def MOD_DIE_STATE_DIE18 : Fld := ⟨36, 2⟩
def MOD_DIE_STATE_DIE19 : Fld := ⟨38, 2⟩
def MOD_DIE_STATE_DIE20 : Fld := ⟨40, 2⟩
def MOD_DIE_STATE_DIE21 : Fld := ⟨42, 2⟩
def MOD_DIE_MODE_IO_MODE : Fld := ⟨0, 16⟩
def MOD_DIE_MODE_ACC_MODE : Fld := ⟨16, 2⟩
def CD_IDENT_DIE : Fld := ⟨0, 3⟩
def CD_IDENT_SORI : Fld := ⟨8, 5⟩
def CD_IDENT_THALLI : Fld := ⟨16, 8⟩
def CD_NUMERIC_E4M3_OVF : Fld := ⟨0, 1⟩
def CD_NUMERIC_E5M2_OVF : Fld := ⟨1, 1⟩
def CD_SRAM_ECC_CORRECTED : Fld := ⟨0, 32⟩
def CD_SRAM_ECC_TRANSIENT : Fld := ⟨32, 16⟩
def CD_SRAM_ECC_LASTING : Fld := ⟨48, 16⟩
def CD_MMA_COUNT_COUNT : Fld := ⟨0, 64⟩
def CD_FROND_BUSY_CYCLES : Fld := ⟨0, 64⟩
def CD_SORUS_STATE_DOMAIN : Fld := ⟨0, 2⟩
def CD_SORUS_STATE_CHAMBER : Fld := ⟨8, 3⟩
def CD_SORUS_STATE_CHAMBER_VALID : Fld := ⟨11, 1⟩
def CD_SORUS_STATE_WAKES : Fld := ⟨32, 32⟩
def CD_THALLUS_STATE_STATE : Fld := ⟨0, 3⟩
def CD_THALLUS_STATE_CHAMBER : Fld := ⟨4, 3⟩
def CD_THALLUS_STATE_CHAMBER_VALID : Fld := ⟨7, 1⟩
def CD_THALLUS_STATE_STAGE : Fld := ⟨8, 6⟩
def CD_THALLUS_STATE_EXCEPTION : Fld := ⟨16, 4⟩
def CD_LAUNCH_CFG_POLL_US : Fld := ⟨0, 16⟩
def CD_LAUNCH_CFG_PREWAKE_NS : Fld := ⟨16, 16⟩
def CD_LAUNCH_CFG_WAKE_PACE : Fld := ⟨32, 8⟩
def CD_LAUNCH_CFG_NRINGS : Fld := ⟨40, 9⟩
def CD_LAUNCH_STAT_COMPLETED : Fld := ⟨0, 32⟩
def CD_LAUNCH_STAT_REFUSED : Fld := ⟨32, 16⟩
def CD_LAUNCH_STAT_FAULTED : Fld := ⟨48, 16⟩
def CD_WAKE_STAT_PREWAKES : Fld := ⟨0, 32⟩
def CD_WAKE_STAT_LATE : Fld := ⟨32, 32⟩
def CD_RING_SUB_BASE : Fld := ⟨6, 42⟩
def CD_RING_CMP_BASE : Fld := ⟨6, 42⟩
def CD_RING_CTL_SIZE_LOG2 : Fld := ⟨0, 4⟩
def CD_RING_CTL_CHAMBER : Fld := ⟨4, 3⟩
def CD_RING_CTL_ENABLE : Fld := ⟨7, 1⟩
def CD_RING_CTL_RESET : Fld := ⟨8, 1⟩
def CD_RING_CTL_START_SEQ : Fld := ⟨32, 32⟩
def CD_RING_STATE_EXPECT : Fld := ⟨0, 32⟩
def CD_RING_STATE_STATE : Fld := ⟨32, 2⟩
def CD_LAUNCH_ENTRY_WORD : Fld := ⟨0, 64⟩
def MS_IDENT_DIE : Fld := ⟨0, 2⟩
def MS_IDENT_STACKS : Fld := ⟨8, 4⟩
def MS_IDENT_CHANNELS : Fld := ⟨16, 8⟩
def MS_IDENT_CLOCK_MHZ : Fld := ⟨24, 16⟩
def MS_CFG_IDLE_US : Fld := ⟨0, 16⟩
def MS_CFG_SCRUB_HOURS : Fld := ⟨16, 8⟩
def MS_STACK_STATE_STATE : Fld := ⟨0, 3⟩
def MS_STACK_STATE_THROTTLE : Fld := ⟨3, 2⟩
def MS_STACK_STATE_TEMP : Fld := ⟨8, 8⟩
def MS_STACK_STATE_OWNER : Fld := ⟨16, 3⟩
def MS_STACK_STATE_OWNER_VALID : Fld := ⟨19, 1⟩
def MS_STACK_STATE_RETIRED : Fld := ⟨20, 10⟩
def MS_STACK_STATE_REMAPS : Fld := ⟨30, 9⟩
def MS_STACK_STATE_LOST : Fld := ⟨39, 11⟩
def MS_STACK_ECC_CORRECTED : Fld := ⟨0, 32⟩
def MS_STACK_ECC_TRANSIENT : Fld := ⟨32, 16⟩
def MS_STACK_ECC_LASTING : Fld := ⟨48, 16⟩
def MS_REG_CFG_RATE : Fld := ⟨0, 14⟩
def MS_REG_CFG_FLOOR : Fld := ⟨16, 14⟩
def MS_REG_CFG_BURST : Fld := ⟨32, 16⟩
def MS_REG_STAT_TOKENS : Fld := ⟨0, 32⟩
def MS_REG_STAT_HELD : Fld := ⟨32, 32⟩
def MS_KEEP_KEEP_MIB : Fld := ⟨0, 8⟩
def MS_KEEP_KEEP_USED : Fld := ⟨16, 8⟩
def MS_JNL_BASE_BASE : Fld := ⟨0, 52⟩
def MS_JNL_CTL_MODE : Fld := ⟨0, 2⟩
def MS_JNL_CTL_HOLD : Fld := ⟨2, 1⟩
def MS_JNL_CTL_ENTRIES_LOG2 : Fld := ⟨4, 5⟩
def MS_JNL_CTL_CNT : Fld := ⟨16, 12⟩
def MS_JNL_STAT_DROPPED : Fld := ⟨0, 32⟩
def MS_JNL_STAT_RECORDS : Fld := ⟨32, 32⟩
def MS_MAINT_STACK : Fld := ⟨0, 3⟩
def MS_MAINT_ACTION : Fld := ⟨3, 2⟩
def MS_MAINT_BUSY : Fld := ⟨9, 1⟩
def MS_MARGIN_RD_EYE : Fld := ⟨0, 8⟩
def MS_MARGIN_WR_EYE : Fld := ⟨8, 8⟩
def MS_MARGIN_RD_VREF : Fld := ⟨16, 8⟩
def MS_MARGIN_WR_VREF : Fld := ⟨24, 8⟩
def MS_MARGIN_RESULT : Fld := ⟨32, 2⟩
def MS_REMAP_VALID : Fld := ⟨0, 1⟩
def MS_REMAP_LEVEL : Fld := ⟨1, 2⟩
def MS_REMAP_CHANNEL : Fld := ⟨3, 3⟩
def MS_REMAP_BANK : Fld := ⟨6, 4⟩
def MS_REMAP_ROW : Fld := ⟨10, 18⟩
def MS_REMAP_SPARE : Fld := ⟨28, 9⟩
def MS_RETIRED_VALID : Fld := ⟨0, 1⟩
def MS_RETIRED_PAGE : Fld := ⟨1, 15⟩
def FB_CFG_DETOUR_BIAS : Fld := ⟨0, 16⟩
def FB_CFG_SUSPECT_MS : Fld := ⟨16, 16⟩
def FB_POOL_CFG_REQ_KIB : Fld := ⟨0, 16⟩
def FB_POOL_CFG_RPL_KIB : Fld := ⟨16, 16⟩
def FB_POOL_STAT_REQ_FREE : Fld := ⟨0, 20⟩
def FB_POOL_STAT_RPL_FREE : Fld := ⟨32, 20⟩
def FB_LEDGER_STAT_CHECKS : Fld := ⟨0, 32⟩
def FB_LEDGER_STAT_TRANSIENT : Fld := ⟨32, 8⟩
def FB_LEDGER_STAT_LASTING : Fld := ⟨40, 8⟩
def FB_LEDGER_STAT_FROZEN : Fld := ⟨48, 16⟩
def FB_LEDGER_SEL_POOL : Fld := ⟨0, 16⟩
def FB_LEDGER_VAL_COUNT : Fld := ⟨0, 64⟩
def FB_PORT_ALLOT_RX_KIB : Fld := ⟨0, 16⟩
def FB_PORT_ALLOT_RETRY_KIB : Fld := ⟨16, 16⟩
def FB_PORT_ALLOT_REACH : Fld := ⟨32, 2⟩
def FB_PORT_LINK_STATE : Fld := ⟨0, 3⟩
def FB_PORT_LINK_HALF : Fld := ⟨3, 1⟩
def FB_PORT_LINK_UPPER : Fld := ⟨4, 1⟩
def FB_PORT_LINK_EPOCH : Fld := ⟨16, 16⟩
def FB_PORT_LINK_CLOSES : Fld := ⟨32, 32⟩
def FB_PORT_RETRY_TRANSIENT : Fld := ⟨0, 32⟩
def FB_PORT_RETRY_REPEAT : Fld := ⟨32, 12⟩
def FB_PORT_RETRY_RESETS : Fld := ⟨44, 8⟩
def FB_PORT_RETRY_STALE : Fld := ⟨52, 12⟩
def FB_PORT_LANE_SUSPECT : Fld := ⟨0, 18⟩
def FB_PORT_LANE_RETIRED : Fld := ⟨18, 18⟩
def FB_PORT_LANE_ATTRIB : Fld := ⟨36, 28⟩
def RM_CFG_TIMEOUT_US : Fld := ⟨0, 16⟩
def RM_STAT_TIMEOUTS : Fld := ⟨0, 32⟩
def RM_STAT_DENIED_IN : Fld := ⟨32, 16⟩
def RM_STAT_STALE : Fld := ⟨48, 16⟩
def RM_WIN_SEL_CHAMBER : Fld := ⟨0, 3⟩
def RM_WIN_SEL_WINDOW : Fld := ⟨8, 8⟩
def RM_WIN_VAL_WORD : Fld := ⟨0, 64⟩
def RM_INJ_MAX_OUT : Fld := ⟨0, 16⟩
def RM_INJ_MIN_GAP_NS : Fld := ⟨16, 16⟩
def RM_GW_STAT_AGG_SENT : Fld := ⟨0, 32⟩
def RM_GW_STAT_COALESCED : Fld := ⟨32, 32⟩
def RM_SUMP_STAT_UPDATES : Fld := ⟨0, 40⟩
def RM_SUMP_STAT_FALLBACK : Fld := ⟨40, 24⟩
def PT_CFG_FIBRE_M : Fld := ⟨0, 12⟩
def PT_CFG_CAL_EN : Fld := ⟨12, 1⟩
def PT_TXMAP_LO_PHYS0 : Fld := ⟨0, 5⟩
def PT_TXMAP_LO_PHYS1 : Fld := ⟨8, 5⟩
def PT_TXMAP_LO_PHYS2 : Fld := ⟨16, 5⟩
def PT_TXMAP_LO_PHYS3 : Fld := ⟨24, 5⟩
def PT_TXMAP_LO_PHYS4 : Fld := ⟨32, 5⟩
def PT_TXMAP_LO_PHYS5 : Fld := ⟨40, 5⟩
def PT_TXMAP_LO_PHYS6 : Fld := ⟨48, 5⟩
def PT_TXMAP_LO_PHYS7 : Fld := ⟨56, 5⟩
def PT_TXMAP_HI_PHYS0 : Fld := ⟨0, 5⟩
def PT_TXMAP_HI_PHYS1 : Fld := ⟨8, 5⟩
def PT_TXMAP_HI_PHYS2 : Fld := ⟨16, 5⟩
def PT_TXMAP_HI_PHYS3 : Fld := ⟨24, 5⟩
def PT_TXMAP_HI_PHYS4 : Fld := ⟨32, 5⟩
def PT_TXMAP_HI_PHYS5 : Fld := ⟨40, 5⟩
def PT_TXMAP_HI_PHYS6 : Fld := ⟨48, 5⟩
def PT_TXMAP_HI_PHYS7 : Fld := ⟨56, 5⟩
def PT_RXMAP_LO_PHYS0 : Fld := ⟨0, 5⟩
def PT_RXMAP_LO_PHYS1 : Fld := ⟨8, 5⟩
def PT_RXMAP_LO_PHYS2 : Fld := ⟨16, 5⟩
def PT_RXMAP_LO_PHYS3 : Fld := ⟨24, 5⟩
def PT_RXMAP_LO_PHYS4 : Fld := ⟨32, 5⟩
def PT_RXMAP_LO_PHYS5 : Fld := ⟨40, 5⟩
def PT_RXMAP_LO_PHYS6 : Fld := ⟨48, 5⟩
def PT_RXMAP_LO_PHYS7 : Fld := ⟨56, 5⟩
def PT_RXMAP_HI_PHYS0 : Fld := ⟨0, 5⟩
def PT_RXMAP_HI_PHYS1 : Fld := ⟨8, 5⟩
def PT_RXMAP_HI_PHYS2 : Fld := ⟨16, 5⟩
def PT_RXMAP_HI_PHYS3 : Fld := ⟨24, 5⟩
def PT_RXMAP_HI_PHYS4 : Fld := ⟨32, 5⟩
def PT_RXMAP_HI_PHYS5 : Fld := ⟨40, 5⟩
def PT_RXMAP_HI_PHYS6 : Fld := ⟨48, 5⟩
def PT_RXMAP_HI_PHYS7 : Fld := ⟨56, 5⟩
def PT_SPARE_USE16 : Fld := ⟨0, 3⟩
def PT_SPARE_LOGICAL16 : Fld := ⟨3, 5⟩
def PT_SPARE_FEED16 : Fld := ⟨8, 1⟩
def PT_SPARE_USE17 : Fld := ⟨16, 3⟩
def PT_SPARE_LOGICAL17 : Fld := ⟨19, 5⟩
def PT_SPARE_FEED17 : Fld := ⟨24, 1⟩
def PT_MOVE_STEP : Fld := ⟨0, 3⟩
def PT_MOVE_DIR : Fld := ⟨3, 1⟩
def PT_MOVE_LOGICAL : Fld := ⟨4, 5⟩
def PT_MOVE_FROM : Fld := ⟨9, 5⟩
def PT_MOVE_TO : Fld := ⟨14, 5⟩
def PT_MOVE_CAUSE : Fld := ⟨19, 3⟩
def PT_MOVE_MOVES : Fld := ⟨32, 32⟩
def PT_CAL_LANE : Fld := ⟨0, 5⟩
def PT_CAL_START : Fld := ⟨5, 1⟩
def PT_CAL_ABANDONED : Fld := ⟨6, 1⟩
def PT_CAL_REFUSED : Fld := ⟨7, 1⟩
def PT_CAL_PASSES : Fld := ⟨32, 32⟩
def PT_TX_LANE_POWER_CDB : Fld := ⟨0, 16⟩
def PT_TX_LANE_REF : Fld := ⟨16, 12⟩
def PT_TX_LANE_LEVEL : Fld := ⟨28, 2⟩
def PT_TX_LANE_LOCK : Fld := ⟨30, 2⟩
def PT_TX_LANE_FEED : Fld := ⟨32, 1⟩
def PT_TX_LANE_RELOCKS : Fld := ⟨40, 8⟩
def PT_TX_LANE_HEATER : Fld := ⟨48, 12⟩
def PT_RX_LANE_POWER_CDB : Fld := ⟨0, 16⟩
def PT_RX_LANE_REF : Fld := ⟨16, 12⟩
def PT_RX_LANE_LEVEL : Fld := ⟨28, 2⟩
def PT_RX_LANE_LOCK : Fld := ⟨30, 2⟩
def PT_RX_LANE_RELOCKS : Fld := ⟨40, 8⟩
def PT_RX_LANE_HEATER : Fld := ⟨48, 12⟩
def LS_CFG_WARN_CDB : Fld := ⟨0, 16⟩
def LS_CFG_SWAP_CDB : Fld := ⟨16, 16⟩
def LS_CFG_FAIL_CDB : Fld := ⟨32, 16⟩
def LS_CFG_MON_MS : Fld := ⟨48, 8⟩
def LS_CAL_INTERVAL_S : Fld := ⟨0, 16⟩
def LS_CAL_ACTIVE : Fld := ⟨16, 1⟩
def LS_CAL_PORT : Fld := ⟨17, 6⟩
def LS_CAL_LANE : Fld := ⟨23, 5⟩
def LS_FEED_CTL_ENABLE : Fld := ⟨0, 1⟩
def LS_FEED_STAT_STATE : Fld := ⟨0, 3⟩
def LS_FEED_STAT_FAULT_N : Fld := ⟨3, 1⟩
def LS_FEED_STAT_EN : Fld := ⟨4, 1⟩
def LS_FEED_STAT_PILOT_FAILS : Fld := ⟨8, 8⟩
def LS_FEED_STAT_TOTAL_CDB : Fld := ⟨16, 16⟩
def LS_DIE_ACTIVE : Fld := ⟨0, 1⟩
def LS_DIE_REQ : Fld := ⟨1, 1⟩
def LS_DIE_HANDOVER : Fld := ⟨2, 3⟩
def LS_DIE_PORT : Fld := ⟨5, 3⟩
def LS_DIE_LANE : Fld := ⟨8, 5⟩
def LS_DIE_HANDOVERS : Fld := ⟨32, 32⟩
def LS_LINE_POWER_CDB : Fld := ⟨0, 16⟩
def LS_LINE_REF : Fld := ⟨16, 12⟩
def LS_LINE_LEVEL : Fld := ⟨28, 2⟩
def VL_CFG_WIN_LOG2 : Fld := ⟨0, 6⟩
def VL_CFG_LOSS_MS : Fld := ⟨16, 16⟩
def VL_CFG_REG_MASK : Fld := ⟨32, 14⟩
def VL_PORTS_PORT0 : Fld := ⟨0, 6⟩
def VL_PORTS_PORT0_VALID : Fld := ⟨6, 1⟩
def VL_PORTS_PORT1 : Fld := ⟨8, 6⟩
def VL_PORTS_PORT1_VALID : Fld := ⟨14, 1⟩
def VL_PORTS_STATE0 : Fld := ⟨16, 2⟩
def VL_PORTS_STATE1 : Fld := ⟨18, 2⟩
def VL_STAT_SNOOPS : Fld := ⟨0, 32⟩
def VL_STAT_WAKES : Fld := ⟨32, 32⟩
def VL_LINES_SHARED : Fld := ⟨0, 16⟩
def VL_LINES_HELD : Fld := ⟨16, 16⟩
def VL_LINES_REISSUED : Fld := ⟨32, 16⟩
def VL_LINES_LOST : Fld := ⟨48, 16⟩
def VL_CHAMBER_HOST_ACCESS : Fld := ⟨0, 1⟩
def VL_CHAMBER_CONFIDENTIAL : Fld := ⟨1, 1⟩
def VL_CHAMBER_BOUNCE_OFF : Fld := ⟨12, 36⟩
def VL_BOUNCE_SZ_IN_SLOTS_LOG2 : Fld := ⟨0, 4⟩
def VL_BOUNCE_SZ_IN_LOG2 : Fld := ⟨4, 5⟩
def VL_BOUNCE_SZ_OUT_SLOTS_LOG2 : Fld := ⟨12, 4⟩
def VL_BOUNCE_SZ_OUT_LOG2 : Fld := ⟨16, 5⟩
def VL_CONF_STATE_STATE : Fld := ⟨0, 3⟩
def VL_CONF_STATE_ENDS : Fld := ⟨8, 8⟩
def VL_CONF_STATE_SESSION_ID : Fld := ⟨32, 32⟩
def VL_CONF_CNT_IN_CTR : Fld := ⟨0, 32⟩
def VL_CONF_CNT_OUT_CTR : Fld := ⟨32, 32⟩
def TM_NOW_NOW : Fld := ⟨0, 64⟩
def TM_STATUS_LOCKED : Fld := ⟨0, 1⟩
def TM_STATUS_SOURCE : Fld := ⟨1, 1⟩
def TM_STATUS_ON_BACKUP : Fld := ⟨2, 1⟩
def TM_STATUS_PPS_OK : Fld := ⟨3, 1⟩
def TM_STATUS_DRIP_LOST : Fld := ⟨4, 1⟩
def TM_STATUS_DIST : Fld := ⟨8, 8⟩
def TM_STATUS_UP_PORT : Fld := ⟨16, 6⟩
def TM_STATUS_UP_VALID : Fld := ⟨22, 1⟩
def TM_CFG_PPS_EN : Fld := ⟨0, 1⟩
def TM_START_START : Fld := ⟨0, 64⟩
def TM_EXCHANGE_OFFSET : Fld := ⟨0, 32⟩
def TM_EXCHANGE_DELAY : Fld := ⟨32, 32⟩
def TM_ASYM_ASYM_NS : Fld := ⟨0, 16⟩
def CP_CFG_GATE_US : Fld := ⟨0, 16⟩
def CP_CFG_PLL_IDLE_US : Fld := ⟨16, 16⟩
def CP_CFG_DEEP_MS : Fld := ⟨32, 16⟩
def CP_COMPUTE_PLL : Fld := ⟨0, 2⟩
def CP_COMPUTE_CLAMP : Fld := ⟨2, 2⟩
def CP_COMPUTE_PLL_STARTS : Fld := ⟨32, 32⟩
def CP_SORUS_DEEP : Fld := ⟨0, 1⟩
def CP_SORUS_DEEP_ENTRIES : Fld := ⟨32, 32⟩
def CP_INPUT_LEVEL : Fld := ⟨0, 1⟩
def CP_INPUT_MASKED : Fld := ⟨1, 1⟩
def CP_INPUT_STORMS : Fld := ⟨32, 16⟩
def CP_INPUT_EDGES : Fld := ⟨48, 16⟩
def TH_STATUS_THERM : Fld := ⟨0, 1⟩
def TH_STATUS_FAULT : Fld := ⟨1, 1⟩
def TH_DIE_MAX_T : Fld := ⟨0, 16⟩
def TH_DIE_CLAMP : Fld := ⟨16, 2⟩
def TH_DIE_ISOLATED : Fld := ⟨18, 1⟩
def TH_DIE_SLOPES : Fld := ⟨32, 16⟩
def TH_DIE_ISOLATIONS : Fld := ⟨48, 16⟩
def TH_SORUS_TEMP0 : Fld := ⟨0, 16⟩
def TH_SORUS_TEMP1 : Fld := ⟨16, 16⟩
def TH_SORUS_TEMP2 : Fld := ⟨32, 16⟩
def TH_SORUS_TEMP3 : Fld := ⟨48, 16⟩
def TR_STATE_STATE : Fld := ⟨0, 3⟩
def TR_STATE_SLOTS : Fld := ⟨3, 3⟩
def TR_STATE_PENDING : Fld := ⟨6, 3⟩
def TR_STATE_LOCKSTEP : Fld := ⟨16, 8⟩
def TR_SVN_TFW : Fld := ⟨0, 16⟩
def TR_SVN_SFW : Fld := ⟨16, 16⟩
def TR_SVN_IMAGE : Fld := ⟨32, 16⟩
def TR_BOOT_COLD_STARTS : Fld := ⟨0, 32⟩
def TR_BOOT_WARM_STARTS : Fld := ⟨32, 32⟩
def TR_IMAGE_SERIAL : Fld := ⟨0, 32⟩
def TR_MEAS_WORD : Fld := ⟨0, 64⟩
def TR_GATE_CTL_GATE : Fld := ⟨0, 8⟩
def TR_GATE_CTL_GO : Fld := ⟨8, 1⟩
def TR_GATE_ARG_ARG : Fld := ⟨0, 64⟩
def TR_GATE_STAT_BUSY : Fld := ⟨0, 1⟩
def TR_GATE_STAT_RESULT : Fld := ⟨4, 4⟩
def TR_GATE_STAT_GATE : Fld := ⟨8, 8⟩
def TR_GATE_STAT_SERIAL : Fld := ⟨16, 32⟩
def TR_LEDGER_GENERATION : Fld := ⟨0, 32⟩
def TR_LEDGER_RECORDS : Fld := ⟨32, 16⟩
def TR_LEDGER_APPEND_FAILS : Fld := ⟨48, 8⟩
def TR_LEDGER_QUEUED : Fld := ⟨56, 8⟩
def TR_STAGE_DATA : Fld := ⟨0, 64⟩
def DD_LINK_STATE : Fld := ⟨0, 3⟩
def DD_LINK_MODULES : Fld := ⟨3, 4⟩
def DD_LINK_EPOCH : Fld := ⟨8, 16⟩
def DD_LINK_RETRAINS : Fld := ⟨32, 32⟩
def DD_DIE_CAUSE : Fld := ⟨0, 4⟩
def DD_DIE_HELD : Fld := ⟨4, 1⟩
def DD_DIE_ATTEMPTS : Fld := ⟨5, 2⟩
def DD_DIE_NEG_RESULT : Fld := ⟨8, 4⟩
def DD_DIE_TEST_RESULT : Fld := ⟨12, 4⟩
def DD_DIE_MODE : Fld := ⟨16, 3⟩
def DD_DIE_ISOLATIONS : Fld := ⟨32, 32⟩
def DD_ACC_CFG_CHAMBER : Fld := ⟨0, 3⟩
def DD_ACC_CFG_CHAMBER_VALID : Fld := ⟨3, 1⟩
def DD_ACC_CFG_MEM_EN : Fld := ⟨4, 1⟩
def DD_ACC_IDENT_WORD : Fld := ⟨0, 64⟩
def DD_RESET_SORUS : Fld := ⟨0, 8⟩
def DD_RESET_SORUS_GO : Fld := ⟨8, 1⟩
def DD_RESET_PORT : Fld := ⟨16, 6⟩
def DD_RESET_PORT_GO : Fld := ⟨22, 1⟩
def DD_RESET_SORUS_REFUSED : Fld := ⟨24, 1⟩
def DD_RESET_PORT_REFUSED : Fld := ⟨25, 1⟩
def ER_JNL_SEQ_NEXT : Fld := ⟨0, 64⟩
def ER_AVAIL_LOSS_MS : Fld := ⟨0, 40⟩
def ER_SCORE_CFG_HALF_LIFE_H : Fld := ⟨0, 8⟩
def ER_SCORE_CFG_ALERT : Fld := ⟨8, 16⟩
def ER_SHADOW_CFG_BAND_BITS : Fld := ⟨0, 5⟩
def ER_SHADOW_CFG_PASS_STEPS : Fld := ⟨16, 16⟩
def ER_SHADOW_STAT_ROLE : Fld := ⟨0, 2⟩
def ER_SHADOW_STAT_RESULT : Fld := ⟨2, 2⟩
def ER_SHADOW_STAT_RUN : Fld := ⟨4, 2⟩
def ER_SHADOW_STAT_UNMATCHED : Fld := ⟨16, 16⟩
def ER_SHADOW_STAT_COMPARED : Fld := ⟨32, 32⟩
def ER_SHADOW_DIG_WORD : Fld := ⟨0, 64⟩
def ER_QUEUE_DEPTH : Fld := ⟨0, 7⟩
def ER_QUEUE_OVERFLOWS : Fld := ⟨8, 32⟩
/-! ### The table -/

/-- The access codes of R10. -/
inductive Acc where
  | ro | rw | w1c | w1s | hwu | lck | gate | tfw
  deriving DecidableEq, Repr

/-- A field of a register table: lowest bit, width, access code, reset value. -/
structure RField where
  lo : Nat
  w : Nat
  acc : Acc
  reset : Nat
  deriving DecidableEq, Repr

/-- A register or an array of registers: its base, the count and stride of each index, and its fields. Bits that
no field takes are reserved (R7). -/
structure RegRow where
  base : Nat
  dims : List (Nat × Nat)
  fields : List RField
  deriving DecidableEq, Repr

/-- Registers MOD_IDENT, MOD_POSITION, MOD_DIE_PRESENT, MOD_DIE_STATE, MOD_DIE_MODE. -/
def regsMOD0 : List RegRow := [
  ⟨0x0, [],
    [⟨0, 16, .ro, 0x4B4D⟩, ⟨16, 16, .ro, 0x5012⟩, ⟨32, 4, .ro, 0x1⟩]⟩,
  ⟨0x8, [],
    [⟨0, 14, .hwu, 0x0⟩, ⟨14, 2, .hwu, 0x0⟩, ⟨16, 1, .hwu, 0x0⟩, ⟨17, 1, .hwu, 0x0⟩]⟩,
  ⟨0x10, [],
    [⟨0, 8, .hwu, 0x0⟩, ⟨8, 4, .hwu, 0x0⟩, ⟨12, 8, .hwu, 0x0⟩, ⟨20, 1, .hwu, 0x1⟩, ⟨21, 1, .hwu, 0x0⟩]⟩,
  ⟨0x18, [],
    [⟨0, 2, .hwu, 0x0⟩, ⟨2, 2, .hwu, 0x0⟩, ⟨4, 2, .hwu, 0x0⟩, ⟨6, 2, .hwu, 0x0⟩, ⟨8, 2, .hwu, 0x0⟩, ⟨10, 2, .hwu, 0x0⟩, ⟨12, 2, .hwu, 0x0⟩, ⟨14, 2, .hwu, 0x0⟩, ⟨16, 2, .hwu, 0x0⟩, ⟨18, 2, .hwu, 0x0⟩, ⟨20, 2, .hwu, 0x0⟩, ⟨22, 2, .hwu, 0x0⟩, ⟨24, 2, .hwu, 0x0⟩, ⟨26, 2, .hwu, 0x0⟩, ⟨28, 2, .hwu, 0x0⟩, ⟨30, 2, .hwu, 0x0⟩, ⟨32, 2, .hwu, 0x0⟩, ⟨34, 2, .hwu, 0x0⟩, ⟨36, 2, .hwu, 0x0⟩, ⟨38, 2, .hwu, 0x0⟩, ⟨40, 2, .hwu, 0x0⟩, ⟨42, 2, .hwu, 0x0⟩]⟩,
  ⟨0x20, [],
    [⟨0, 16, .lck, 0x0⟩, ⟨16, 2, .lck, 0x0⟩]⟩]

/-- Registers CD_IDENT, CD_NUMERIC, CD_SRAM_ECC, CD_MMA_COUNT, CD_FROND_BUSY, CD_SORUS_STATE, CD_THALLUS_STATE, CD_LAUNCH_CFG, CD_LAUNCH_STAT, CD_WAKE_STAT, CD_RING_SUB, CD_RING_CMP. -/
def regsCD0 : List RegRow := [
  ⟨0x100000, [(8, 0x10000)],
    [⟨0, 3, .ro, 0x0⟩, ⟨8, 5, .ro, 0x19⟩, ⟨16, 8, .ro, 0x96⟩]⟩,
  ⟨0x100010, [(8, 0x10000)],
    [⟨0, 1, .lck, 0x0⟩, ⟨1, 1, .lck, 0x0⟩]⟩,
  ⟨0x100020, [(8, 0x10000)],
    [⟨0, 32, .hwu, 0x0⟩, ⟨32, 16, .hwu, 0x0⟩, ⟨48, 16, .hwu, 0x0⟩]⟩,
  ⟨0x100028, [(8, 0x10000)],
    [⟨0, 64, .hwu, 0x0⟩]⟩,
  ⟨0x100030, [(8, 0x10000)],
    [⟨0, 64, .hwu, 0x0⟩]⟩,
  ⟨0x100800, [(8, 0x10000), (25, 0x8)],
    [⟨0, 2, .hwu, 0x0⟩, ⟨8, 3, .hwu, 0x0⟩, ⟨11, 1, .hwu, 0x0⟩, ⟨32, 32, .hwu, 0x0⟩]⟩,
  ⟨0x101000, [(8, 0x10000), (25, 0x30), (6, 0x8)],
    [⟨0, 3, .hwu, 0x0⟩, ⟨4, 3, .hwu, 0x0⟩, ⟨7, 1, .hwu, 0x0⟩, ⟨8, 6, .hwu, 0x0⟩, ⟨16, 4, .hwu, 0x0⟩]⟩,
  ⟨0x108000, [(8, 0x10000)],
    [⟨0, 16, .lck, 0x64⟩, ⟨16, 16, .lck, 0x1388⟩, ⟨32, 8, .ro, 0x8⟩, ⟨40, 9, .lck, 0x0⟩]⟩,
  ⟨0x108008, [(8, 0x10000)],
    [⟨0, 32, .hwu, 0x0⟩, ⟨32, 16, .hwu, 0x0⟩, ⟨48, 16, .hwu, 0x0⟩]⟩,
  ⟨0x108010, [(8, 0x10000)],
    [⟨0, 32, .hwu, 0x0⟩, ⟨32, 32, .hwu, 0x0⟩]⟩,
  ⟨0x109000, [(8, 0x10000), (256, 0x20)],
    [⟨6, 42, .lck, 0x0⟩]⟩,
  ⟨0x109008, [(8, 0x10000), (256, 0x20)],
    [⟨6, 42, .lck, 0x0⟩]⟩]

/-- Registers CD_RING_CTL, CD_RING_STATE, CD_LAUNCH_ENTRY. -/
def regsCD1 : List RegRow := [
  ⟨0x109010, [(8, 0x10000), (256, 0x20)],
    [⟨0, 4, .lck, 0x4⟩, ⟨4, 3, .lck, 0x0⟩, ⟨7, 1, .lck, 0x0⟩, ⟨8, 1, .w1s, 0x0⟩, ⟨32, 32, .rw, 0x0⟩]⟩,
  ⟨0x109018, [(8, 0x10000), (256, 0x20)],
    [⟨0, 32, .hwu, 0x0⟩, ⟨32, 2, .hwu, 0x0⟩]⟩,
  ⟨0x10C000, [(8, 0x10000), (64, 0x80), (16, 0x8)],
    [⟨0, 64, .hwu, 0x0⟩]⟩]

/-- Registers MS_IDENT, MS_CFG, MS_STACK_STATE, MS_STACK_ECC, MS_REG_CFG, MS_REG_STAT, MS_KEEP, MS_JNL_BASE, MS_JNL_CTL, MS_JNL_STAT, MS_MAINT, MS_MARGIN. -/
def regsMS0 : List RegRow := [
  ⟨0x200000, [(4, 0x10000)],
    [⟨0, 2, .ro, 0x0⟩, ⟨8, 4, .ro, 0x8⟩, ⟨16, 8, .ro, 0x40⟩, ⟨24, 16, .ro, 0x7D0⟩]⟩,
  ⟨0x200008, [(4, 0x10000)],
    [⟨0, 16, .lck, 0x32⟩, ⟨16, 8, .lck, 0x18⟩]⟩,
  ⟨0x200100, [(4, 0x10000), (8, 0x8)],
    [⟨0, 3, .hwu, 0x0⟩, ⟨3, 2, .hwu, 0x0⟩, ⟨8, 8, .hwu, 0x0⟩, ⟨16, 3, .lck, 0x0⟩, ⟨19, 1, .lck, 0x0⟩, ⟨20, 10, .hwu, 0x0⟩, ⟨30, 9, .hwu, 0x0⟩, ⟨39, 11, .hwu, 0x0⟩]⟩,
  ⟨0x200140, [(4, 0x10000), (8, 0x8)],
    [⟨0, 32, .hwu, 0x0⟩, ⟨32, 16, .hwu, 0x0⟩, ⟨48, 16, .hwu, 0x0⟩]⟩,
  ⟨0x200200, [(4, 0x10000), (8, 0x10)],
    [⟨0, 14, .lck, 0x0⟩, ⟨16, 14, .lck, 0x0⟩, ⟨32, 16, .lck, 0x0⟩]⟩,
  ⟨0x200208, [(4, 0x10000), (8, 0x10)],
    [⟨0, 32, .hwu, 0x0⟩, ⟨32, 32, .hwu, 0x0⟩]⟩,
  ⟨0x200280, [(4, 0x10000), (8, 0x8)],
    [⟨0, 8, .lck, 0x0⟩, ⟨16, 8, .hwu, 0x0⟩]⟩,
  ⟨0x200300, [(4, 0x10000), (8, 0x20)],
    [⟨0, 52, .lck, 0x0⟩]⟩,
  ⟨0x200308, [(4, 0x10000), (8, 0x20)],
    [⟨0, 2, .lck, 0x0⟩, ⟨2, 1, .lck, 0x0⟩, ⟨4, 5, .lck, 0x0⟩, ⟨16, 12, .lck, 0x0⟩]⟩,
  ⟨0x200310, [(4, 0x10000), (8, 0x20)],
    [⟨0, 32, .hwu, 0x0⟩, ⟨32, 32, .hwu, 0x0⟩]⟩,
  ⟨0x200400, [(4, 0x10000)],
    [⟨0, 3, .gate, 0x0⟩, ⟨3, 2, .gate, 0x0⟩, ⟨9, 1, .hwu, 0x0⟩]⟩,
  ⟨0x200800, [(4, 0x10000), (8, 0x40), (8, 0x8)],
    [⟨0, 8, .hwu, 0x0⟩, ⟨8, 8, .hwu, 0x0⟩, ⟨16, 8, .hwu, 0x0⟩, ⟨24, 8, .hwu, 0x0⟩, ⟨32, 2, .hwu, 0x0⟩]⟩]

/-- Registers MS_REMAP, MS_RETIRED. -/
def regsMS1 : List RegRow := [
  ⟨0x204000, [(4, 0x10000), (8, 0x800), (256, 0x8)],
    [⟨0, 1, .hwu, 0x0⟩, ⟨1, 2, .hwu, 0x0⟩, ⟨3, 3, .hwu, 0x0⟩, ⟨6, 4, .hwu, 0x0⟩, ⟨10, 18, .hwu, 0x0⟩, ⟨28, 9, .hwu, 0x0⟩]⟩,
  ⟨0x208000, [(4, 0x10000), (8, 0x1000), (512, 0x8)],
    [⟨0, 1, .hwu, 0x0⟩, ⟨1, 15, .hwu, 0x0⟩]⟩]

/-- Registers FB_CFG, FB_POOL_CFG, FB_POOL_STAT, FB_LEDGER_STAT, FB_LEDGER_SEL, FB_LEDGER_VAL, FB_PORT_ALLOT, FB_PORT_LINK, FB_PORT_RETRY, FB_PORT_LANE. -/
def regsFB0 : List RegRow := [
  ⟨0x500000, [],
    [⟨0, 16, .lck, 0x100⟩, ⟨16, 16, .lck, 0x64⟩]⟩,
  ⟨0x500100, [(8, 0x10)],
    [⟨0, 16, .lck, 0x0⟩, ⟨16, 16, .lck, 0x0⟩]⟩,
  ⟨0x500108, [(8, 0x10)],
    [⟨0, 20, .hwu, 0x0⟩, ⟨32, 20, .hwu, 0x0⟩]⟩,
  ⟨0x500200, [],
    [⟨0, 32, .hwu, 0x0⟩, ⟨32, 8, .hwu, 0x0⟩, ⟨40, 8, .hwu, 0x0⟩, ⟨48, 16, .hwu, 0x0⟩]⟩,
  ⟨0x500208, [],
    [⟨0, 16, .rw, 0x0⟩]⟩,
  ⟨0x500210, [(4, 0x8)],
    [⟨0, 64, .hwu, 0x0⟩]⟩,
  ⟨0x501000, [(64, 0x20)],
    [⟨0, 16, .lck, 0x0⟩, ⟨16, 16, .lck, 0x0⟩, ⟨32, 2, .lck, 0x0⟩]⟩,
  ⟨0x501008, [(64, 0x20)],
    [⟨0, 3, .hwu, 0x0⟩, ⟨3, 1, .hwu, 0x0⟩, ⟨4, 1, .hwu, 0x0⟩, ⟨16, 16, .hwu, 0x0⟩, ⟨32, 32, .hwu, 0x0⟩]⟩,
  ⟨0x501010, [(64, 0x20)],
    [⟨0, 32, .hwu, 0x0⟩, ⟨32, 12, .hwu, 0x0⟩, ⟨44, 8, .hwu, 0x0⟩, ⟨52, 12, .hwu, 0x0⟩]⟩,
  ⟨0x501018, [(64, 0x20)],
    [⟨0, 18, .hwu, 0x0⟩, ⟨18, 18, .hwu, 0x0⟩, ⟨36, 28, .hwu, 0x0⟩]⟩]

/-- Registers RM_CFG, RM_STAT, RM_WIN_SEL, RM_WIN_VAL, RM_INJ, RM_GW_STAT, RM_SUMP_STAT. -/
def regsRM0 : List RegRow := [
  ⟨0x600000, [],
    [⟨0, 16, .lck, 0xFA0⟩]⟩,
  ⟨0x600008, [],
    [⟨0, 32, .hwu, 0x0⟩, ⟨32, 16, .hwu, 0x0⟩, ⟨48, 16, .hwu, 0x0⟩]⟩,
  ⟨0x600010, [],
    [⟨0, 3, .rw, 0x0⟩, ⟨8, 8, .rw, 0x0⟩]⟩,
  ⟨0x600018, [(4, 0x8)],
    [⟨0, 64, .hwu, 0x0⟩]⟩,
  ⟨0x600100, [(8, 0x8)],
    [⟨0, 16, .lck, 0x0⟩, ⟨16, 16, .lck, 0x0⟩]⟩,
  ⟨0x600200, [(8, 0x8)],
    [⟨0, 32, .hwu, 0x0⟩, ⟨32, 32, .hwu, 0x0⟩]⟩,
  ⟨0x600300, [(4, 0x8)],
    [⟨0, 40, .hwu, 0x0⟩, ⟨40, 24, .hwu, 0x0⟩]⟩]

/-- Registers PT_CFG, PT_TXMAP_LO, PT_TXMAP_HI, PT_RXMAP_LO, PT_RXMAP_HI, PT_SPARE, PT_MOVE, PT_CAL, PT_TX_LANE, PT_RX_LANE. -/
def regsPT0 : List RegRow := [
  ⟨0x300000, [(64, 0x1000)],
    [⟨0, 12, .lck, 0x0⟩, ⟨12, 1, .lck, 0x0⟩]⟩,
  ⟨0x300008, [(64, 0x1000)],
    [⟨0, 5, .hwu, 0x0⟩, ⟨8, 5, .hwu, 0x1⟩, ⟨16, 5, .hwu, 0x2⟩, ⟨24, 5, .hwu, 0x3⟩, ⟨32, 5, .hwu, 0x4⟩, ⟨40, 5, .hwu, 0x5⟩, ⟨48, 5, .hwu, 0x6⟩, ⟨56, 5, .hwu, 0x7⟩]⟩,
  ⟨0x300010, [(64, 0x1000)],
    [⟨0, 5, .hwu, 0x8⟩, ⟨8, 5, .hwu, 0x9⟩, ⟨16, 5, .hwu, 0xA⟩, ⟨24, 5, .hwu, 0xB⟩, ⟨32, 5, .hwu, 0xC⟩, ⟨40, 5, .hwu, 0xD⟩, ⟨48, 5, .hwu, 0xE⟩, ⟨56, 5, .hwu, 0xF⟩]⟩,
  ⟨0x300018, [(64, 0x1000)],
    [⟨0, 5, .hwu, 0x0⟩, ⟨8, 5, .hwu, 0x1⟩, ⟨16, 5, .hwu, 0x2⟩, ⟨24, 5, .hwu, 0x3⟩, ⟨32, 5, .hwu, 0x4⟩, ⟨40, 5, .hwu, 0x5⟩, ⟨48, 5, .hwu, 0x6⟩, ⟨56, 5, .hwu, 0x7⟩]⟩,
  ⟨0x300020, [(64, 0x1000)],
    [⟨0, 5, .hwu, 0x8⟩, ⟨8, 5, .hwu, 0x9⟩, ⟨16, 5, .hwu, 0xA⟩, ⟨24, 5, .hwu, 0xB⟩, ⟨32, 5, .hwu, 0xC⟩, ⟨40, 5, .hwu, 0xD⟩, ⟨48, 5, .hwu, 0xE⟩, ⟨56, 5, .hwu, 0xF⟩]⟩,
  ⟨0x300028, [(64, 0x1000)],
    [⟨0, 3, .hwu, 0x0⟩, ⟨3, 5, .hwu, 0x0⟩, ⟨8, 1, .hwu, 0x0⟩, ⟨16, 3, .hwu, 0x0⟩, ⟨19, 5, .hwu, 0x0⟩, ⟨24, 1, .hwu, 0x0⟩]⟩,
  ⟨0x300030, [(64, 0x1000)],
    [⟨0, 3, .hwu, 0x0⟩, ⟨3, 1, .hwu, 0x0⟩, ⟨4, 5, .hwu, 0x0⟩, ⟨9, 5, .hwu, 0x0⟩, ⟨14, 5, .hwu, 0x0⟩, ⟨19, 3, .hwu, 0x0⟩, ⟨32, 32, .hwu, 0x0⟩]⟩,
  ⟨0x300038, [(64, 0x1000)],
    [⟨0, 5, .rw, 0x0⟩, ⟨5, 1, .w1s, 0x0⟩, ⟨6, 1, .w1c, 0x0⟩, ⟨7, 1, .w1c, 0x0⟩, ⟨32, 32, .hwu, 0x0⟩]⟩,
  ⟨0x300100, [(64, 0x1000), (18, 0x8)],
    [⟨0, 16, .hwu, 0x0⟩, ⟨16, 12, .tfw, 0x0⟩, ⟨28, 2, .hwu, 0x0⟩, ⟨30, 2, .hwu, 0x0⟩, ⟨32, 1, .hwu, 0x0⟩, ⟨40, 8, .hwu, 0x0⟩, ⟨48, 12, .hwu, 0x0⟩]⟩,
  ⟨0x300200, [(64, 0x1000), (18, 0x8)],
    [⟨0, 16, .hwu, 0x0⟩, ⟨16, 12, .tfw, 0x0⟩, ⟨28, 2, .hwu, 0x0⟩, ⟨30, 2, .hwu, 0x0⟩, ⟨40, 8, .hwu, 0x0⟩, ⟨48, 12, .hwu, 0x0⟩]⟩]

/-- Registers LS_CFG, LS_CAL, LS_FEED_CTL, LS_FEED_STAT, LS_DIE, LS_LINE. -/
def regsLS0 : List RegRow := [
  ⟨0x400000, [],
    [⟨0, 16, .lck, 0x64⟩, ⟨16, 16, .lck, 0xC8⟩, ⟨32, 16, .lck, 0x190⟩, ⟨48, 8, .lck, 0xA⟩]⟩,
  ⟨0x400008, [],
    [⟨0, 16, .lck, 0x258⟩, ⟨16, 1, .hwu, 0x0⟩, ⟨17, 6, .hwu, 0x0⟩, ⟨23, 5, .hwu, 0x0⟩]⟩,
  ⟨0x400100, [(16, 0x10)],
    [⟨0, 1, .gate, 0x0⟩]⟩,
  ⟨0x400108, [(16, 0x10)],
    [⟨0, 3, .hwu, 0x0⟩, ⟨3, 1, .hwu, 0x0⟩, ⟨4, 1, .hwu, 0x0⟩, ⟨8, 8, .hwu, 0x0⟩, ⟨16, 16, .hwu, 0x0⟩]⟩,
  ⟨0x400200, [(8, 0x8)],
    [⟨0, 1, .hwu, 0x0⟩, ⟨1, 1, .gate, 0x0⟩, ⟨2, 3, .hwu, 0x0⟩, ⟨5, 3, .hwu, 0x0⟩, ⟨8, 5, .hwu, 0x0⟩, ⟨32, 32, .hwu, 0x0⟩]⟩,
  ⟨0x401000, [(16, 0x90), (18, 0x8)],
    [⟨0, 16, .hwu, 0x0⟩, ⟨16, 12, .tfw, 0x0⟩, ⟨28, 2, .hwu, 0x0⟩]⟩]

/-- Registers VL_CFG, VL_PORTS, VL_STAT, VL_LINES, VL_CHAMBER, VL_BOUNCE_SZ, VL_CONF_STATE, VL_CONF_CNT. -/
def regsVL0 : List RegRow := [
  ⟨0x700000, [],
    [⟨0, 6, .lck, 0x0⟩, ⟨16, 16, .lck, 0x64⟩, ⟨32, 14, .lck, 0x0⟩]⟩,
  ⟨0x700008, [],
    [⟨0, 6, .lck, 0x0⟩, ⟨6, 1, .lck, 0x0⟩, ⟨8, 6, .lck, 0x0⟩, ⟨14, 1, .lck, 0x0⟩, ⟨16, 2, .hwu, 0x0⟩, ⟨18, 2, .hwu, 0x0⟩]⟩,
  ⟨0x700010, [],
    [⟨0, 32, .hwu, 0x0⟩, ⟨32, 32, .hwu, 0x0⟩]⟩,
  ⟨0x700018, [],
    [⟨0, 16, .hwu, 0x0⟩, ⟨16, 16, .hwu, 0x0⟩, ⟨32, 16, .hwu, 0x0⟩, ⟨48, 16, .hwu, 0x0⟩]⟩,
  ⟨0x700100, [(8, 0x20)],
    [⟨0, 1, .lck, 0x0⟩, ⟨1, 1, .lck, 0x0⟩, ⟨12, 36, .lck, 0x0⟩]⟩,
  ⟨0x700108, [(8, 0x20)],
    [⟨0, 4, .lck, 0x0⟩, ⟨4, 5, .lck, 0x0⟩, ⟨12, 4, .lck, 0x0⟩, ⟨16, 5, .lck, 0x0⟩]⟩,
  ⟨0x700110, [(8, 0x20)],
    [⟨0, 3, .hwu, 0x0⟩, ⟨8, 8, .hwu, 0x0⟩, ⟨32, 32, .hwu, 0x0⟩]⟩,
  ⟨0x700118, [(8, 0x20)],
    [⟨0, 32, .hwu, 0x0⟩, ⟨32, 32, .hwu, 0x0⟩]⟩]

/-- Registers TM_NOW, TM_STATUS, TM_CFG, TM_START, TM_EXCHANGE, TM_ASYM. -/
def regsTM0 : List RegRow := [
  ⟨0x10000, [],
    [⟨0, 64, .hwu, 0x0⟩]⟩,
  ⟨0x10008, [],
    [⟨0, 1, .hwu, 0x0⟩, ⟨1, 1, .hwu, 0x0⟩, ⟨2, 1, .hwu, 0x0⟩, ⟨3, 1, .hwu, 0x0⟩, ⟨4, 1, .hwu, 0x0⟩, ⟨8, 8, .hwu, 0xFF⟩, ⟨16, 6, .hwu, 0x0⟩, ⟨22, 1, .hwu, 0x0⟩]⟩,
  ⟨0x10010, [],
    [⟨0, 1, .lck, 0x0⟩]⟩,
  ⟨0x10018, [],
    [⟨0, 64, .tfw, 0x0⟩]⟩,
  ⟨0x10020, [],
    [⟨0, 32, .hwu, 0x0⟩, ⟨32, 32, .hwu, 0x0⟩]⟩,
  ⟨0x10100, [(64, 0x8)],
    [⟨0, 16, .lck, 0x0⟩]⟩]

/-- Registers CP_CFG, CP_COMPUTE, CP_SORUS, CP_INPUT. -/
def regsCP0 : List RegRow := [
  ⟨0x20000, [],
    [⟨0, 16, .lck, 0x14⟩, ⟨16, 16, .lck, 0x64⟩, ⟨32, 16, .lck, 0x0⟩]⟩,
  ⟨0x20100, [(8, 0x8)],
    [⟨0, 2, .hwu, 0x0⟩, ⟨2, 2, .hwu, 0x0⟩, ⟨32, 32, .hwu, 0x0⟩]⟩,
  ⟨0x20400, [(200, 0x8)],
    [⟨0, 1, .hwu, 0x0⟩, ⟨32, 32, .hwu, 0x0⟩]⟩,
  ⟨0x20C00, [(19, 0x8)],
    [⟨0, 1, .hwu, 0x0⟩, ⟨1, 1, .hwu, 0x0⟩, ⟨32, 16, .hwu, 0x0⟩, ⟨48, 16, .hwu, 0x0⟩]⟩]

/-- Registers TH_STATUS, TH_DIE, TH_SORUS. -/
def regsTH0 : List RegRow := [
  ⟨0x30000, [],
    [⟨0, 1, .hwu, 0x0⟩, ⟨1, 1, .w1c, 0x0⟩]⟩,
  ⟨0x30100, [(22, 0x8)],
    [⟨0, 16, .hwu, 0x8000⟩, ⟨16, 2, .hwu, 0x0⟩, ⟨18, 1, .hwu, 0x0⟩, ⟨32, 16, .hwu, 0x0⟩, ⟨48, 16, .hwu, 0x0⟩]⟩,
  ⟨0x30400, [(200, 0x8)],
    [⟨0, 16, .hwu, 0x8000⟩, ⟨16, 16, .hwu, 0x8000⟩, ⟨32, 16, .hwu, 0x8000⟩, ⟨48, 16, .hwu, 0x8000⟩]⟩]

/-- Registers TR_STATE, TR_SVN, TR_BOOT, TR_IMAGE, TR_MEAS, TR_GATE_CTL, TR_GATE_ARG, TR_GATE_STAT, TR_LEDGER, TR_STAGE. -/
def regsTR0 : List RegRow := [
  ⟨0x50000, [],
    [⟨0, 3, .hwu, 0x0⟩, ⟨3, 3, .hwu, 0x0⟩, ⟨6, 3, .hwu, 0x0⟩, ⟨16, 8, .hwu, 0x0⟩]⟩,
  ⟨0x50008, [],
    [⟨0, 16, .hwu, 0x0⟩, ⟨16, 16, .hwu, 0x0⟩, ⟨32, 16, .hwu, 0x0⟩]⟩,
  ⟨0x50010, [],
    [⟨0, 32, .hwu, 0x0⟩, ⟨32, 32, .hwu, 0x0⟩]⟩,
  ⟨0x50018, [],
    [⟨0, 32, .lck, 0x0⟩]⟩,
  ⟨0x50100, [(42, 0x8)],
    [⟨0, 64, .hwu, 0x0⟩]⟩,
  ⟨0x50400, [(3, 0x80)],
    [⟨0, 8, .rw, 0x0⟩, ⟨8, 1, .w1s, 0x0⟩]⟩,
  ⟨0x50408, [(3, 0x80), (8, 0x8)],
    [⟨0, 64, .rw, 0x0⟩]⟩,
  ⟨0x50448, [(3, 0x80)],
    [⟨0, 1, .hwu, 0x0⟩, ⟨4, 4, .hwu, 0x0⟩, ⟨8, 8, .hwu, 0x0⟩, ⟨16, 32, .hwu, 0x0⟩]⟩,
  ⟨0x50600, [],
    [⟨0, 32, .hwu, 0x0⟩, ⟨32, 16, .hwu, 0x0⟩, ⟨48, 8, .hwu, 0x0⟩, ⟨56, 8, .hwu, 0x0⟩]⟩,
  ⟨0x51000, [(2, 0x1000), (512, 0x8)],
    [⟨0, 64, .rw, 0x0⟩]⟩]

/-- Registers DD_LINK, DD_DIE, DD_ACC_CFG, DD_ACC_IDENT, DD_RESET. -/
def regsDD0 : List RegRow := [
  ⟨0x800000, [(57, 0x8)],
    [⟨0, 3, .hwu, 0x0⟩, ⟨3, 4, .hwu, 0x0⟩, ⟨8, 16, .hwu, 0x0⟩, ⟨32, 32, .hwu, 0x0⟩]⟩,
  ⟨0x800200, [(22, 0x8)],
    [⟨0, 4, .hwu, 0x0⟩, ⟨4, 1, .hwu, 0x0⟩, ⟨5, 2, .hwu, 0x0⟩, ⟨8, 4, .hwu, 0x0⟩, ⟨12, 4, .hwu, 0x0⟩, ⟨16, 3, .hwu, 0x0⟩, ⟨32, 32, .hwu, 0x0⟩]⟩,
  ⟨0x800400, [],
    [⟨0, 3, .lck, 0x0⟩, ⟨3, 1, .lck, 0x0⟩, ⟨4, 1, .lck, 0x0⟩]⟩,
  ⟨0x800408, [(8, 0x8)],
    [⟨0, 64, .hwu, 0x0⟩]⟩,
  ⟨0x800500, [],
    [⟨0, 8, .rw, 0x0⟩, ⟨8, 1, .w1s, 0x0⟩, ⟨16, 6, .rw, 0x0⟩, ⟨22, 1, .w1s, 0x0⟩, ⟨24, 1, .w1c, 0x0⟩, ⟨25, 1, .w1c, 0x0⟩]⟩]

/-- Registers ER_JNL_SEQ, ER_AVAIL, ER_SCORE_CFG, ER_SHADOW_CFG, ER_SHADOW_STAT, ER_SHADOW_DIG, ER_QUEUE. -/
def regsER0 : List RegRow := [
  ⟨0x40000, [],
    [⟨0, 64, .hwu, 0x0⟩]⟩,
  ⟨0x40008, [],
    [⟨0, 40, .hwu, 0x0⟩]⟩,
  ⟨0x40010, [],
    [⟨0, 8, .lck, 0x18⟩, ⟨8, 16, .lck, 0x3E8⟩]⟩,
  ⟨0x40018, [],
    [⟨0, 5, .lck, 0xA⟩, ⟨16, 16, .lck, 0x3E8⟩]⟩,
  ⟨0x40020, [],
    [⟨0, 2, .hwu, 0x0⟩, ⟨2, 2, .hwu, 0x0⟩, ⟨4, 2, .hwu, 0x0⟩, ⟨16, 16, .hwu, 0x0⟩, ⟨32, 32, .hwu, 0x0⟩]⟩,
  ⟨0x40040, [(6, 0x8)],
    [⟨0, 64, .hwu, 0x0⟩]⟩,
  ⟨0x40100, [(22, 0x8)],
    [⟨0, 7, .hwu, 0x0⟩, ⟨8, 32, .hwu, 0x0⟩]⟩]

/-- Every register the manual assigns. -/
def regTable : List RegRow :=
  regsMOD0 ++ regsCD0 ++ regsCD1 ++ regsMS0 ++ regsMS1 ++ regsFB0 ++ regsRM0 ++ regsPT0 ++ regsLS0 ++ regsVL0 ++ regsTM0 ++ regsCP0 ++ regsTH0 ++ regsTR0 ++ regsDD0 ++ regsER0

/-- The index numbers under which an offset from the base of a row names a register, outermost first. -/
def regIndex : List (Nat × Nat) → Nat → Option (List Nat)
  | [], off => if off = 0 then some [] else none
  | (n, stride) :: ds, off =>
    if off / stride < n then (regIndex ds (off % stride)).map (off / stride :: ·) else none

/-- The row and the indices of the register at an offset. -/
def RegRow.hit (off : Nat) (r : RegRow) : Option (List Nat) :=
  if off < r.base then none else regIndex r.dims (off - r.base)

/-- The row of an assigned offset with its indices. -/
def regFind (off : Nat) : List RegRow → Option (RegRow × List Nat)
  | [] => none
  | r :: rs => match r.hit off with
    | some ix => some (r, ix)
    | none => regFind off rs

/-- True where a register is assigned (R43). -/
def regAssigned (off : Nat) : Bool := (regFind off regTable).isSome

/-- The fields of the register at an offset. -/
def regFields (off : Nat) : List RField := ((regFind off regTable).map (·.1.fields)).getD []

/-- A word with the bits of one field set. -/
def fieldMask (lo w : Nat) : Word := BitVec.ofNat 64 ((2 ^ w - 1) * 2 ^ lo)

/-- The bits of a register that some field takes. -/
def regMask (off : Nat) : Word := (regFields off).foldl (fun a f => a ||| fieldMask f.lo f.w) 0

/-- The Reset column as a word (R14). `CD_IDENT.DIE` and `MS_IDENT.DIE` hold the die's own number. -/
def regReset (off : Nat) : Word :=
  match regFind off regTable with
  | none => 0
  | some (r, ix) =>
    let own := if r.base = 0x100000 ∨ r.base = 0x200000 then ix.headD 0 else 0
    BitVec.ofNat 64 (r.fields.foldl (fun a f => a + f.reset * 2 ^ f.lo) own)

end Sys2Proof.Machine
end

