-- ==== Sys2Proof/Machine/Ops.lean ====
section
/-! DEFINITION. The named operations over the state: readers of every part, the primitive updates, the effects a
command is built of, register fields, arrival counters with their ledger pool, records and wake requests. -/

namespace Sys2Proof.Machine

/-! ### Readers -/

def Mod.thallus (m : Mod) (t : Nat) : Thallus := m.thalli.getD t Thallus.init
def Mod.cdie (m : Mod) (d : Nat) : CDie := m.cdies.getD d CDie.init
def Mod.mdie (m : Mod) (i : Nat) : MDie := m.mdies.getD i MDie.init
def Mod.stk (m : Mod) (i : Nat) : Stack := m.stks.getD i Stack.init
def Mod.port (m : Mod) (p : Nat) : Port := m.ports.getD p Port.init
def Mod.link (m : Mod) (n : Nat) : Link := m.links.getD n Link.init
def Mod.iodie (m : Mod) (i : Nat) : IoDie := m.iodies.getD i IoDie.init
def Mod.chamber (m : Mod) (k : Nat) : Chamber := m.chambers.getD k Chamber.init
def Mod.window (m : Mod) (k w : Nat) : Win := m.windows.getD (256 * k + w) Win.init
def Mod.pool (m : Mod) (i : Nat) : Pool := m.pools.getD i ⟨0, 0, 0⟩
def Mod.counter (m : Mod) (c : Nat) : Word := m.counters.getD c 0
def Mod.queue (m : Mod) (q : Nat) : RQueue := m.queues.getD q ⟨[], 0⟩
def Mod.sensor (m : Mod) (n : Nat) : SensorSt := m.sensors.getD n SensorSt.init
def Mod.clamp (m : Mod) (d : Nat) : Clamp := m.clamps.getD d Clamp.init

/-- A register as it stands (R10). -/
def Mod.reg (m : Mod) (off : Nat) : Word := m.regs.getD off (regReset off)

/-- A register as the snapshot of the last drip-tick boundary holds it (R29). -/
def Mod.snapReg (m : Mod) (off : Nat) : Word := m.snap.getD off (regReset off)

/-- A field of a register as it stands. -/
def Mod.fld (m : Mod) (off : Nat) (f : Fld) : Nat := bitsOf (m.reg off) f.lo f.w

/-- A one-bit field of a register as it stands. -/
def Mod.flag (m : Mod) (off : Nat) (f : Fld) : Bool := m.fld off f = 1

/-- A fresh thallus, queue or other part is read through its reader; a part's byte of local memory through
`memByte` (R231: the home's value). -/
def Mod.byte (m : Mod) (a : Nat) : Byte := memByte m.mem a

/-! ### Primitive updates -/

/-- The primitive updates: each replaces one part of the module, and the parts under a rule of their own
(registers, memory, arrival counters, the stratum counter) only as that rule allows. -/
inductive Upd where
  | now (v : Word)
  | tick
  | snap
  | reg (off : Nat) (v : Word)
  | regsClear (keep : List (Nat × Nat))
  | mem (a : Nat) (bs : List Byte)
  | zero (a n : Nat)
  | arrive (c n : Nat)
  | consume (c n : Nat)
  | retire (c : Nat)
  | freshCounter (c : Nat)
  | cntFrozen (x : List Nat)
  | pool (i : Nat) (p : Pool)
  | poolSnap (i : Nat) (p : PoolSnap)
  | poolBound (x : SMap PoolSnap)
  | poolRead (x : SMap PoolSnap)
  | ledgerTodo (x : List Nat)
  | thalli (x : SMap Thallus)
  | cdies (x : SMap CDie)
  | mdies (x : SMap MDie)
  | stks (x : SMap Stack)
  | ports (x : SMap Port)
  | links (x : SMap Link)
  | iodies (x : SMap IoDie)
  | windows (x : SMap Win)
  | winNext (x : SMap Win)
  | chambers (x : SMap Chamber)
  | fabric (x : Fabric)
  | reqs (x : List Req)
  | tagsDone (x : List (BitVec 32 × Word))
  | flight (x : List Access)
  | replies (x : List Reply)
  | volosh (x : Volosh)
  | trust (x : Trust)
  | rst (x : Reset)
  | queues (x : SMap RQueue)
  | recPtr (n : Nat)
  | journal (x : List Rec)
  | scores (x : SMap Nat) (alerted : List Nat)
  | scoreIn (x : SMap Nat)
  | scoresSent (x : SMap Nat)
  | sessions (x : List Session)
  | shadow (x : Option Shadow)
  | sensors (x : SMap SensorSt)
  | clamps (x : SMap Clamp)
  | pins (x : Pins)
  | calPhase (x : Option (Nat × Nat × Nat))
  | loss (ns : Nat) (hour : Nat)
  | interlocked (x : SMap Word)
  | free
  | out (o : Out)
  deriving DecidableEq, Repr

/-- A register map with one register written: reserved bits and unassigned offsets take nothing (R7, R43). -/
def setRegs (regs : SMap Word) (off : Nat) (v : Word) : SMap Word :=
  if regAssigned off then SMap.set (regReset off) regs off (v &&& regMask off) else regs

/-- The largest value of an arrival counter (R247). -/
def counterMax : Nat := 2 ^ 64 - 1

/-- Arrivals add to a counter and are issued in its pool; what would pass 2⁶⁴ − 1 is retired (R245, R247). -/
def arriveAt (m : Mod) (c n : Nat) : Mod :=
  let v := (m.counter c).toNat
  let w := min counterMax (v + n)
  let p := m.pool c
  { m with
    counters := SMap.set 0 m.counters c (BitVec.ofNat 64 w)
    pools := m.pools.put c { p with issued := p.issued + n, retired := p.retired + (v + n - w) } }

/-- A consume takes what the counter holds, at most `n`, and returns it in the pool (R116, R180, R285). -/
def consumeAt (m : Mod) (c n : Nat) : Mod :=
  let v := (m.counter c).toNat
  let k := min n v
  let p := m.pool c
  { m with
    counters := SMap.set 0 m.counters c (BitVec.ofNat 64 (v - k))
    pools := m.pools.put c { p with returned := p.returned + k } }

/-- The value of a counter is removed and retired with record (R27, R285). -/
def retireAt (m : Mod) (c : Nat) : Mod :=
  let v := (m.counter c).toNat
  let p := m.pool c
  { m with
    counters := SMap.set 0 m.counters c 0
    pools := m.pools.put c { p with retired := p.retired + v } }

/-- One primitive update of the module. -/
def Upd.app (m : Mod) : Upd → Mod
  | .now v => { m with now := v }
  | .tick => { m with tick := m.tick + 1 }
  | .snap => { m with snap := m.regs, snapWin := m.windows }
  | .reg off v => { m with regs := setRegs m.regs off v }
  | .regsClear keep => { m with regs := m.regs.filter fun e => keep.any fun r => decide (r.1 ≤ e.1 ∧ e.1 < r.2) }
  | .mem a bs => { m with mem := memWrite m.mem a bs }
  | .zero a n => { m with mem := memZero m.mem a n }
  | .arrive c n => arriveAt m c n
  | .consume c n => consumeAt m c n
  | .retire c => retireAt m c
  | .freshCounter c => { m with counters := SMap.set 0 m.counters c 0, pools := m.pools.put c ⟨0, 0, 0⟩ }
  | .cntFrozen x => { m with cntFrozen := x }
  | .pool i p => if i < 4096 then m else { m with pools := m.pools.put i p }
  | .poolSnap i p => { m with poolSnap := m.poolSnap.put i p }
  | .poolBound x => { m with poolBound := x }
  | .poolRead x => { m with poolRead := x }
  | .ledgerTodo x => { m with ledgerTodo := x }
  | .thalli x => { m with thalli := x }
  | .cdies x => { m with cdies := x }
  | .mdies x => { m with mdies := x }
  | .stks x => { m with stks := x }
  | .ports x => { m with ports := x }
  | .links x => { m with links := x }
  | .iodies x => { m with iodies := x }
  | .windows x => { m with windows := x }
  | .winNext x => { m with winNext := x }
  | .chambers x => { m with chambers := x }
  | .fabric x => { m with fabric := x }
  | .reqs x => { m with reqs := x }
  | .tagsDone x => { m with tagsDone := x }
  | .flight x => { m with flight := x }
  | .replies x => { m with replies := x }
  | .volosh x => { m with volosh := x }
  | .trust x => { m with trust := x }
  | .rst x => { m with rst := x }
  | .queues x => { m with queues := x }
  | .recPtr n => { m with recPtr := n }
  | .journal x => { m with journal := x }
  | .scores x a => { m with scores := x, alerted := a }
  | .scoreIn x => { m with scoreIn := x }
  | .scoresSent x => { m with scoresSent := x }
  | .sessions x => { m with sessions := x }
  | .shadow x => { m with shadow := x }
  | .sensors x => { m with sensors := x }
  | .clamps x => { m with clamps := x }
  | .pins x => { m with pins := x }
  | .calPhase x => { m with calPhase := x }
  | .loss n h => { m with lossNs := n, lossHour := h }
  | .interlocked x => { m with interlocked := x }
  | .free => { m with freeCount := m.freeCount + 1 }
  | .out o => { m with out := o :: m.out }

/-! ### Effects -/

/-- The effect of a command: primitive updates in order, each of which may depend on the module as the earlier
ones left it. -/
inductive Act where
  | nop
  | upd (u : Upd)
  | seq (a b : Act)
  | look (k : Mod → Act)

/-- The module after an effect. -/
def Act.run : Act → Mod → Mod
  | .nop, m => m
  | .upd u, m => u.app m
  | .seq a b, m => b.run (a.run m)
  | .look k, m => (k m).run m

/-- Effects one after another. -/
def acts : List Act → Act
  | [] => .nop
  | a :: l => .seq a (acts l)

/-- An effect for each element of a list, in its order. -/
def forEach {α : Type} (l : List α) (f : α → Act) : Act := acts (l.map f)

/-- An effect where a condition holds. -/
def onlyIf (c : Bool) (a : Act) : Act := if c then a else .nop

/-- The outcome of a step of this block. -/
abbrev Result := Host.Outcome State Fault Refusal

/-- A command completes with an effect on everything but the queue. -/
def done (a : Act) (s : State) : Result := .next { s with mod := a.run s.mod }

def modThallus (t : Nat) (f : Thallus → Thallus) : Act :=
  .look fun m => .upd (.thalli (m.thalli.put t (f (m.thallus t))))
def modCDie (d : Nat) (f : CDie → CDie) : Act := .look fun m => .upd (.cdies (m.cdies.put d (f (m.cdie d))))
def modMDie (i : Nat) (f : MDie → MDie) : Act := .look fun m => .upd (.mdies (m.mdies.put i (f (m.mdie i))))
def modStk (i : Nat) (f : Stack → Stack) : Act := .look fun m => .upd (.stks (m.stks.put i (f (m.stk i))))
def modPort (p : Nat) (f : Port → Port) : Act := .look fun m => .upd (.ports (m.ports.put p (f (m.port p))))
def modLink (n : Nat) (f : Link → Link) : Act := .look fun m => .upd (.links (m.links.put n (f (m.link n))))
def modIoDie (i : Nat) (f : IoDie → IoDie) : Act := .look fun m => .upd (.iodies (m.iodies.put i (f (m.iodie i))))
def modChamber (k : Nat) (f : Chamber → Chamber) : Act :=
  .look fun m => .upd (.chambers (m.chambers.put k (f (m.chamber k))))
def modFabric (f : Fabric → Fabric) : Act := .look fun m => .upd (.fabric (f m.fabric))
def modTrust (f : Trust → Trust) : Act := .look fun m => .upd (.trust (f m.trust))
def modVolosh (f : Volosh → Volosh) : Act := .look fun m => .upd (.volosh (f m.volosh))
def modRst (f : Reset → Reset) : Act := .look fun m => .upd (.rst (f m.rst))
def modPins (f : Pins → Pins) : Act := .look fun m => .upd (.pins (f m.pins))
def emit (o : Out) : Act := .upd (.out o)

/-! ### Register fields -/

/-- A field of a register takes a value. -/
def setF (off : Nat) (f : Fld) (v : Nat) : Act := .look fun m => .upd (.reg off (putBits (m.reg off) f.lo f.w v))

/-- A count in a field grows and holds at its largest value. -/
def bumpSat (off : Nat) (f : Fld) (n : Nat) : Act := .look fun m => setF off f (min (2 ^ f.w - 1) (m.fld off f + n))

/-- A count in a field grows and wraps. -/
def bumpWrap (off : Nat) (f : Fld) (n : Nat) : Act := .look fun m => setF off f (m.fld off f + n)

/-- A register with no field of its own: all 64 bits. -/
def allBits : Fld := ⟨0, 64⟩

/-! ### Numbering (R15) -/

/-- Dies as `TH_DIE` numbers them (R450). -/
def memDie (m : Nat) : Nat := 8 + m
def ioDie (i : Nat) : Nat := 12 + i
def mgmtDie : Nat := 20
def accDie : Nat := 21

def dieOf (t : Nat) : Nat := t / 150
def sorusOf (t : Nat) : Nat := t / 6 % 25
def gsorusOf (t : Nat) : Nat := t / 6
def coreOf (t : Nat) : Nat := t % 6

/-- The thalli of a global sorus. -/
def thalliOf (g : Nat) : List Nat := (List.range 6).map fun p => 6 * g + p

def thReg (t : Nat) : Nat := CD_THALLUS_STATE (dieOf t) (sorusOf t) (coreOf t)
def sorusReg (g : Nat) : Nat := CD_SORUS_STATE (g / 25) (g % 25)

/-- Registers of a stack by its module-wide number. -/
def stackReg (s : Nat) : Nat := MS_STACK_STATE (s / 8) (s % 8)
def stackEccReg (s : Nat) : Nat := MS_STACK_ECC (s / 8) (s % 8)

/-- The memory-side die that holds a counter (R15). -/
def counterDie (c : Nat) : Nat := c / 1024

/-- The state of a die in `MOD_DIE_STATE` (R44): 0 absent, 1 isolated, 2 joining, 3 running. -/
def Mod.dieState (m : Mod) (n : Nat) : Nat := bitsOf (m.reg MOD_DIE_STATE) (2 * n) 2
def Mod.dieRuns (m : Mod) (n : Nat) : Bool := m.dieState n = 3

/-! ### Pools (R285, R289) -/

/-- The die that holds a pool's unit, where the index is one (R285). -/
def poolDie (i : Nat) : Option Nat :=
  if i < 0x1000 then some (8 + i / 1024)
  else if i < 0x1200 then some (12 + (i - 0x1000) / 64)
  else if i < 0x1240 then some (12 + (i - 0x1200) / 8)
  else if i < 0x1250 then some (12 + (i - 0x1240) / 2)
  else if i < 0x1270 then some (8 + (i - 0x1250) / 8)
  else if i < 0x1278 then some (i - 0x1270)
  else if i < 0x1280 then none
  else if i < 0x12C0 then some (12 + (i - 0x1280) / 8)
  else if i < 0x12C4 then some (8 + (i - 0x12C0))
  else if 0x12C8 ≤ i ∧ i < 0x12D0 then some (12 + (i - 0x12C8))
  else none

/-- A pool whose unit's die runs; any other is frozen (R289). -/
def Mod.poolRuns (m : Mod) (i : Nat) : Bool := (poolDie i).any m.dieRuns

/-- The counts of a pool change with an event; those of a frozen pool do not. -/
def modPool (i : Nat) (f : Pool → Pool) : Act := .look fun m => onlyIf (m.poolRuns i) (.upd (.pool i (f (m.pool i))))

/-! ### Paths, details and records (R514–R518, R554) -/

/-- DPATH of the compute branch, `depth` levels below the module (R515). -/
def dpCompute (depth d s p fr : Nat) : Word :=
  BitVec.ofNat 64 (1 + 16 * depth + d % 8 * 2 ^ 8 + s % 32 * 2 ^ 11 + p % 8 * 2 ^ 16 + fr % 4 * 2 ^ 19)

/-- DPATH of the memory branch. -/
def dpMemory (depth mdie stack ch bank row : Nat) : Word :=
  BitVec.ofNat 64 (2 + 16 * depth + mdie % 4 * 2 ^ 8 + stack % 32 * 2 ^ 10 + ch % 8 * 2 ^ 15 + bank % 16 * 2 ^ 18 +
    row % 2 ^ 18 * 2 ^ 22)

/-- DPATH of the fabric branch. -/
def dpFabric (depth mid io port lane : Nat) : Word :=
  BitVec.ofNat 64 (3 + 16 * depth + mid % 2 ^ 14 * 2 ^ 8 + io % 8 * 2 ^ 22 + port % 64 * 2 ^ 25 + lane % 32 * 2 ^ 31)

/-- DPATH that names no branch. -/
def dpNone : Word := 0

/-- MPATH (R515): level, die, domain, domain index, sensor or line. -/
def mpath (level die domain idx sens : Nat) : Word :=
  BitVec.ofNat 64 (level % 8 + die % 32 * 2 ^ 3 + domain % 4 * 2 ^ 8 + idx % 256 * 2 ^ 10 + sens % 256 * 2 ^ 18)

/-- MPATH of trusted firmware, of a die's steward, of a domain controller. -/
def mpTfw : Word := mpath 1 mgmtDie 0 0 0
def mpSteward (die : Nat) : Word := mpath 2 die 0 0 0
def mpSorus (g : Nat) : Word := mpath 3 (g / 25) 0 g 0
def mpStack (s : Nat) : Word := mpath 3 (memDie (s / 8)) 1 s 0
def mpPort (p : Nat) : Word := mpath 3 (ioDie (p / 8)) 2 p 0
def mpFeed (f : Nat) : Word := mpath 3 mgmtDie 3 f 0

/-- DETAIL bytes 32–63 from (byte, width, value), counted as R514 counts them. -/
def detail (fs : List (Nat × Nat × Nat)) : BitVec 256 :=
  BitVec.ofNat 256 (layNat (fs.map fun f => (f.1 - 32, f.2)))

/-- Class codes of R514. -/
def clsTransient : Nat := 0
def clsLasting : Nat := 1
def clsPending : Nat := 2
def clsUnknown : Nat := 3

/-- What beside its class decides the severity of a record (R517): a warning, or one of the critical ones. -/
inductive Grade where
  | plain | warning | critical
  deriving DecidableEq, Repr

/-- SEVERITY of a record (R517). -/
def severity (code cls : Nat) (g : Grade) : Nat :=
  if g = .critical then 4
  else if code / 256 = 0x10 then (if code = 0x1002 ∧ cls = clsLasting then 3 else 1)
  else if g = .warning then 2
  else if cls = clsUnknown then 2
  else if cls = clsLasting then 3
  else 1

/-- The queues of R518: a die's own, and those of the sorus, stack and port controllers. -/
def qDie (n : Nat) : Nat := n
def qSorus (g : Nat) : Nat := 32 + g
def qStack (s : Nat) : Nat := 256 + s
def qPort (p : Nat) : Nat := 512 + p

/-- The die whose `ER_QUEUE` shows a queue's overflows (R518). -/
def queueDie (q : Nat) : Nat :=
  if q < 32 then q else if q < 256 then (q - 32) / 25 else if q < 512 then memDie ((q - 256) / 8)
  else ioDie ((q - 512) / 8)

/-- How many records a queue holds (R518). -/
def queueCap (q : Nat) : Nat := if q < 32 then 64 else 8

/-- A record enters a local queue, or is counted where the queue is full (R31, R518). -/
def pushRec (q : Nat) (r : Rec) : Act := .look fun m =>
  let x := m.queue q
  if x.recs.length < queueCap q then
    acts [.upd (.queues (m.queues.put q { x with recs := x.recs ++ [r] })),
      onlyIf (decide (q < 22)) (setF (ER_QUEUE q) ER_QUEUE_DEPTH (x.recs.length + 1))]
  else
    acts [.upd (.queues (m.queues.put q { x with overflow := x.overflow + 1 })),
      bumpSat (ER_QUEUE (queueDie q)) ER_QUEUE_OVERFLOWS 1]

/-- Writes an error record, stamped with the stratum value of its event (R514). -/
def record (q code cls : Nat) (g : Grade) (chamber : Option Nat) (dp mp : Word) (d : BitVec 256) : Act :=
  .look fun m => pushRec q
    { stamp := m.now, dpath := dp, mpath := mp, code := BitVec.ofNat 16 code, cls := BitVec.ofNat 2 cls,
      severity := BitVec.ofNat 3 (severity code cls g), chamber := chamber.map (BitVec.ofNat 3), seq := 0,
      detail := d }

/-- A retirement-with-record entry (R286, R554); that of a frozen pool is made as its die returns (R289). -/
def retireRecord (q pool cause amount : Nat) : Act := .look fun m =>
  onlyIf (decide (0 < amount) && m.poolRuns pool)
    (record q 0x0803 clsTransient .plain none dpNone (mpSteward (queueDie q))
      (detail [(32, 2, pool), (34, 1, cause), (40, 8, amount)]))

/-- An event that a wear score counts (R520), by its key, for the next second's update. -/
def scoreEvent (key pts : Nat) : Act := .look fun m => .upd (.scoreIn (m.scoreIn.put key (m.scoreIn.getD key 0 + pts)))

/-- Keys of the wear scores (R520): lane, port, stack, bank, sorus, laser line. -/
def scLane (p : Nat) (tx : Bool) (l : Nat) : Nat := 36 * p + (if tx then 0 else 18) + l
def scPort (p : Nat) : Nat := 3000 + p
def scStack (s : Nat) : Nat := 3100 + s
def scBank (s ch b : Nat) : Nat := 4000 + 128 * s + 16 * ch + b
def scSorus (g : Nat) : Nat := 9000 + g
def scLine (f l : Nat) : Nat := 9500 + 18 * f + l

/-! ### Wake requests (R30, R178, R435) -/

/-- DOMAIN of a sorus (R432): 0 power-gated, 1 waking, 2 clock-gated, 3 running. -/
def Mod.domain (m : Mod) (g : Nat) : Nat := m.fld (sorusReg g) CD_SORUS_STATE_DOMAIN

/-- A wake request for a sorus, stamped; dropped where the die is Isolated, and without effect where the sorus runs, is
waking or is already asked for (R30). One that arrives during a reset of the sorus is kept for its end (R509). It restarts
a stopped PLL (R435). -/
def wakeReq (g : Nat) (stamp : Word) : Act := .look fun m =>
  let d := g / 25
  let c := m.cdie d
  if m.dieState d = 1 ∨ (m.domain g ≠ 0 ∧ !c.resetting.contains (g % 25)) ∨ c.wakeReqs.any (·.1 = g % 25) then .nop
  else acts [modCDie d fun c => { c with wakeReqs := c.wakeReqs ++ [(g % 25, stamp)] },
    onlyIf (decide (m.fld (CP_COMPUTE d) CP_COMPUTE_PLL = 0))
      (acts [setF (CP_COMPUTE d) CP_COMPUTE_PLL 1, bumpWrap (CP_COMPUTE d) CP_COMPUTE_PLL_STARTS 1])]

/-- Work of the router, the load path or the release engine asks for the PLL alone (R435). -/
def wakePll (d : Nat) : Act := .look fun m =>
  onlyIf (decide (m.fld (CP_COMPUTE d) CP_COMPUTE_PLL = 0 ∧ m.dieState d ≠ 1))
    (acts [setF (CP_COMPUTE d) CP_COMPUTE_PLL 1, bumpWrap (CP_COMPUTE d) CP_COMPUTE_PLL_STARTS 1])

/-! ### Arrival counters (R245–R247) -/

/-- A wait of a counter that the counter's value meets. -/
def Wait.metBy (w : Wait) (m : Mod) (c : Nat) : Bool :=
  decide (w.counter = c ∧ w.target.toNat ≤ (m.counter c).toNat)

/-- A counter that now meets the target of a wait notifies it once, and raises the wake request of a power-gated sorus;
the notification is kept until the wait ends (R50). -/
def wakeWaiters (c : Nat) : Act := .look fun m =>
  forEach m.thalli fun e =>
    match e.2.wait with
    | some w => onlyIf (w.metBy m c) (acts [
        modThallus e.1 fun th => { th with wait := some { w with notified := true } },
        wakeReq (gsorusOf e.1) m.now])
    | none => .nop

/-- An arrival that takes STEP_CNT to a multiple of 1,024 or past it owes the shadow role that step (R525). -/
def shadowSteps (c before after : Nat) : Act := .look fun m =>
  match m.shadow with
  | none => .nop
  | some x => onlyIf (decide (x.stepCnt = c ∧ before / 1024 < after / 1024)) (.upd (.shadow (some { x with
      steps := x.steps ++ (List.range (after / 1024 - before / 1024)).map (before / 1024 + 1 + ·) })))

/-- An arrival on a counter: with the wake requests it raises (R50) and the record of a saturation (R247). The end
of a wait is an event of its own (R49). A counter that a lasting ledger fault has stopped, or whose die does not run,
takes no arrival (R288, R493). -/
def arrive (c n : Nat) : Act := .look fun m =>
  let excess := (m.counter c).toNat + n - counterMax
  if m.cntFrozen.contains c ∨ !m.dieRuns (memDie (counterDie c)) then .nop
  else acts [.upd (.arrive c n), wakeWaiters c,
    shadowSteps c (m.counter c).toNat (min counterMax ((m.counter c).toNat + n)),
    onlyIf (decide (0 < excess))
      (acts [record (qDie (memDie (counterDie c))) 0x0A02 clsLasting .plain none
          (dpMemory 1 (counterDie c) 0 0 0 0) (mpSteward (memDie (counterDie c))) (detail [(32, 2, c)]),
        retireRecord (qDie (memDie (counterDie c))) c 1 excess])]

/-- The value of a counter is retired with record, for a cause of R554; that of a memory-side die that does not run is
frozen (R27). -/
def retireCounter (c cause : Nat) : Act := .look fun m =>
  onlyIf (m.dieRuns (memDie (counterDie c))) (acts [
    .upd (.retire c),
    retireRecord (qDie (memDie (counterDie c))) c cause (m.counter c).toNat])

end Sys2Proof.Machine
end

