-- ==== Sys2Proof/Machine/Flags.lean ====
section
/-! DEFINITION. The status codes (R353), how a status becomes an exception (R98, R114), and what a failed
operation leaves in CTX_XERR (R90). -/

namespace Sys2Proof.Machine

/-! ### Statuses (R353) -/

def stOk : Nat := 0
def stPartial : Nat := 1
def stTimeout : Nat := 2
def stDenied : Nat := 3
def stUnavailable : Nat := 4
def stDataLost : Nat := 5
def stUnknown : Nat := 6
def stNeedsTransfer : Nat := 7

/-! ### Exception codes (R121) -/

def exIllegal : Nat := 1
def exAddress : Nat := 2
def exPermission : Nat := 3
def exDeadline : Nat := 4
def exDataLost : Nat := 5
def exStopped : Nat := 6

/-- The exception of a status under STAT = 0 (R114). -/
def statusException (st : Nat) : Nat :=
  if st = stDenied ∨ st = stNeedsTransfer then exPermission else exDataLost

/-- CTX_XERR and CTX_XERR_ADDR after a failed operation (R90): the first failure's status and address, then a
saturating count. -/
def noteXerr (ctx : SMap Word) (st : Nat) (addr : Word) : SMap Word :=
  let x := ctx.getD 9 0
  if bitOf x 4 then ctx.put 9 (putBits x 16 16 (min 0xFFFF (bitsOf x 16 16 + 1)))
  else (ctx.put 9 (BitVec.ofNat 64 (st % 16 + 16))).put 10 addr

end Sys2Proof.Machine
end

