-- ==== Sys2Proof/Machine/Numerics.lean ====
section
/-! DEFINITION. Arithmetic of the data types (R79, R82, R83, R100, R250, R553): every value is held exactly, and
a result is rounded once, to nearest even, keeping subnormal values. -/

namespace Sys2Proof.Machine

/-- A number as the formats name it: a magnitude `mant · 2^exp` with its sign, an infinity, or a NaN. -/
inductive FVal where
  | nan
  | inf (neg : Bool)
  | fin (neg : Bool) (mant : Nat) (exp : Int)
  deriving DecidableEq, Repr

/-- What a format does with its top exponent: IEEE infinities and NaNs; one NaN code and no infinity (E4M3);
finite throughout (E2M1). -/
inductive TopKind where
  | ieee | oneNan | finite
  deriving DecidableEq, Repr

/-- A floating-point format (R79): exponent bits, mantissa bits, bias, the use of the top exponent, default NaN
(R553). -/
structure Fmt where
  e : Nat
  m : Nat
  bias : Nat
  top : TopKind
  dnan : Nat
  deriving DecidableEq, Repr

def fp32 : Fmt := ⟨8, 23, 127, .ieee, 0x7FC00000⟩
def bf16 : Fmt := ⟨8, 7, 127, .ieee, 0x7FC0⟩
def fp16 : Fmt := ⟨5, 10, 15, .ieee, 0x7E00⟩
def e4m3 : Fmt := ⟨4, 3, 7, .oneNan, 0x7F⟩
def e5m2 : Fmt := ⟨5, 2, 15, .ieee, 0x7E⟩
def e2m1 : Fmt := ⟨2, 1, 1, .finite, 0⟩

/-- Bits of a format. -/
def Fmt.width (f : Fmt) : Nat := 1 + f.e + f.m

/-- The value of a bit pattern (R79). -/
def Fmt.decode (f : Fmt) (b : Nat) : FVal :=
  let neg := b / 2 ^ (f.e + f.m) % 2 = 1
  let ex := b / 2 ^ f.m % 2 ^ f.e
  let fr := b % 2 ^ f.m
  let top := 2 ^ f.e - 1
  if ex = top ∧ f.top = .ieee then (if fr = 0 then .inf neg else .nan)
  else if ex = top ∧ f.top = .oneNan ∧ fr = 2 ^ f.m - 1 then .nan
  else if ex = 0 then .fin neg fr (1 - (f.bias : Int) - f.m)
  else .fin neg (2 ^ f.m + fr) ((ex : Int) - f.bias - f.m)

/-- The code of the largest finite magnitude. -/
def Fmt.maxCode (f : Fmt) : Nat :=
  match f.top with
  | .ieee => (2 ^ f.e - 1) * 2 ^ f.m - 1
  | .oneNan => 2 ^ (f.e + f.m) - 2
  | .finite => 2 ^ (f.e + f.m) - 1

/-- What a result beyond the largest finite value becomes: an infinity, the largest finite value, or the NaN. -/
inductive Over where
  | inf | sat | nan
  deriving DecidableEq, Repr

/-- The nearest integer to `n / 2^k`, ties to even. -/
def roundShift (n k : Nat) : Nat :=
  let q := n / 2 ^ k
  let r := n % 2 ^ k
  if 2 * r > 2 ^ k ∨ (2 * r = 2 ^ k ∧ q % 2 = 1) then q + 1 else q

/-- The code of a finite magnitude rounded to nearest even; it may lie beyond the largest finite one. -/
def Fmt.roundMag (f : Fmt) (mant : Nat) (exp : Int) : Nat :=
  if mant = 0 then 0
  else
    let qmin : Int := 1 - (f.bias : Int) - f.m
    let q := max (exp + (Nat.log2 mant : Int) - f.m) qmin
    let r := if exp ≥ q then mant * 2 ^ (exp - q).toNat else roundShift mant (q - exp).toNat
    (q - qmin).toNat * 2 ^ f.m + r

/-- The sign bit of a format. -/
def Fmt.signBit (f : Fmt) (neg : Bool) : Nat := if neg then 2 ^ (f.e + f.m) else 0

/-- The pattern of a value, rounded once; a NaN is the default NaN (R553). -/
def Fmt.encode (f : Fmt) (o : Over) : FVal → Nat
  | .nan => f.dnan
  | .inf neg =>
    match o with
    | .inf => f.signBit neg + (if f.top = .ieee then (2 ^ f.e - 1) * 2 ^ f.m else f.maxCode)
    | .sat => f.signBit neg + f.maxCode
    | .nan => f.dnan
  | .fin neg mant exp =>
    let c := f.roundMag mant exp
    if c ≤ f.maxCode then f.signBit neg + c
    else match o with
      | .inf => f.signBit neg + (if f.top = .ieee then (2 ^ f.e - 1) * 2 ^ f.m else f.maxCode)
      | .sat => f.signBit neg + f.maxCode
      | .nan => f.dnan

/-- A magnitude as an integer number of units `2^e`. -/
def scaleTo (mant : Nat) (exp e : Int) : Nat := mant * 2 ^ (exp - e).toNat

/-- The exact sum. A sum of zero is +0 unless both are −0 (IEEE 754). -/
def FVal.add : FVal → FVal → FVal
  | .nan, _ => .nan
  | _, .nan => .nan
  | .inf a, .inf b => if a = b then .inf a else .nan
  | .inf a, .fin _ _ _ => .inf a
  | .fin _ _ _, .inf b => .inf b
  | .fin na ma ea, .fin nb mb eb =>
    let e := min ea eb
    let x := scaleTo ma ea e
    let y := scaleTo mb eb e
    if na = nb then .fin na (x + y) e
    else if x = y then .fin false 0 e
    else if x > y then .fin na (x - y) e
    else .fin nb (y - x) e

def FVal.neg : FVal → FVal
  | .nan => .nan
  | .inf a => .inf (!a)
  | .fin n m e => .fin (!n) m e

/-- The exact product; infinity times zero is NaN (R82). -/
def FVal.mul : FVal → FVal → FVal
  | .nan, _ => .nan
  | _, .nan => .nan
  | .inf a, .inf b => .inf (a != b)
  | .inf a, .fin n m _ => if m = 0 then .nan else .inf (a != n)
  | .fin n m _, .inf b => if m = 0 then .nan else .inf (n != b)
  | .fin na ma ea, .fin nb mb eb => .fin (na != nb) (ma * mb) (ea + eb)

/-- Multiplies by a power of two, exactly. -/
def FVal.scale (k : Int) : FVal → FVal
  | .nan => .nan
  | .inf a => .inf a
  | .fin n m e => .fin n m (e + k)

def FVal.isNan : FVal → Bool
  | .nan => true
  | _ => false

/-- True where the first of two numbers lies below the second; false with a NaN (R100). Zeros are equal. -/
def FVal.lt : FVal → FVal → Bool
  | .nan, _ => false
  | _, .nan => false
  | .inf a, .inf b => a && !b
  | .inf a, .fin _ _ _ => a
  | .fin _ _ _, .inf b => !b
  | .fin na ma ea, .fin nb mb eb =>
    let e := min ea eb
    let x : Int := if na then -(scaleTo ma ea e : Int) else scaleTo ma ea e
    let y : Int := if nb then -(scaleTo mb eb e : Int) else scaleTo mb eb e
    decide (x < y)

/-- Equality of two numbers; false with a NaN. -/
def FVal.eq (a b : FVal) : Bool := !a.isNan && !b.isNan && !a.lt b && !b.lt a

def FVal.negative : FVal → Bool
  | .nan => false
  | .inf n => n
  | .fin n _ _ => n

/-- True where the first number comes first in the order that puts −0 below +0 (R100). -/
def FVal.before (a b : FVal) : Bool := a.lt b || (!b.lt a && a.negative && !b.negative)

/-- Minimum and maximum of two numbers (R100): NaN with a NaN operand, −0 below +0. -/
def FVal.min (a b : FVal) : FVal := if a.isNan || b.isNan then .nan else if b.before a then b else a
def FVal.max (a b : FVal) : FVal := if a.isNan || b.isNan then .nan else if a.before b then b else a

/-- The value of an integer. -/
def FVal.ofInt (i : Int) : FVal := .fin (decide (i < 0)) i.natAbs 0

/-- The nearest integer to a number, ties to even, held between two bounds; a NaN gives 0 (R100). -/
def FVal.toIntSat (lo hi : Int) : FVal → Int
  | .nan => 0
  | .inf n => if n then lo else hi
  | .fin n m e =>
    let r : Nat := if e ≥ 0 then m * 2 ^ e.toNat else roundShift m (-e).toNat
    let v : Int := if n then -(r : Int) else r
    Max.max lo (Min.min hi v)

/-- True for a number below zero. -/
def FVal.belowZero : FVal → Bool
  | .inf n => n
  | .fin n m _ => n && decide (m ≠ 0)
  | .nan => false

def FVal.isZero : FVal → Bool
  | .fin _ m _ => decide (m = 0)
  | _ => false

/-! ### Element types (R94) -/

/-- How a lane or an element of a type is read: a float of a format, or a two's-complement integer. -/
inductive ElTy where
  | flt (f : Fmt)
  | int (w : Nat)
  deriving DecidableEq, Repr

def ElTy.width : ElTy → Nat
  | .flt f => f.width
  | .int w => w

/-- Vector types (R94): codes 0–5; 6 and 7 only in VCVT. -/
def vecType : Nat → ElTy
  | 0 => .flt fp32
  | 1 => .flt bf16
  | 2 => .flt fp16
  | 3 => .int 32
  | 4 => .int 16
  | 5 => .int 8
  | 6 => .flt e4m3
  | _ => .flt e5m2

/-- Matrix and tile types (R94): 3 is INT8, 7 is reserved. -/
def matType : Nat → ElTy
  | 0 => .flt e4m3
  | 1 => .flt e5m2
  | 2 => .flt e2m1
  | 3 => .int 8
  | 4 => .flt bf16
  | 5 => .flt fp16
  | _ => .flt fp32

/-- The value of an element's pattern. -/
def ElTy.value : ElTy → Nat → FVal
  | .flt f, b => f.decode b
  | .int w, b => .ofInt (toSigned w b)

/-! ### Two-operand arithmetic on patterns -/

/-- One rounding to a format with IEEE overflow. -/
def rnd (f : Fmt) (v : FVal) : Nat := f.encode .inf v

def fAdd (f : Fmt) (a b : Nat) : Nat := rnd f ((f.decode a).add (f.decode b))
def fSub (f : Fmt) (a b : Nat) : Nat := rnd f ((f.decode a).add (f.decode b).neg)
def fMul (f : Fmt) (a b : Nat) : Nat := rnd f ((f.decode a).mul (f.decode b))

/-- Fused multiply-add, rounded once. -/
def fFma (f : Fmt) (a b c : Nat) : Nat := rnd f (((f.decode a).mul (f.decode b)).add (f.decode c))

/-- Sum of two elements in their type: rounded once, or wrapped (R100). -/
def elAdd : ElTy → Nat → Nat → Nat
  | .flt f, a, b => fAdd f a b
  | .int w, a, b => (a + b) % 2 ^ w

def elSub : ElTy → Nat → Nat → Nat
  | .flt f, a, b => fSub f a b
  | .int w, a, b => ofSigned w ((a : Int) - b)

def elMul : ElTy → Nat → Nat → Nat
  | .flt f, a, b => fMul f a b
  | .int w, a, b => ofSigned w (toSigned w a * toSigned w b)

def elMin : ElTy → Nat → Nat → Nat
  | .flt f, a, b => rnd f ((f.decode a).min (f.decode b))
  | .int w, a, b => if toSigned w b < toSigned w a then b else a

def elMax : ElTy → Nat → Nat → Nat
  | .flt f, a, b => rnd f ((f.decode a).max (f.decode b))
  | .int w, a, b => if toSigned w a < toSigned w b then b else a

def elLt : ElTy → Nat → Nat → Bool
  | .flt f, a, b => (f.decode a).lt (f.decode b)
  | .int w, a, b => decide (toSigned w a < toSigned w b)

def elEq : ElTy → Nat → Nat → Bool
  | .flt f, a, b => (f.decode a).eq (f.decode b)
  | .int w, a, b => decide (a % 2 ^ w = b % 2 ^ w)

def elLe (t : ElTy) (a b : Nat) : Bool := elLt t a b || elEq t a b

/-- VABS and VNEG (R100): sign-bit operations on floats, two's complement on integers. -/
def elAbs : ElTy → Nat → Nat
  | .flt f, a => a % 2 ^ (f.e + f.m)
  | .int w, a => if toSigned w a < 0 then ofSigned w (-toSigned w a) else a

def elNeg : ElTy → Nat → Nat
  | .flt f, a => if a / 2 ^ (f.e + f.m) % 2 = 1 then a - 2 ^ (f.e + f.m) else a + 2 ^ (f.e + f.m)
  | .int w, a => ofSigned w (-toSigned w a)

/-- VCVT of one element (R100): saturating to integers and to FP8, IEEE overflow to the other floats. -/
def convert (src dst : ElTy) (a : Nat) : Nat :=
  match dst with
  | .int w => ofSigned w ((src.value a).toIntSat (-(2 ^ (w - 1) : Nat)) ((2 ^ (w - 1) : Nat) - 1))
  | .flt f => f.encode (if f.e + f.m = 7 then .sat else .inf) (src.value a)

/-! ### The functions that R102 bounds

A reference value is held to 224 fraction bits, far below every bound of R102 (log 11). -/

/-- One, in fixed point. -/
def fxOne : Nat := 2 ^ 224

/-- e^y of a fixed-point y below 1. -/
def fxExp (y : Nat) : Nat :=
  ((List.range 64).foldl (fun a i =>
    let t := a.1 * y / fxOne / (i + 1)
    (t, a.2 + t)) (fxOne, fxOne)).2

/-- ln x of a fixed-point x from 1 to 2. -/
def fxLn (x : Nat) : Nat :=
  let z := (x - fxOne) * fxOne / (x + fxOne)
  2 * ((List.range 80).foldl (fun a i => (a.1 * z / fxOne * z / fxOne, a.2 + a.1 / (2 * i + 1))) (z, 0)).2

def fxLn2 : Nat := fxLn (2 * fxOne)

/-- The largest integer whose square does not exceed n, for n below 2^512. -/
def isqrt (n : Nat) : Nat :=
  (List.range 256).foldl (fun r i =>
    let x := r + 2 ^ (255 - i)
    if x * x ≤ n then x else r) 0

/-- A finite number in fixed point, rounded down. -/
def fxOf (neg : Bool) (mant : Nat) (exp : Int) : Int :=
  let e := exp + 224
  let x : Int := if neg then -(mant : Int) else mant
  if 0 ≤ e then x * 2 ^ e.toNat else x / 2 ^ (-e).toNat

/-- e^x of a fixed-point x: an infinity or zero far outside every format's range. -/
def expFx (x : Int) : FVal :=
  if (1024 * fxOne : Int) < x then .inf false
  else if x < -(1024 * fxOne : Int) then .fin false 0 0
  else
    let n := x / (fxLn2 : Int)
    .fin false (fxExp (x % (fxLn2 : Int)).toNat) (n - 224)

/-- The magnitude of x, held below 1,024. -/
def fxMag (mant : Nat) (exp : Int) : Nat :=
  if 0 < mant ∧ 10 ≤ exp + (Nat.log2 mant : Int) then 1024 * fxOne else (fxOf false mant exp).toNat

/-- e^-x of a fixed-point magnitude, in fixed point. -/
def expNeg (x : Nat) : Nat :=
  match expFx (-(x : Int)) with
  | .fin _ m e => (fxOf false m e).toNat
  | _ => 0

/-- The value of a function of R102, or of the exponential of R144 (0x80), at a finite operand: 0x20 2^x, 0x21 log2 x,
0x22 1/x, 0x23 1/√x, 0x24 tanh x, 0x25 1/(1 + e^-x). -/
def approxRef (op : Nat) : FVal → Option FVal
  | .nan => none
  | .inf neg => if op = 0x80 ∧ neg then some (.fin false 0 0) else none
  | .fin neg mant exp =>
    let mag := fxMag mant exp
    let x : Int := if neg then -(mag : Int) else mag
    let k := Nat.log2 mant
    match op with
    | 0x20 =>
      let n := x / (fxOne : Int)
      if 1024 ≤ n then some (.inf false)
      else some (.fin false (fxExp ((x % (fxOne : Int)).toNat * fxLn2 / fxOne)) (n - 224))
    | 0x21 =>
      let v : Int := (exp + k) * fxOne + (fxLn ((fxOf false mant (-(k : Int))).toNat) * fxOne / fxLn2 : Nat)
      some (.fin (decide (v < 0)) v.natAbs (-224))
    | 0x22 => some (.fin neg (2 ^ (k + 224) / mant) (-(k + 224 : Int) - exp))
    | 0x23 =>
      let odd : Int := exp % 2
      some (.fin false (isqrt (2 ^ 400 / (mant * 2 ^ odd.toNat))) (-200 - (exp - odd) / 2))
    | 0x24 =>
      let t := expNeg (2 * mag)
      some (.fin neg ((fxOne - t) * fxOne / (fxOne + t)) (-224))
    | 0x25 =>
      let t := expNeg mag
      some (.fin false ((if neg then t else fxOne) * fxOne / (fxOne + t)) (-224))
    | _ => some (expFx x)

/-- The exponent of one ulp of a format at a value. -/
def Fmt.ulpExp (f : Fmt) : FVal → Int
  | .fin _ mant exp => max (exp + (Nat.log2 mant : Int) - f.m) (1 - (f.bias : Int) - f.m)
  | _ => 0

/-- The bound of R102 for an opcode, a format and the exact value, widened by 2^-20 of itself for the reference's own
error. -/
def approxTol (op : Nat) (f : Fmt) (ref : FVal) : FVal :=
  if f.m = 23 ∧ (op = 0x24 ∨ op = 0x25) then .fin false (2 ^ 20 + 1) (-42)
  else .fin false ((if f.m = 23 ∧ op ≠ 0x22 then 2 else 1) * (2 ^ 20 + 1)) (f.ulpExp ref - 20)

/-- The value of a code where an infinity counts as the next value beyond the largest finite one. -/
def Fmt.extended (f : Fmt) (b : Nat) : FVal :=
  match f.decode b with
  | .inf neg => .fin neg (2 ^ f.m) ((2 ^ f.e - 1 : Nat) - (f.bias : Int) - f.m)
  | v => v

def FVal.magnitude : FVal → FVal
  | .nan => .nan
  | .inf _ => .inf false
  | .fin _ m e => .fin false m e

/-- True where a code lies within the bound of R102 about a reference value. -/
def withinBound (op : Nat) (f : Fmt) (ref : FVal) (b : Nat) : Bool :=
  match ref with
  | .fin _ _ _ =>
    let off := ((f.extended b).add ref.neg).magnitude
    off.lt (approxTol op f ref) || off.eq (approxTol op f ref)
  | _ => decide (f.decode b = ref)

/-- An approximate result: the code the part would give, where the bound of R102 admits it, else the reference rounded
to nearest; at an operand the table does not cover, the part's code (log 11). -/
def boundedResult (op : Nat) (f : Fmt) (v : FVal) (b : Nat) : Nat :=
  match approxRef op v with
  | none => if (f.decode b).isNan then f.dnan else b
  | some ref => if withinBound op f ref b then b else rnd f ref

/-! ### Frond arithmetic (R82) -/

/-- One accumulation step on FP32 patterns: the product is exact, the addition rounds once. -/
def macFp (s : Nat) (p : FVal) : Nat := rnd fp32 ((fp32.decode s).add p)

/-- One accumulation step on INT32 patterns, modulo 2³². -/
def macInt (s : Nat) (a b : Int) : Nat := ofSigned 32 (toSigned 32 s + a * b)

/-! ### Atomics (R111, R248–R250) -/

/-- Size in bytes of an atomic's type. -/
def atypeBytes : Nat → Nat
  | 0 => 8
  | 1 => 4
  | 2 => 8
  | 3 => 4
  | 4 => 4
  | _ => 2

def atypeIsFp (ty : Nat) : Bool := decide (4 ≤ ty)

/-- True for a pairing that R111 allows. -/
def amoLegal (op ty : Nat) : Bool := decide (op < 8 ∧ ty < 7) && (!atypeIsFp ty || decide (op = 0))

/-- The new value of a location under an atomic, on patterns of the type's width. -/
def amoNew (op ty old x cmp : Nat) : Nat :=
  let w := 8 * atypeBytes ty
  let sgn : Bool := decide (ty < 2)
  let less : Nat → Nat → Bool := fun a b => if sgn then decide (toSigned w a < toSigned w b) else decide (a < b)
  match op with
  | 0 => if ty = 4 then fAdd fp32 old x else if ty = 5 then fAdd bf16 old x
         else if ty = 6 then fAdd fp16 old x else (old + x) % 2 ^ w
  | 1 => if less x old then x else old
  | 2 => if less old x then x else old
  | 3 => old &&& x
  | 4 => old ||| x
  | 5 => old ^^^ x
  | 6 => x
  | _ => if old = cmp then x else old

end Sys2Proof.Machine
end

