-- ==== Sys2Proof/Machine/Home.lean ====
section
/-! DEFINITION. The home of a location (R231): where a local address lies, the memory-side cache, regulators, the
checks a request meets, the one retry, lost bursts, row remapping and page retirement, atomics, and the order
journal (06_memory_system.md, 07_memory_model.md). -/

namespace Sys2Proof.Machine

/-! ### Local addresses (R194, R195) -/

/-- Where a local address lies. -/
inductive Loc where
  | stack (s off : Nat)
  | tile (t off : Nat)
  | regs
  | hole
  deriving DecidableEq, Repr

/-- Bytes of a stack that hold memory: 48 GiB of its 64 GiB slot. -/
def stackBytes : Nat := 0xC00000000
/-- Populated bytes of a tile store (R57). -/
def tileBytes : Nat := 0x180000
def tileBase : Nat := 0x20000000000
def regBase : Nat := 0x3F000000000

/-- R194's map of the 52-bit local addresses. -/
def locate (a : Nat) : Loc :=
  if a < tileBase then (if a % 2 ^ 36 < stackBytes then .stack (a / 2 ^ 36) (a % 2 ^ 36) else .hole)
  else if a < tileBase + 1200 * 0x200000 then
    (if (a - tileBase) % 0x200000 < tileBytes then .tile ((a - tileBase) / 0x200000) ((a - tileBase) % 0x200000)
     else .hole)
  else if regBase ≤ a ∧ a ≤ regBase + 0x80FFFF then .regs
  else .hole

/-- The local address of a tile-store offset. -/
def tileAddr (t off : Nat) : Nat := tileBase + t * 0x200000 + off

/-- Bytes from an address to the end of the populated region it lies in. -/
def roomAt (a : Nat) : Nat :=
  match locate a with
  | .stack _ off => stackBytes - off
  | .tile _ off => tileBytes - off
  | _ => 0

/-- The parts of a stack offset (R195). -/
def colOf (o : Nat) : Nat := o / 2 ^ 5 % 64
def chanOf (o : Nat) : Nat := (o / 2 ^ 12 % 8) ^^^ (o / 2 ^ 20 % 8)
def bankOf (o : Nat) : Nat := (o / 2 ^ 11 % 2 * 8 + o / 2 ^ 15 % 8) ^^^ (o / 2 ^ 23 % 16)
def rowOf (o : Nat) : Nat := o / 2 ^ 18 % 2 ^ 18
def pageOf (o : Nat) : Nat := o / 2 ^ 21

/-- The offset that a channel, bank, row and column name: the bank and channel hashes inverted (R195). -/
def offsetOf (ch bank row col : Nat) : Nat :=
  let b := bank ^^^ (row / 2 ^ 5 % 16)
  row * 2 ^ 18 + b % 8 * 2 ^ 15 + (ch ^^^ (row / 4 % 8)) * 2 ^ 12 + b / 8 * 2 ^ 11 + col * 2 ^ 5

/-- Bursts of 32 B that a range of a stack touches, by number. -/
def burstsOf (off n : Nat) : List Nat :=
  if n = 0 then [] else (List.range ((off + n - 1) / 32 - off / 32 + 1)).map (off / 32 + ·)

/-! ### Memory-side cache (R196–R200) -/

/-- The set of a line of the 65,536 (R196): the lines of an aligned run of 65,536 have a set each, and a line and the next
never share one; what the hash makes of the bits above is free (log 14). -/
def cacheSet (line : Nat) : Nat := (line % 65536) ^^^ (2 * (Config.cacheHash (line / 65536) % 32768))

/-- True where a chamber may mark one more keep line on a die (R200). -/
def keepRoom (m : Mod) (die ch : Nat) : Bool :=
  decide ((((m.mdie die).cache.filter fun l => l.keep ∧ l.chamber = ch).length + 1) * 128 ≤
    m.fld (MS_KEEP die ch) MS_KEEP_KEEP_MIB * 2 ^ 20)

/-- The cache with the line that a miss replaces taken out (R200): for a keep access to a set of 12 keep lines, that
chamber's least recently used keep line; in a full set, else, the least recently used line that is not keep. -/
def evict (c : List MLine) (line : Nat) (keep : Bool) (ch : Nat) : List MLine :=
  if c.length < 12 then c
  else
    let same := c.filter fun l => cacheSet l.line = cacheSet line
    let keeps := same.filter (·.keep)
    let old := if keep ∧ 12 ≤ keeps.length then (keeps.filter fun l => l.chamber = ch).getLast?
      else if 16 ≤ same.length then (same.filter fun l => !l.keep).getLast? else none
    match old with
    | some v => c.filter fun l => l.line ≠ v.line
    | none => c

/-- The keep lines in the set of a line. -/
def setKeeps (c : List MLine) (line : Nat) : List MLine := c.filter fun l => l.keep ∧ cacheSet l.line = cacheSet line

/-- A keep access that misses in a set of 12 keep lines, none of its chamber, acts as default (R200). -/
def keepAllowed (c : List MLine) (line ch : Nat) : Bool :=
  decide (c.length < 12) || decide ((setKeeps c line).length < 12) ||
    (setKeeps c line).any fun l => decide (l.chamber = ch)

/-- A hit marks its line keep only while its set holds fewer than 12 keep lines (R200, log 14). -/
def keepHit (c : List MLine) (line : Nat) : Bool := decide (c.length < 12) || decide ((setKeeps c line).length < 12)

/-- KEEP_USED of a chamber (R229). -/
def keepUsed (m : Mod) (die ch : Nat) : Act :=
  setF (MS_KEEP die ch) MS_KEEP_KEEP_USED
    (((m.mdie die).cache.filter fun l => l.keep ∧ l.chamber = ch).length * 128 / 2 ^ 20)

/-- The byte that the stack itself holds: after a last-use drop, that of the burst's last write-back (R199). -/
def stackByte (m : Mod) (a : Nat) : Byte := ((m.stk (a / 2 ^ 36)).dropped.get? (a % 2 ^ 36)).getD (m.byte a)

/-- The bytes the stack itself holds under a line's dirty bursts: kept from before, or as it holds them now. -/
def keepOld (m : Mod) (line : Nat) (l : MLine) (newDirty : BitVec 4) : List Byte :=
  (List.range 128).map fun i =>
    if l.dirty.getLsbD (i / 32) then l.data.getD i 0
    else if newDirty.getLsbD (i / 32) then stackByte m (128 * line + i) else 0

/-- The cache's part of an access to one line (R197): `bursts` are those it touches; called before a write's
bytes are placed, so that a dirty burst keeps what the stack holds under it (R199). -/
def cacheLine (line : Nat) (write : Bool) (bursts : BitVec 4) (hint ch : Nat) : Act := .look fun m =>
  let stack := 128 * line / 2 ^ 36
  let die := stack / 8
  let c := (m.mdie die).cache
  let wants := decide (hint = 2) && keepRoom m die ch
  let rest := c.filter fun l => l.line ≠ line
  match c.find? fun l => l.line = line with
  | some l =>
    if hint = 3 ∧ !write then
      acts [modMDie die fun d => { d with cache := rest },
        modStk stack fun s => { s with dropped := (List.range 128).foldl (fun a i =>
          if l.dirty.getLsbD (i / 32) then a.put (128 * line % 2 ^ 36 + i) (l.data.getD i 0) else a) s.dropped },
        .look fun m => keepUsed m die l.chamber]
    else
      let keep := wants && keepHit c line
      let l' := { l with
        valid := l.valid ||| bursts
        dirty := if write then l.dirty ||| bursts else l.dirty
        keep := l.keep || keep
        chamber := if keep then ch else l.chamber
        data := if write then keepOld m line l bursts else l.data }
      acts [modMDie die fun d => { d with cache :=
          if hint = 0 ∨ hint = 2 then l' :: rest else c.map fun x => if x.line = line then l' else x },
        .look fun m => keepUsed m die ch]
  | none =>
    if hint = 1 ∨ hint = 3 then .nop
    else
      let keep := wants && keepAllowed c line ch
      let l : MLine := { line := line, valid := bursts, dirty := 0, keep := keep, chamber := ch, data := [] }
      let l' := if write then { l with dirty := bursts, data := keepOld m line l bursts } else l
      acts [modMDie die fun d => { d with cache := l' :: evict c line keep ch },
        .look fun m => keepUsed m die ch]

/-- The cache's part of an access to a range of a stack. -/
def cacheRange (a n : Nat) (write : Bool) (hint ch : Nat) : Act :=
  if n = 0 then .nop
  else forEach ((List.range ((a + n - 1) / 128 - a / 128 + 1)).map (a / 128 + ·)) fun line =>
    let lo := max a (128 * line)
    let hi := min (a + n) (128 * line + 128)
    cacheLine line write (BitVec.ofNat 4 (maskOf ((burstsOf lo (hi - lo)).map (· % 4)))) hint ch

/-- The lines of a stack leave the cache without write-back (R193, R220, R223). -/
def dropLines (stack : Nat) : Act := acts [
  modMDie (stack / 8) fun d => { d with cache := d.cache.filter fun l => 128 * l.line / 2 ^ 36 ≠ stack },
  .look fun m => forEach (List.range 8) fun k => keepUsed m (stack / 8) k]

/-- The burst is dirty in the cache. -/
def dirtyBurst (m : Mod) (stack burst : Nat) : Bool :=
  (m.mdie (stack / 8)).cache.any fun l => decide (l.line = stack * 2 ^ 29 + burst / 4) && l.dirty.getLsbD (burst % 4)

/-- A line leaves the cache without write-back (R210): each dirty burst of it is again what the stack holds. -/
def dropLine (line : Nat) : Act := .look fun m =>
  let die := 128 * line / 2 ^ 36 / 8
  match (m.mdie die).cache.find? fun l => l.line = line with
  | none => .nop
  | some l => acts [
      .upd (.mem (128 * line) ((List.range 128).map fun i =>
        if l.dirty.getLsbD (i / 32) then l.data.getD i 0 else m.byte (128 * line + i))),
      modMDie die fun d => { d with cache := d.cache.filter fun x => x.line ≠ line },
      .look fun m => keepUsed m die l.chamber]

/-- A byte of a stack as a read finds it: after a last-use drop that of its burst's dropped value or of the stack's, as
the manual does not say (R199, log 13). -/
def droppedByte (m : Mod) (s off : Nat) : Byte :=
  match (m.stk s).dropped.get? off with
  | none => m.byte (s * 2 ^ 36 + off)
  | some old => if Config.afterDrop m.freeCount (off / 32) then m.byte (s * 2 ^ 36 + off) else old

/-- The bytes a read of the home returns. A stack whose contents were not kept reads as free values (R191, log 86). -/
def homeBytes (m : Mod) (a n : Nat) : List Byte :=
  match locate a with
  | .stack s off =>
    if (m.stk s).unkept then (List.range n).map fun i => Config.unkeptByte (a + i)
    else if (m.stk s).dropped.isEmpty then memRead m.mem a n
    else (List.range n).map fun i => droppedByte m s (off + i)
  | _ => memRead m.mem a n

/-- Bytes placed at the home. A burst that a last-use drop left with two values and that the write covers in part is
read and merged, and from then on holds what it was read as (R190, R199). -/
def placeBytes (a : Nat) (bs : List Byte) : Act := .look fun m =>
  match locate a with
  | .stack s off =>
    if (m.stk s).dropped.isEmpty then .upd (.mem a bs)
    else
      let b0 := off / 32
      let n := if bs.isEmpty then 0 else (off + bs.length - 1) / 32 - b0 + 1
      acts [
        .upd (.mem (s * 2 ^ 36 + 32 * b0) ((List.range (32 * n)).map fun i => droppedByte m s (32 * b0 + i))),
        .upd (.mem a bs),
        .upd .free,
        modStk s fun x => { x with dropped := x.dropped.filter fun e => e.1 < 32 * b0 ∨ 32 * b0 + 32 * n ≤ e.1 }]
  | _ => .upd (.mem a bs)

/-- The 32 meta bits of a burst: the check bytes of the end-to-end code over its data and its offset bits [35:5] (R206,
log 87). -/
def burstMeta (m : Mod) (s burst : Nat) : BitVec 32 :=
  Config.metaBits (memRead m.mem (s * 2 ^ 36 + 32 * burst) 32) burst

/-- A stack that is accessed leaves self-refresh (R191). -/
def wakeStack (s : Nat) : Act := .look fun m =>
  onlyIf (m.stk s).selfRefresh (modStk s fun x => { x with selfRefresh := false })

/-! ### Regulators (R201–R204) -/

def regKey (die k : Nat) : Nat := 0x1250 + 8 * die + k
def Mod.regulator (m : Mod) (die k : Nat) : Regulator := (m.mdie die).regs.getD k ⟨0, 0, false⟩
def setRegulator (die k : Nat) (r : Regulator) : Act := acts [
  modMDie die fun d => { d with regs := d.regs.put k r },
  setF (MS_REG_STAT die k) MS_REG_STAT_TOKENS (r.level / 128)]

/-- True where an access of `n` bursts may be admitted: the regulator is off or its level is enough (R201). One that takes
more bursts than the level can ever hold is admitted at the full level (log 60). -/
def admits (m : Mod) (die k n : Nat) : Bool :=
  decide (8 ≤ k ∨ m.fld (MS_REG_CFG die k) MS_REG_CFG_RATE = 0 ∨
    128 * min n (32 * m.fld (MS_REG_CFG die k) MS_REG_CFG_BURST) ≤ (m.regulator die k).level)

/-- Charges an admitted access (R201, R203, R204). -/
def charge (die k n : Nat) : Act := .look fun m =>
  if 8 ≤ k ∨ m.fld (MS_REG_CFG die k) MS_REG_CFG_RATE = 0 then .nop
  else
    let r := m.regulator die k
    let spent := min r.level (128 * n)
    acts [setRegulator die k { r with level := r.level - spent, credit := r.credit - 128 * n },
      modPool (regKey die k) fun p => { p with returned := p.returned + spent }]

/-- `c` memory-side cycles of minting (R201): tokens that would lift the level above capacity are not minted. -/
def mint (die k c : Nat) : Act := .look fun m =>
  let rate := m.fld (MS_REG_CFG die k) MS_REG_CFG_RATE
  if rate = 0 then .nop
  else
    let r := m.regulator die k
    let cap := 128 * (32 * m.fld (MS_REG_CFG die k) MS_REG_CFG_BURST)
    let level := max r.level (min (r.level + rate * c) cap)
    let credit := min (r.credit + m.fld (MS_REG_CFG die k) MS_REG_CFG_FLOOR * c) (128 * 128)
    acts [setRegulator die k { r with level := level, credit := credit },
      modPool (regKey die k) fun p => { p with issued := p.issued + (level - r.level) }]

/-- The level of a regulator is removed and retired with record (R204). -/
def retireLevel (die k cause : Nat) : Act := .look fun m =>
  let r := m.regulator die k
  acts [setRegulator die k { r with level := 0, credit := 0, failed := false },
    modPool (regKey die k) fun p => { p with retired := p.retired + r.level },
    retireRecord (qDie (memDie die)) (regKey die k) cause r.level]

/-! ### Checks (R192, R209, R215, R217, R220, R288) -/

/-- The retired pages of a stack: entry and page. -/
def retiredPages (m : Mod) (s : Nat) : List (Nat × Nat) :=
  let base := MS_RETIRED (s / 8) (s % 8) 0
  m.regs.filterMap fun r =>
    if base ≤ r.1 ∧ r.1 < base + 0x1000 ∧ bitOf r.2 0 then some ((r.1 - base) / 8, bitsOf r.2 1 15) else none

/-- The valid remap entries of a stack: entry and register value. -/
def remapEntries (m : Mod) (s : Nat) : List (Nat × Word) :=
  let base := MS_REMAP (s / 8) (s % 8) 0
  m.regs.filterMap fun r =>
    if base ≤ r.1 ∧ r.1 < base + 0x800 ∧ bitOf r.2 0 then some ((r.1 - base) / 8, r.2) else none

def stackState (m : Mod) (s : Nat) : Nat := m.fld (stackReg s) MS_STACK_STATE_STATE
def stackOwner (m : Mod) (s : Nat) : Option Nat :=
  if m.flag (stackReg s) MS_STACK_STATE_OWNER_VALID then some (m.fld (stackReg s) MS_STACK_STATE_OWNER) else none

/-- True where a stack serves accesses: in service or degraded, its die running. -/
def stackServes (m : Mod) (s : Nat) : Bool :=
  m.dieRuns (memDie (s / 8)) && decide (stackState m s = 1 ∨ stackState m s = 2)

/-- The status with which a stack answers before it is accessed. `ch` is the chamber of origin, none for an access
without one (R192). -/
def stackStatus (m : Mod) (s off n : Nat) (ch : Option Nat) (write : Bool) : Nat :=
  let st := m.stk s
  let bursts := burstsOf off n
  let whole : Nat → Bool := fun b => decide (off ≤ 32 * b ∧ 32 * b + 32 ≤ off + n)
  if ch.isSome ∧ stackOwner m s ≠ ch then stDenied
  else if !stackServes m s then stUnavailable
  else if (m.regulator (s / 8) (ch.getD 8)).failed then stUnavailable
  else if (retiredPages m s).any fun p => bursts.any fun b => 32 * b / 2 ^ 21 = p.2 then stDataLost
  else if st.lost.any fun b => bursts.contains b && (!write || !whole b) then stDataLost
  else stOk

/-- The record of a request refused for chamber ownership (R192, R554). -/
def ownerRecord (s : Nat) (ch : Nat) (a : Nat) : Act := .look fun m =>
  record (qDie (memDie (s / 8))) 0x0407 clsLasting .plain (some ch) (dpMemory 2 (s / 8) s 0 0 0) (mpStack s)
    (detail [(32, 1, s), (33, 1, m.fld (stackReg s) MS_STACK_STATE_OWNER +
      (if m.flag (stackReg s) MS_STACK_STATE_OWNER_VALID then 8 else 0)), (40, 8, a)])

/-! ### Repair (R207–R217) -/

/-- A ledger request to trusted firmware (R216), in the layout of R470 without SEQ, GENERATION and CRC. -/
def ledgerReq (s kind ch bank row spare page : Nat) : Act := .look fun m =>
  modMDie (s / 8) fun d => { d with ledgerReqs := d.ledgerReqs ++ [BitVec.ofNat 512 (layNat
    [(0, 8, kind + s * 2 ^ 8 + ch * 2 ^ 13 + bank * 2 ^ 16 + row * 2 ^ 20 + spare * 2 ^ 38 + page * 2 ^ 47),
     (8, 8, m.now.toNat)])] }

/-- Refreshes RETIRED, REMAPS and LOST of a stack (R229). -/
def stackCounts (s : Nat) : Act := .look fun m => acts [
  setF (stackReg s) MS_STACK_STATE_RETIRED (retiredPages m s).length,
  setF (stackReg s) MS_STACK_STATE_REMAPS (remapEntries m s).length,
  setF (stackReg s) MS_STACK_STATE_LOST (m.stk s).lost.length]

/-- The page of a remap entry's row. -/
def entryPage (w : Word) : Nat := bitsOf w 10 18 / 8

/-- The lowest number below `n` that a list does not hold. -/
def lowestFree (n : Nat) (used : List Nat) : Option Nat := (List.range n).find? fun i => !used.contains i

/-- A page is fenced and its entries freed (R215); the 123rd page degrades the stack and a full table fails it
(R217). -/
def retirePage (s page : Nat) : Act := .look fun m =>
  if (retiredPages m s).any fun p => p.2 = page then .nop
  else
    match lowestFree 512 ((retiredPages m s).map (·.1)) with
    | none => acts [setF (stackReg s) MS_STACK_STATE_STATE 6,
        record (qDie (memDie (s / 8))) 0x0505 clsLasting .critical (stackOwner m s) (dpMemory 2 (s / 8) s 0 0 0)
          (mpStack s) (detail [(32, 1, s)]),
        ledgerReq s 5 0 0 0 0 0]
    | some e => acts [
        forEach ((remapEntries m s).filter fun r => entryPage r.2 = page) (fun r =>
          .upd (.reg (MS_REMAP (s / 8) (s % 8) r.1) 0)),
        modStk s (fun x => { x with
          lost := x.lost.filter fun b => 32 * b / 2 ^ 21 ≠ page
          remaps := x.remaps.filter fun r => entryPage r.2 ≠ page }),
        .upd (.reg (MS_RETIRED (s / 8) (s % 8) e) (BitVec.ofNat 64 (1 + 2 * page))),
        stackCounts s,
        record (qDie (memDie (s / 8))) 0x0503 clsLasting .plain (stackOwner m s) (dpMemory 2 (s / 8) s 0 0 0)
          (mpStack s) (detail [(32, 1, s), (36, 4, page), (40, 2, (retiredPages m s).length + 1)]),
        scoreEvent (scBank s (chanOf (page * 2 ^ 21)) (bankOf (page * 2 ^ 21))) 500,
        ledgerReq s 3 0 0 0 0 page,
        onlyIf (decide ((retiredPages m s).length + 1 = 123)) (acts [
          onlyIf (decide (stackState m s = 1)) (setF (stackReg s) MS_STACK_STATE_STATE 2),
          record (qDie (memDie (s / 8))) 0x0504 clsLasting .plain (stackOwner m s) (dpMemory 2 (s / 8) s 0 0 0)
            (mpStack s) (detail [(32, 1, s)]),
          scoreEvent (scStack s) 2000,
          ledgerReq s 4 0 0 0 0 0])]

/-- A burst enters the lost-burst table; with a full table its page is retired (R209). -/
def loseBurst (s b : Nat) : Act := .look fun m =>
  if (m.stk s).lost.contains b then .nop
  else if (m.stk s).lost.length < 1024 then
    acts [modStk s fun x => { x with lost := x.lost ++ [b] }, stackCounts s]
  else acts [record (qDie (memDie (s / 8))) 0x0404 clsLasting .plain (stackOwner m s)
      (dpMemory 2 (s / 8) s 0 0 0) (mpStack s) (detail [(32, 1, s)]), retirePage s (32 * b / 2 ^ 21)]

/-- A row's copy to a spare row begins: the entry becomes valid when the copy is done (R213, R214). -/
def startRemap (s e level ch bank row spare : Nat) : Act := acts [
  modStk s fun x => { x with
    spares := x.spares.put (16 * ch + bank) (spare + 1)
    remaps := x.remaps ++ [(e, BitVec.ofNat 64
      (1 + level * 2 + ch * 2 ^ 3 + bank * 2 ^ 6 + row * 2 ^ 10 + spare * 2 ^ 28))] },
  scoreEvent (scBank s ch bank) 200]

/-- What the controller does about a lasting failure in a row (R213). -/
def rowFailure (s off : Nat) : Act := .look fun m =>
  let ch := chanOf off
  let bank := bankOf off
  let row := rowOf off
  let page := pageOf off
  let es := remapEntries m s
  let fails := (es.filter fun r => entryPage r.2 = page).foldl (fun a r => a + bitsOf r.2 1 2) 0
  let mine := es.find? fun r => bitsOf r.2 3 3 = ch ∧ bitsOf r.2 6 4 = bank ∧ bitsOf r.2 10 18 = row
  let used := (m.stk s).spares.getD (16 * ch + bank) 0
  if (m.stk s).remaps.any fun r => bitsOf r.2 3 3 = ch ∧ bitsOf r.2 6 4 = bank ∧ bitsOf r.2 10 18 = row then .nop
  else if 3 ≤ fails + 1 then retirePage s page
  else match mine with
    | some (e, w) =>
      if bitsOf w 1 2 = 2 ∨ 394 ≤ used then retirePage s page else startRemap s e 2 ch bank row used
    | none =>
      match lowestFree 256 (es.map (·.1) ++ (m.stk s).remaps.map (·.1)) with
      | none => retirePage s page
      | some e => if 394 ≤ used then retirePage s page else startRemap s e 1 ch bank row used

/-- A transient or lasting memory error: counted, recorded and scored (R207). -/
def memError (s off : Nat) (lasting : Bool) : Act := .look fun m => acts [
  bumpSat (stackEccReg s) (if lasting then MS_STACK_ECC_LASTING else MS_STACK_ECC_TRANSIENT) 1,
  record (qDie (memDie (s / 8))) (if lasting then 0x0402 else 0x0401) (if lasting then clsLasting else clsTransient)
    .plain (stackOwner m s) (dpMemory 5 (s / 8) s (chanOf off) (bankOf off) (rowOf off)) (mpStack s)
    (detail [(32, 1, s), (40, 8, s * 2 ^ 36 + off)]),
  scoreEvent (scStack s) (if lasting then 100 else 5),
  onlyIf lasting (scoreEvent (scBank s (chanOf off) (bankOf off)) 100)]

/-- A read that failed twice: the burst is lost and its row is remapped (R207). -/
def readLost (s off : Nat) : Act := acts [memError s off true, loseBurst s (off / 32), rowFailure s off]

/-- An uncorrectable tile-store word or instruction fetch: counted, recorded and scored (R53, R61). -/
def sramError (t : Nat) (lasting : Bool) (addr : Nat) : Act := .look fun m => acts [
  bumpSat (CD_SRAM_ECC (dieOf t)) (if lasting then CD_SRAM_ECC_LASTING else CD_SRAM_ECC_TRANSIENT) 1,
  record (qDie (dieOf t)) (if lasting then 0x0406 else 0x0405) (if lasting then clsLasting else clsTransient) .plain
    (if m.flag (thReg t) CD_THALLUS_STATE_CHAMBER_VALID then some (m.fld (thReg t) CD_THALLUS_STATE_CHAMBER) else none)
    (dpCompute 3 (dieOf t) (sorusOf t) (coreOf t) 0) (mpSorus (gsorusOf t))
    (detail [(40, 8, addr), (48, 2, t)]),
  scoreEvent (scSorus (gsorusOf t)) (if lasting then 300 else 20)]

/-- A corrected error of a tile store or an instruction store (R53, R61); each 1,000 of a sorus count one point
(R520). -/
def sramCorrected (t : Nat) : Act := acts [
  bumpSat (CD_SRAM_ECC (dieOf t)) CD_SRAM_ECC_CORRECTED 1, scoreEvent (20000 + gsorusOf t) 1]

/-- The protected read of a tile store (R61) with the outcome the surroundings give. -/
def tileRead (t off : Nat) (e : Ecc) (k : Nat → Act) : Act :=
  match e with
  | .good => k stOk
  | .single => acts [sramCorrected t, k stOk]
  | .transient => acts [sramError t false off, k stOk]
  | .lasting => acts [sramError t true off, k stDataLost]

/-! ### Reads, writes and atomics at the home -/

/-- An error of a burst that is dirty in the cache, found as its line is read (R210): recorded at the die; a lasting one
loses the burst and drops the line. -/
def cacheError (s b : Nat) (lasting : Bool) : Act := .look fun m => acts [
  record (qDie (memDie (s / 8))) (if lasting then 0x0402 else 0x0401) (if lasting then clsLasting else clsTransient)
    .plain (stackOwner m s) (dpMemory 1 (s / 8) 0 0 0 0) (mpSteward (memDie (s / 8)))
    (detail [(32, 1, s), (40, 8, s * 2 ^ 36 + 32 * b)]),
  onlyIf lasting (acts [loseBurst s b, dropLine (s * 2 ^ 29 + b / 4)])]

/-- A burst that was uncorrectable on its first read: good or lost on its one retry (R207, R210). -/
def burstError (s b : Nat) (lasting : Bool) : Act := .look fun m =>
  if dirtyBurst m s b then cacheError s b lasting
  else if lasting then readLost s (32 * b) else memError s (32 * b) false

/-- The burst of a range that an error strikes (log 63). -/
def struckBurst (m : Mod) (off n : Nat) : Nat :=
  match burstsOf off n with
  | [] => off / 32
  | [b] => b
  | b :: l => (b :: l).getD (Config.struckBurst m.freeCount (l.length + 1) % (l.length + 1)) b

/-- A read applied at the home (R190–R192, R207, R209), with the burst that an error strikes: status and bytes go to `k`. -/
def homeReadAt (b : Nat) (a n : Nat) (ch : Option Nat) (hint : Nat) (e : Ecc) (k : Nat → List Byte → Act) : Act :=
  .look fun m =>
  match locate a with
  | .stack s off =>
    let st := if roomAt a < n then stDenied else stackStatus m s off n ch false
    if st = stDenied then acts [ownerRecord s (ch.getD 0) a, k st []]
    else if st ≠ stOk then k st []
    else
      let deliver : Act := .look fun m =>
        let bs := homeBytes m a n
        acts [onlyIf (!(m.stk s).dropped.isEmpty) (.upd .free), cacheRange a n false hint (ch.getD 8), k stOk bs]
      acts [wakeStack s,
        match e with
        | .good => deliver
        | .single => acts [bumpSat (stackEccReg s) MS_STACK_ECC_CORRECTED 1, deliver]
        | .transient => acts [.upd .free, burstError s b false, deliver]
        | .lasting => acts [.upd .free, burstError s b true, k stDataLost []]]
  | .tile t off =>
    if roomAt a < n then k stDenied []
    else if !m.dieRuns (dieOf t) then k stUnavailable []
    else tileRead t off e fun st => .look fun m => k st (if st = stOk then memRead m.mem a n else [])
  | _ => k stDenied []

/-- A read applied at the home; an error strikes one of its bursts. -/
def homeRead (a n : Nat) (ch : Option Nat) (hint : Nat) (e : Ecc) (k : Nat → List Byte → Act) : Act := .look fun m =>
  homeReadAt (struckBurst m (a % 2 ^ 36) n) a n ch hint e k

/-- The first byte of a range whose access fails (R114): its own first byte where the whole range is refused, else the
first byte in a burst that is lost, or `b` where an error strikes that burst now. -/
def failingByte (m : Mod) (a n : Nat) (ch : Option Nat) (write : Bool) (b : Option Nat) : Nat :=
  match locate a with
  | .stack s off =>
    let part : Nat → Nat × Nat := fun x => (max off (32 * x), min (off + n) (32 * x + 32))
    let bad := (burstsOf off n).find? fun x =>
      decide (b = some x) || decide (stackStatus m s (part x).1 ((part x).2 - (part x).1) ch write ≠ stOk)
    a - off + ((bad.map fun x => (part x).1).getD off)
  | _ => a

/-- A write applied at the home; `e` is the outcome of the stack's link check (R208), which strikes its first burst. -/
def homeWrite (a : Nat) (bs : List Byte) (ch : Option Nat) (hint : Nat) (e : Ecc) (k : Nat → Act) : Act :=
  .look fun m =>
  match locate a with
  | .stack s off =>
    let st := if roomAt a < bs.length then stDenied else stackStatus m s off bs.length ch true
    if st = stDenied then acts [ownerRecord s (ch.getD 0) a, k st]
    else if st ≠ stOk then k st
    else acts [
      wakeStack s,
      (match e with
       | .good => .nop
       | .single => bumpSat (stackEccReg s) MS_STACK_ECC_CORRECTED 1
       | .transient => memError s off false
       | .lasting => acts [memError s off true, rowFailure s off]),
      cacheRange a bs.length true hint (ch.getD 8),
      placeBytes a bs,
      onlyIf (!(m.stk s).lost.isEmpty) (acts [modStk s (fun x =>
        { x with lost := x.lost.filter fun b => !(burstsOf off bs.length).contains b }), stackCounts s]),
      k stOk]
  | .tile t _ =>
    if roomAt a < bs.length then k stDenied
    else if !m.dieRuns (dieOf t) then k stUnavailable
    else acts [placeBytes a bs, k stOk]
  | _ => k stDenied

/-- Whether an operation on device memory passes through the sump (R359), and its entry and counts (R360). -/
def sumpTouch (a : Nat) : Act := .look fun m =>
  match locate a with
  | .stack s _ =>
    let die := s / 8
    let line := a / 128
    let sm := (m.mdie die).sump
    if sm.any (·.line = line) then bumpWrap (RM_SUMP_STAT die) RM_SUMP_STAT_UPDATES 1
    else if sm.length < 256 then acts [
      modMDie die fun d => { d with sump := d.sump ++ [⟨line, 0⟩] },
      modPool (0x12C0 + die) fun p => { p with issued := p.issued + 1 },
      bumpWrap (RM_SUMP_STAT die) RM_SUMP_STAT_UPDATES 1]
    else bumpSat (RM_SUMP_STAT die) RM_SUMP_STAT_FALLBACK 1
  | _ => .nop

/-- A sump entry is written back with the default hint and freed (R359). -/
def sumpFree (die line : Nat) : Act := .look fun m =>
  if (m.mdie die).sump.any (·.line = line) then acts [
    cacheLine line true 0xF 0 8,
    modMDie die fun d => { d with sump := d.sump.filter fun x => x.line ≠ line },
    modPool (0x12C0 + die) fun p => { p with returned := p.returned + 1 }]
  else .nop

/-- The sump entries of a stack are written back and freed. -/
def sumpFlush (stack : Nat) : Act := .look fun m =>
  forEach ((m.mdie (stack / 8)).sump.filter fun x => 128 * x.line / 2 ^ 36 = stack) fun x => sumpFree (stack / 8) x.line

/-- An atomic applied at the home (R248): its read and its write together; `k` takes the status and old value. -/
def homeAmo (a op ty : Nat) (x cmp : Word) (ch : Option Nat) (hint : Nat) (e : Ecc) (k : Nat → Nat → Act) : Act :=
  let n := atypeBytes ty
  homeRead a n ch hint e fun st bs =>
    if st ≠ stOk then k st 0
    else
      let old := leNat bs
      let new := amoNew op ty old (x.toNat % 2 ^ (8 * n)) (cmp.toNat % 2 ^ (8 * n))
      acts [sumpTouch a, homeWrite a (leBytes n new) ch hint .good fun st2 => k st2 old]

/-! ### The order journal (R225–R228) -/

/-- The die, if any, whose journal of a chamber an operation at an address concerns. -/
def journalDie (a : Nat) : Option Nat :=
  match locate a with
  | .stack s _ => some (s / 8)
  | _ => none

/-- True for an operation that the MODE of a journal selects (R225): `op` is the AOP code, or 8 for a store. -/
def jnlMatch (mode op ty : Nat) : Bool :=
  decide ((mode = 1 ∧ op < 8 ∧ 4 ≤ ty) ∨ (mode = 2 ∧ op < 8) ∨ mode = 3)

def jnlFull (m : Mod) (die k : Nat) : Bool :=
  decide (2 ^ m.fld (MS_JNL_CTL die k) MS_JNL_CTL_ENTRIES_LOG2 ≤
    (m.counter (m.fld (MS_JNL_CTL die k) MS_JNL_CTL_CNT)).toNat)

/-- True where a full ring holds the operation back (R228). -/
def jnlHolds (m : Mod) (k op ty a : Nat) : Bool :=
  match journalDie a with
  | none => false
  | some die => jnlMatch (m.fld (MS_JNL_CTL die k) MS_JNL_CTL_MODE) op ty && jnlFull m die k &&
      m.flag (MS_JNL_CTL die k) MS_JNL_CTL_HOLD

/-- Writes, drops or leaves out the journal record of an operation (R226–R228). -/
def journal (k op ty a : Nat) (operand : Word) (remote : Bool) (srcMod srcT origin : Nat) : Act := .look fun m =>
  match journalDie a with
  | none => .nop
  | some die =>
    let ctl := MS_JNL_CTL die k
    if !jnlMatch (m.fld ctl MS_JNL_CTL_MODE) op ty then .nop
    else if jnlFull m die k then acts [
      bumpSat (MS_JNL_STAT die k) MS_JNL_STAT_DROPPED 1,
      onlyIf (!(m.mdie die).jnlGap.contains k) (acts [
        modMDie die (fun d => { d with jnlGap := k :: d.jnlGap }),
        record (qDie (memDie die)) 0x0401 clsTransient .plain (some k) (dpMemory 1 die 0 0 0 0) (mpSteward (memDie die))
          (detail [(32, 1, k)])])]
    else
      let n := m.fld (MS_JNL_STAT die k) MS_JNL_STAT_RECORDS
      let gap := if (m.mdie die).jnlGap.contains k then 1 else 0
      let at_ := m.fld (MS_JNL_BASE die k) MS_JNL_BASE_BASE + 32 * (n % 2 ^ m.fld ctl MS_JNL_CTL_ENTRIES_LOG2)
      let body := leBytes 32 (layNat [(0, 8, m.now.toNat),
        (8, 8, a + op * 2 ^ 52 + ty * 2 ^ 56 + (if remote then 2 ^ 59 else 0) + gap * 2 ^ 60),
        (16, 8, operand.toNat), (24, 8, srcMod + srcT * 2 ^ 14 + origin % 2 ^ 24 * 2 ^ 32)])
      acts [homeWrite at_ body (some k) 1 .good (fun _ => .nop),
        modMDie die (fun d => { d with jnlGap := d.jnlGap.filter (· ≠ k) }),
        bumpWrap (MS_JNL_STAT die k) MS_JNL_STAT_RECORDS 1, arrive (m.fld ctl MS_JNL_CTL_CNT) 1]

end Sys2Proof.Machine
end

