-- ==== Sys2Proof/Machine/Stage.lean ====
section
/-! DEFINITION. A stage on a thallus: its registers (R87), its launch entry (R172), the near cache (R54, R234),
stage faults (R183) and taking an exception (R121–R125). -/

namespace Sys2Proof.Machine

/-! ### Registers of a thallus (R87) -/

/-- s0 reads as zero. -/
def Thallus.sget (th : Thallus) (r : Nat) : Word := if r = 0 then 0 else th.sregs.getD r 0
/-- A write to s0 is discarded. -/
def Thallus.sset (th : Thallus) (r : Nat) (v : Word) : Thallus :=
  if r = 0 then th else { th with sregs := SMap.set 0 th.sregs r v }
def Thallus.vget (th : Thallus) (r : Nat) : BitVec 1024 := th.vregs.getD r 0
def Thallus.vset (th : Thallus) (r : Nat) (v : BitVec 1024) : Thallus := { th with vregs := SMap.set 0 th.vregs r v }
/-- p0 reads as all ones. -/
def Thallus.pget (th : Thallus) (r : Nat) : BitVec 128 := if r = 0 then BitVec.allOnes 128 else th.pregs.getD r 0
/-- A write to p0 is discarded. -/
def Thallus.pset (th : Thallus) (r : Nat) (v : BitVec 128) : Thallus :=
  if r = 0 then th else { th with pregs := SMap.set 0 th.pregs r v }
def Thallus.frond (th : Thallus) (f : Nat) : Frond := th.fronds.getD f Frond.init
def Thallus.setFrond (th : Thallus) (f : Nat) (x : Frond) : Thallus := { th with fronds := th.fronds.put f x }

/-- The STATE of a thallus (R85). -/
def Mod.thState (m : Mod) (t : Nat) : Nat := m.fld (thReg t) CD_THALLUS_STATE_STATE
def thIdle : Nat := 0
def thRunning : Nat := 1
def thWaiting : Nat := 2
def thStopped : Nat := 3
def thAsleep : Nat := 4

def setThState (t v : Nat) : Act := setF (thReg t) CD_THALLUS_STATE_STATE v

/-- The local chamber of the running stage, if one is assigned. -/
def Mod.thChamber (m : Mod) (t : Nat) : Option Nat :=
  if m.flag (thReg t) CD_THALLUS_STATE_CHAMBER_VALID then some (m.fld (thReg t) CD_THALLUS_STATE_CHAMBER) else none
def Mod.thStage (m : Mod) (t : Nat) : Nat := m.fld (thReg t) CD_THALLUS_STATE_STAGE

/-! ### Launch entries (R172, R176) -/

/-- A word of the launch entry that a key (64·d + i) names. -/
def Mod.lword (m : Mod) (key w : Nat) : Word := m.reg (CD_LAUNCH_ENTRY (key / 64) (key % 64) w)
def setLWord (key w : Nat) (v : Word) : Act := .upd (.reg (CD_LAUNCH_ENTRY (key / 64) (key % 64) w) v)
def Mod.lstate (m : Mod) (key : Nat) : Nat := bitsOf (m.lword key 0) 0 4
def setLState (key v : Nat) : Act := .look fun m => setLWord key 0 (putBits (m.lword key 0) 0 4 v)
def lFree : Nat := 0
def lChecking : Nat := 1
def lPending : Nat := 2
def lLoading : Nat := 3
def lRunning : Nat := 4
def lEnding : Nat := 5
def Mod.launch? (m : Mod) (key : Nat) : Option Launch := (m.cdie (key / 64)).launches.get? (key % 64)
def modLaunch (key : Nat) (f : Launch → Launch) : Act := .look fun m =>
  match m.launch? key with
  | none => .nop
  | some l => modCDie (key / 64) fun c => { c with launches := c.launches.put (key % 64) (f l) }

/-- The home slot of a launch's entry. -/
def homeOf (m : Mod) (key : Nat) : Nat := ((m.launch? key).map (·.home)).getD key

/-- Every entry of a launch: its home and its satellites. -/
def entriesOf (m : Mod) (key : Nat) : List Nat :=
  let h := homeOf m key
  let sats := (((m.launch? h).map (·.satellites)).getD []).filter fun k => (m.launch? k).map (·.home) = some h
  let all := h :: sats
  if all.contains key then all else key :: all

/-- Every launch in a table, by its key. -/
def Mod.allLaunches (m : Mod) : List (Nat × Launch) :=
  (m.cdies.map fun d => d.2.launches.map fun l => (64 * d.1 + l.1, l.2)).flatten

/-- A stage faults (R183): its bit of FAULT_MASK is set in the launch's entries, the first exception code is kept,
and under FAULT_POLICY 1 the launch's other stages are to stop as for a cancel. -/
def stageFault (key st code : Nat) : Act := .look fun m =>
  let es := (entriesOf m key).filter fun k => (m.launch? k).isSome
  acts [
    forEach es fun k => .look fun m => setLWord k 15 (m.lword k 15 ||| BitVec.ofNat 64 (2 ^ st)),
    forEach es fun k => modLaunch k fun l => { l with
      exc := if m.lword k 15 = 0 then code else l.exc
      stopping := l.stopping || bitOf (m.lword key 0) 17 }]

/-! ### Near cache (R54, R55, R234) -/

/-- The lines of a thallus's near cache, by 4 · set + way. -/
def nearSet (addr : Nat) : Nat := addr / 64 % 256
def nearTag (addr : Nat) : Nat := addr / 2 ^ 14

/-- The way of a set that holds an address. -/
def nearFind (th : Thallus) (addr : Nat) : Option Nat :=
  (List.range 4).find? fun w => match th.near.get? (4 * nearSet addr + w) with
    | some l => decide (l.tag = nearTag addr)
    | none => false

/-- The replacement bits after a hit or fill of a way: bit 0 is b0, bit 1 is b1, bit 2 is b2 (R54). -/
def plruTouch (b : BitVec 3) (way : Nat) : BitVec 3 :=
  let x := b.toNat
  let b1 := if way = 0 then 1 else if way = 1 then 0 else x / 2 % 2
  let b2 := if way = 2 then 1 else if way = 3 then 0 else x / 4 % 2
  BitVec.ofNat 3 ((if way < 2 then 1 else 0) + 2 * b1 + 4 * b2)

/-- The way the replacement bits point to. -/
def plruVictim (b : BitVec 3) : Nat :=
  if b.getLsbD 0 then (if b.getLsbD 2 then 3 else 2) else (if b.getLsbD 1 then 1 else 0)

/-- The way a miss fills: the lowest-numbered invalid way, else the victim (R54). -/
def nearVictim (th : Thallus) (addr : Nat) : Nat :=
  match (List.range 4).find? (fun w => (th.near.get? (4 * nearSet addr + w)).isNone) with
  | some w => w
  | none => plruVictim (th.plru.getD (nearSet addr) 0)

/-- The local address of a line under a key of `near`. -/
def nearAddr (key : Nat) (l : NLine) : Nat := l.tag * 2 ^ 14 + key / 4 * 64

/-- The accesses that write a dirty line back, one to each burst with dirty bytes: those this thallus stored, and no
others (R234), with the default hint (R198). -/
def writeBackOf (m : Mod) (t key : Nat) (l : NLine) : List Access :=
  ((List.range 2).filter fun b => BitVec.extractLsb' (32 * b) 32 l.dirty ≠ 0).map fun b =>
    { org := .near t, kind := .patch (BitVec.extractLsb' (32 * b) 32 l.dirty) ((l.data.drop (32 * b)).take 32),
      addr := nearAddr key l + 32 * b, size := 32, hint := 0, chamber := (m.thChamber t).getD 8, cnt := none, stat := true
      tag := 0, pc := 0, word := 0, stamp := m.now, rd := 0, run := (m.thallus t).starts }

/-- A dirty line leaves for its home (R234, R235). -/
def writeBack (t key : Nat) (l : NLine) : Act := .look fun m => .upd (.flight (m.flight ++ writeBackOf m t key l))

/-- Every place where an access of the module may wait: in flight, held for tokens, a journal, a row or a retry. -/
def Mod.waiting (m : Mod) : List Access :=
  m.flight ++ (m.mdies.map fun d => d.2.held ++ d.2.jnlHeld).flatten ++
    (m.stks.map fun s => s.2.heldRow ++ s.2.retry ++ s.2.repeating).flatten

/-- True where a write-back of a thallus to the line of an address has not reached its home. -/
def writingBack (m : Mod) (t addr : Nat) : Bool :=
  m.waiting.any fun a => decide (a.org = .near t ∧ a.addr / 64 = addr / 64)

/-- Writes back the dirty lines for which `sel` holds; with `drop` they become invalid, else clean. -/
def nearClean (t : Nat) (sel : Nat → NLine → Bool) (drop : Bool) : Act := .look fun m =>
  let th := m.thallus t
  acts [forEach (th.near.filter fun e => sel e.1 e.2) (fun e => writeBack t e.1 e.2),
    modThallus t fun th => { th with near :=
      if drop then (th.near.filter fun e => !sel e.1 e.2)
      else (th.near.map fun e => if sel e.1 e.2 then (e.1, { e.2 with dirty := 0 }) else e) }]

/-! ### Exceptions (R121–R125) -/

/-- Writes the error record of an exception (R125). -/
def excRecord (t code : Nat) (pc word : Word) (st : Nat) (addr : Word) : Act := .look fun m =>
  record (qDie (dieOf t)) (0x0100 + code) (if code = exDataLost ∧ st = stUnknown then clsUnknown else clsLasting) .plain
    (m.thChamber t) (dpCompute 3 (dieOf t) (sorusOf t) (coreOf t) 0) (mpSorus (gsorusOf t))
    (detail [(32, 8, pc.toNat), (40, 8, word.toNat), (48, 2, t), (50, 1, m.thStage t), (51, 1, st),
      (52, 8, addr.toNat)])

/-- What stopping does to the thallus itself (R124): its wait is cancelled, its outstanding replies are discarded,
nothing is held; `at_` is the cycle and kind of an exception. -/
def Thallus.stop (at_ : Option (Word × StopKind)) (th : Thallus) : Thallus :=
  { th with wait := none, waitRd := [], held := none, block := none, due := [], stopped := at_ }

/-- True where an exception that falls due in the cycle in which its thallus stopped is the one that EXCEPTION takes
(R123): an instruction's over a deadline's, a late one over a precise one. -/
def StopKind.yields (old new : StopKind) : Bool :=
  match old, new with
  | .outside, .precise => true
  | .outside, .late => true
  | .precise, .late => true
  | _, _ => false

/-- A second exception in the cycle in which a thallus stopped (R123): it writes its own record. -/
def raiseSecond (old k : StopKind) (t code : Nat) (pc word : Word) (st : Nat) (addr : Word) : Act := acts [
  excRecord t code pc word st addr,
  onlyIf (old.yields k) (acts [
    setF (thReg t) CD_THALLUS_STATE_EXCEPTION code,
    .look fun m => modThallus t fun th => { th with stopped := some (m.now, k) }])]

/-- TAKING AN EXCEPTION (R121, R124): the thallus stops with its code and writes the record (code 6 writes none),
writes back its dirty near-cache lines, and its stage is marked faulted (a stop with code 6 marks nothing). A thallus
that runs no stage raises nothing; one that has stopped only an exception of the same cycle (R123). -/
def raiseAs (k : StopKind) (t code : Nat) (pc word : Word) (st : Nat) (addr : Word) : Act := .look fun m =>
  if m.thState t ≠ thRunning ∧ m.thState t ≠ thWaiting then
    (match (m.thallus t).stopped with
     | some (at_, old) => onlyIf (decide (m.thState t = thStopped ∧ at_ = m.now ∧ code ≠ exStopped))
         (raiseSecond old k t code pc word st addr)
     | none => .nop)
  else acts [
    onlyIf (decide (code ≠ exStopped)) (excRecord t code pc word st addr),
    setThState t thStopped,
    setF (thReg t) CD_THALLUS_STATE_EXCEPTION code,
    modThallus t (Thallus.stop (if code = exStopped then none else some (m.now, k))),
    .look fun m => .upd (.replies (m.replies.filter fun r => r.t ≠ t)),
    nearClean t (fun _ l => decide (l.dirty ≠ 0)) false,
    (match (m.thallus t).launch with
     | some key => onlyIf (decide (code ≠ exStopped)) (stageFault key (m.thStage t) code)
     | none => .nop)]

/-- The precise exception of an instruction, with its program counter and word. -/
def raise (t code : Nat) (pc word : Word) (st : Nat) (addr : Word) : Act := raiseAs .precise t code pc word st addr

/-- The exception of the instruction at the program counter, with no status and an address or index. -/
def fault (t code : Nat) (w : Word) (addr : Word) : Act := .look fun m => raise t code (m.thallus t).pc w 0 addr

/-- A thallus within the refill of a scalar access, which has no instruction boundary yet. -/
def inRefill (th : Thallus) : Bool :=
  match th.block with
  | some (.miss ..) => true
  | _ => false

/-- The exception of an instruction whose status returns after later ones have issued (R122): it stops the thallus at
its next instruction boundary, which a load or store under way has not reached. -/
def raiseLate (t code : Nat) (pc word : Word) (st : Nat) (addr : Word) : Act := .look fun m =>
  if inRefill (m.thallus t) then modThallus t fun th => { th with due := th.due ++ [⟨code, pc, word, st, addr⟩] }
  else raiseAs .late t code pc word st addr

/-- An instruction boundary: the exceptions that have fallen due are raised. -/
def raiseDue (t : Nat) (l : List DueExc) : Act :=
  forEach l fun x => raiseAs .late t x.code x.pc x.word x.status x.addr

/-- The thalli of the same stage of the same launch; a launch that ends lets go of its thalli. -/
def stageMates (m : Mod) (t : Nat) : List Nat :=
  (m.thalli.filter fun e => e.1 ≠ t ∧ e.2.launch = (m.thallus t).launch ∧ e.2.launch.isSome ∧
    m.thStage e.1 = m.thStage t).map (·.1)

/-- Stage start (R88): the program counter, zero registers, untagged banks, an empty near cache, undefined
accumulators, and the context registers of R90. -/
def stageStart (t key st : Nat) (entry codeLen : Nat) (ctx : SMap Word) : Act := acts [
  modThallus t fun th => { th with
    sregs := [], vregs := [], pregs := [], pc := BitVec.ofNat 64 entry, codeLen := codeLen, ctx := ctx, acc := [],
    accInt := [], starts := th.starts + 1, fronds := [], near := [], plru := [], queue := [], nextSeq := 0,
    waitRd := [], wait := none, held := none, block := none, launch := some key, branchPc := none, due := [], stopped := none },
  setThState t thRunning,
  setF (thReg t) CD_THALLUS_STATE_EXCEPTION 0,
  setF (thReg t) CD_THALLUS_STATE_STAGE st,
  .look fun m => setF (thReg t) CD_THALLUS_STATE_CHAMBER (bitsOf (m.lword key 0) 8 3),
  setF (thReg t) CD_THALLUS_STATE_CHAMBER_VALID 1]

end Sys2Proof.Machine
end

