-- ==== Sys2Proof/Machine/Operands.lean ====
section
/-! DEFINITION. The encoding of thallus instructions (R92, R93), their operand forms, the address checks of R91,
fetching and issuing (R52, R53, R122). -/

namespace Sys2Proof.Machine

/-! ### The word (R92) -/

/-- The 64-bit word of an instruction: bits [63:10], the opcode, the class. -/
def wordOf (cls op : Nat) (f : BitVec 54) : Word := f ++ (BitVec.ofNat 7 op ++ BitVec.ofNat 3 cls)

def clsOf (w : Word) : Nat := bitsOf w 0 3
def opOf (w : Word) : Nat := bitsOf w 3 7

/-! ### Fields (R93) -/

def fRd (w : Word) : Nat := bitsOf w 10 5
def fRa (w : Word) : Nat := bitsOf w 15 5
def fRb (w : Word) : Nat := bitsOf w 20 5
def fRc (w : Word) : Nat := bitsOf w 25 5
/-- IMM of SI, 44-bit signed. -/
def fImm (w : Word) : Word := (BitVec.extractLsb' 20 44 w).signExtend 64
/-- OFF of SB, 20-bit signed. -/
def fOff (w : Word) : Word := (BitVec.extractLsb' 20 20 w).signExtend 64
def fPred (w : Word) : Nat := bitsOf w 30 3
def fType (w : Word) : Nat := bitsOf w 33 3
def fType2 (w : Word) : Nat := bitsOf w 36 3
/-- IMM of VM, 24-bit signed. -/
def fVImm (w : Word) : Word := (BitVec.extractLsb' 40 24 w).signExtend 64

/-- The bits that a list of (lowest bit, width) takes. -/
def usedMask (fs : List (Nat × Nat)) : Word := fs.foldl (fun a f => a ||| fieldMask f.1 f.2) 0

/-- True where a reserved bit of an encoding is not zero (R8, R93). -/
def badBits (w : Word) (fs : List (Nat × Nat)) : Bool := decide (w &&& ~~~(usedMask ((0, 10) :: fs)) ≠ 0)

def useRd : Nat × Nat := (10, 5)
def useRa : Nat × Nat := (15, 5)
def useRb : Nat × Nat := (20, 5)
def useRc : Nat × Nat := (25, 5)
def useImm : Nat × Nat := (20, 44)

/-! ### Issue -/

/-- The meaning of an instruction word at issue on a thallus. -/
abbrev Body := Nat → Env → Word → Act

/-- A thallus that may issue: it runs, its sorus is awake, nothing waits or blocks, and its deadline has not
passed (R122). -/
def mayIssue (m : Mod) (t : Nat) : Bool :=
  let th := m.thallus t
  decide (m.thState t = thRunning) && m.dieRuns (dieOf t) && th.wait.isNone && th.block.isNone &&
    decide (m.domain (gsorusOf t) = 3) &&
    decide (th.ctx.getD 6 0 = 0 ∨ m.now.toNat < (th.ctx.getD 6 0).toNat)

/-- The opcodes that R95, R99, R103–R108, R110 and R115 define in each class; any other is an illegal instruction
(R8, R92). -/
def opDefined (w : Word) : Bool :=
  let o := opOf w
  match clsOf w with
  | 0 => decide (o ≤ 0x1B ∨ (0x20 ≤ o ∧ o ≤ 0x26) ∨ (0x28 ≤ o ∧ o ≤ 0x2B) ∨ (0x30 ≤ o ∧ o ≤ 0x39) ∨ o = 0x3C ∨
      o = 0x3E ∨ o = 0x3F)
  | 1 => decide (o ≤ 0x10 ∨ o = 0x14 ∨ o = 0x15 ∨ (0x18 ≤ o ∧ o ≤ 0x1A) ∨ (0x20 ≤ o ∧ o ≤ 0x25) ∨ o = 0x28 ∨
      (0x2C ≤ o ∧ o ≤ 0x33))
  | 2 => decide (o ≤ 1)
  | 3 => decide (o ≤ 5)
  | 4 => decide (o ≤ 4)
  | 5 => decide (o ≤ 2 ∨ o = 4 ∨ o = 5 ∨ o = 8 ∨ o = 9)
  | _ => false

/-- The word at a program counter of the stage's code, zero outside it. -/
def Thallus.wordAt (th : Thallus) (pc : Word) : Word :=
  if pc.toNat % 8 = 0 ∧ pc.toNat < 8 * th.codeLen then th.istore.getD (pc.toNat / 8) 0 else 0

/-- Fetches the word at the program counter and issues it (R52, R53): a program counter outside the fetch range or
not a multiple of 8 faults, naming the branch that led there (R97); the fetch has its outcome (R53); a word of an
undefined class or opcode there is an illegal instruction (R8); a defined word that is not the one at the program
counter does not issue. -/
def runWord (body : Body) (t : Nat) (e : Env) (w : Word) : Act := .look fun m =>
  let th := m.thallus t
  if !mayIssue m t ∨ th.held.isSome then .nop
  else if th.pc.toNat % 8 ≠ 0 ∨ 8 * th.codeLen ≤ th.pc.toNat then
    raise t exAddress (th.branchPc.getD th.pc) (th.wordAt (th.branchPc.getD th.pc)) 0 th.pc
  else
    let x := th.istore.getD (th.pc.toNat / 8) 0
    let go : Act := if opDefined x then body t e w else fault t exIllegal x 0
    if opDefined x ∧ x ≠ w then .nop
    else match e.fetch with
      | .good => go
      | .single => acts [sramCorrected t, go]
      | .transient => acts [sramError t false th.pc.toNat, go]
      | .lasting => acts [sramError t true th.pc.toNat, fault t exDataLost x th.pc]

/-- The instruction at issue cannot issue yet and is held (R112, R66, R70, R76). -/
def hold (t : Nat) (w : Word) : Act := modThallus t fun th => { th with held := some w }

/-- The instruction retires: its effect on the thallus, and the next program counter. -/
def commit (t : Nat) (f : Thallus → Thallus) : Act :=
  modThallus t fun th => { f th with pc := th.pc + 8, held := none, branchPc := none }

/-- A branch to `target`; a taken one keeps its own program counter for R97. -/
def branch (t : Nat) (target : Word) (f : Thallus → Thallus) : Act :=
  modThallus t fun th => { f th with pc := target, held := none, branchPc := some th.pc }

/-- True where a scalar register still waits for the reply of an XLD or XAMO. R112 speaks of an instruction that reads
it; that one which only writes it waits too, so that the reply cannot overwrite the later value, is the model's choice
(DESIGN CHOICE, log 88). -/
def waitsFor (th : Thallus) (rs : List Nat) : Bool := rs.any fun r => r ≠ 0 ∧ th.waitRd.any (·.1 = r)

/-- The usual frame of a body: reserved bits (R8), then scalar registers that wait for a reply, then its effect. -/
def issue (fs : List (Nat × Nat)) (regs : Word → List Nat) (k : Mod → Thallus → Nat → Env → Word → Act) : Body :=
  fun t e w => .look fun m =>
    let th := m.thallus t
    if badBits w fs then fault t exIllegal w 0
    else if waitsFor th (regs w) then hold t w
    else k m th t e w

/-! ### Address checks (R91) -/

/-- Exception with which a local region answers a thallus; none where it is allowed. `own` is true for scalar loads and
stores, which reach no other thallus's tile store (R56). -/
def regionCheck (m : Mod) (t : Nat) (own : Bool) (a : Nat) : Option Nat :=
  let th := m.thallus t
  match locate a with
  | .stack s _ => if bitOf (th.ctx.getD 3 0) s then none else some exPermission
  | .tile t' _ =>
    if t' = t then none
    else if own then some exPermission
    else if m.flag (sorusReg (gsorusOf t')) CD_SORUS_STATE_CHAMBER_VALID ∧
        m.fld (sorusReg (gsorusOf t')) CD_SORUS_STATE_CHAMBER = bitsOf (th.ctx.getD 2 0) 0 3 then none
    else some exPermission
  | .regs => some exPermission
  | .hole => some exAddress

/-- The check of a 64-bit address presented by a scalar access. -/
def scalarCheck (m : Mod) (t : Nat) (a : Word) : Option Nat :=
  if bitOf a 63 ∨ bitsOf a 52 11 ≠ 0 then some exAddress else regionCheck m t true a.toNat

/-- The check of a local address presented by a transfer. -/
def xferCheck (m : Mod) (t : Nat) (a : Word) : Option Nat :=
  if bitOf a 63 ∨ bitsOf a 52 11 ≠ 0 then some exAddress else regionCheck m t false a.toNat

/-- The check of every byte of a local range: the range lies in one populated region that is allowed; a range that
leaves its region is an address fault before anything else (R123). -/
def rangeCheck (m : Mod) (t : Nat) (a : Word) (n : Nat) : Option Nat :=
  if n = 0 then none
  else if 0 < roomAt a.toNat ∧ roomAt a.toNat < n then some exAddress
  else xferCheck m t a

/-- A tile-store offset with the row or element it names inside the populated store. -/
def tileOk (off n : Nat) : Bool := decide (off + n ≤ tileBytes)

/-- Bytes of the thallus's own tile store. -/
def Mod.tileBytes (m : Mod) (t off n : Nat) : List Byte := memRead m.mem (tileAddr t off) n

/-- The protected read of the own tile store by an instruction (R61): a word that failed twice raises data lost. -/
def ownTile (t : Nat) (e : Env) (w : Word) (off : Nat) (k : Act) : Act :=
  tileRead t (off + e.tileOff) e.tile fun st => if st = stOk then k else fault t exDataLost w (BitVec.ofNat 64 (off + e.tileOff))

end Sys2Proof.Machine
end

