-- ==== Sys2Proof/Machine/Matrix.lean ====
section
/-! DEFINITION. Fronds: the stationary banks, ganging, the order of accumulation and the matrix class (R62–R75,
R79–R83, R103–R105, R126, R127). -/

namespace Sys2Proof.Machine

/-! ### Fields of format M (R93) -/

def fMode (w : Word) : Nat := bitsOf w 10 2
def fUnit (w : Word) : Nat := bitsOf w 12 2
def fAcc (w : Word) : Nat := bitsOf w 14 2
def fSwap (w : Word) : Bool := bitOf w 16
def fZs (w : Word) : Bool := bitOf w 17
def fAtype (w : Word) : Nat := bitsOf w 18 3
def fBtype (w : Word) : Nat := bitsOf w 21 3
def fSparse (w : Word) : Nat := bitsOf w 24 2
def fRmen (w : Word) : Bool := bitOf w 26
def mRa (w : Word) : Nat := bitsOf w 28 5
def mRs (w : Word) : Nat := bitsOf w 33 5
def mRm (w : Word) : Nat := bitsOf w 38 5
def mRk (w : Word) : Nat := bitsOf w 43 5
def mBidx (w : Word) : Nat := bitsOf w 48 6

/-! ### Accumulators (R62) -/

/-- Place of element [i][n] of an accumulator. -/
def accAt (fr a i n : Nat) : Nat := (fr * 4 + a) * 256 + 16 * i + n

/-- An element of an accumulator; one not written since stage start is undefined (R62, log 10). -/
def Thallus.accGet (th : Thallus) (t idx : Nat) : Nat :=
  ((th.acc.get? idx).getD (Config.undefinedAcc t th.starts idx)).toNat

/-- The type of an accumulator: INT32 after an integer MMA, else FP32 (R107). -/
def Thallus.accIsInt (th : Thallus) (fr a : Nat) : Bool := th.accInt.getD (4 * fr + a) false

/-! ### Elements (R80) -/

/-- Bits of an element of a matrix type. -/
def matBits (ty : Nat) : Nat := (matType ty).width

/-- Element `j` of packed elements of `b` bits: FP4 elements share a byte (R80). -/
def elemOf (bs : List Byte) (b j : Nat) : Nat :=
  if b = 4 then (bs.getD (j / 2) 0).toNat / 16 ^ (j % 2) % 16
  else if b = 8 then (bs.getD j 0).toNat
  else (bs.getD (2 * j) 0).toNat + 256 * (bs.getD (2 * j + 1) 0).toNat

/-- Logical K positions of one frond: 16 dense, 32 at 2:4, 64 at 1:4 (R75). -/
def kPerFrond (sparse : Nat) : Nat := 16 * 2 ^ sparse

/-- The logical K position, within its frond, of stored element `j` of column `n` (R126). -/
def kPos (b : Bank) (sparse n j : Nat) : Nat :=
  let x := bitsOf (b.mdata.getD n 0) (2 * j) 2
  if sparse = 0 then j else if sparse = 1 then 4 * (j / 2) + x else 4 * j + x

/-- The scale byte of a stationary column as a power of two, or none for 0xFF (R81). -/
def scaleExp (s : Nat) : Option Int := if s = 0xFF then none else some ((s : Int) - 127)

/-! ### Ganging (R67) -/

/-- The fronds a matrix instruction uses. -/
def frondsOf (mode unit : Nat) : List Nat :=
  if mode = 0 then [unit] else if mode = 1 then [2 * unit, 2 * unit + 1] else [0, 1, 2, 3]

/-- For each result: the frond whose accumulator takes it, and the fronds whose columns pass into it, low K first
(R67, R69). -/
def chainsOf (mode unit : Nat) : List (Nat × List Nat) :=
  if mode = 0 then [(unit, [unit])]
  else if mode = 1 then [(2 * unit + 1, [2 * unit, 2 * unit + 1])]
  else [(1, [0, 1]), (3, [2, 3])]

/-- A pairing of operand types that R71 lists. -/
def pairOk (a b : Nat) : Bool :=
  decide ((a ≤ 1 ∧ b ≤ 1) ∨ (a = 2 ∧ b = 2) ∨ (a ≤ 1 ∧ b = 2) ∨ (a = 3 ∧ b = 3) ∨ (a = 4 ∧ b = 4) ∨ (a = 5 ∧ b = 5))

/-- The illegal combinations of R103. -/
def mmaIllegal (w : Word) (ts : Bool) : Bool :=
  let mode := fMode w
  decide (mode = 3 ∨ (mode = 1 ∧ 2 ≤ fUnit w) ∨ (mode = 2 ∧ fUnit w ≠ 0)) || !pairOk (fAtype w) (fBtype w) ||
    decide (fSparse w = 3 ∨ (fSparse w ≠ 0 ∧ fBtype w = 2) ∨ (mRs w ≠ 0 ∧ fAtype w ≠ 2)) ||
    (decide (mRm w ≠ 0) && !fRmen w) || (!ts && decide (mRk w ≠ 0 ∨ mBidx w ≠ 0))

/-! ### The computation (R82) -/

/-- One element of the result: the products of the chain's fronds in ascending stored order, each added with one
rounding, or modulo 2³² for INT8. `row` is the moving row's packed elements, `sa` its scale. -/
def dotColumn (banks : List Bank) (at_ bt sparse n : Nat) (row : List Byte) (sa : Option Int) (start : Nat) : Nat :=
  let step : Nat → Bank × Nat × Nat → Nat := fun s x =>
    let (b, base, j) := x
    let a := elemOf row (matBits at_) (base + kPos b sparse n j)
    let v := (b.vals.getD (16 * n + j) 0).toNat
    if at_ = 3 then macInt s (toSigned 8 a) (toSigned 8 v)
    else
      let p := ((matType at_).value a).mul ((matType bt).value v)
      let sb : Option Int := if bt = 2 then scaleExp (b.scales.getD n 0).toNat else some 0
      match sa, sb with
      | some x, some y => macFp s (p.scale (x + y))
      | _, _ => macFp s .nan
  let terms := (banks.zipIdx.map fun b => (List.range 16).map fun j => (b.1, b.2 * kPerFrond sparse, j)).flatten
  terms.foldl step start

/-- The banks after the swap of R64 on some fronds: active and shadow change places, tags with their tiles (R104). -/
def swapBanks (th : Thallus) (fs : List Nat) : Thallus :=
  fs.foldl (fun th f => th.setFrond f { th.frond f with active := (th.frond f).shadow, shadow := (th.frond f).active }) th

/-- The rows that a mask leaves present (R74). -/
def rowsPresent (mask : Nat) : List Nat := (List.range 16).filter fun i => !mask.testBit i

/-- The accumulators after a matrix instruction (R67–R69, R82). -/
def mmaAccs (m : Mod) (t : Nat) (th : Thallus) (w : Word) (rows : List Nat) : Thallus :=
  let at_ := fAtype w
  let a := fAcc w
  let kTot := kPerFrond (fSparse w) * (if fMode w = 0 then 1 else 2)
  let rowBytes := kTot * matBits at_ / 8
  let base := (th.sget (mRa w)).toNat
  let sbase := (th.sget (mRs w)).toNat
  (chainsOf (fMode w) (fUnit w)).foldl (fun th c =>
    let banks := c.2.map fun f => (th.frond f).active
    let new := rows.foldl (fun acc i =>
      let row := m.tileBytes t (base + i * rowBytes) rowBytes
      let sa : Option Int := if at_ = 2 then scaleExp ((m.tileBytes t (sbase + i) 1).headD 0).toNat else some 0
      (List.range 16).foldl (fun acc n =>
        let idx := accAt c.1 a i n
        let start := if fZs w then 0 else th.accGet t idx
        acc.put idx (BitVec.ofNat 32 (dotColumn banks at_ (fBtype w) (fSparse w) n row sa start))) acc) th.acc
    { th with acc := new, accInt := if rows.isEmpty then th.accInt else th.accInt.put (4 * c.1 + a) (decide (at_ = 3)) }) th

/-- An accumulator entry not yet complete: its number, plus 4 where its completion counts the instruction in
`CD_MMA_COUNT`. -/
def pendAcc (th : Thallus) (w : Word) : Thallus :=
  let cs := chainsOf (fMode w) (fUnit w)
  cs.foldl (fun th c =>
    let last := decide (some c.1 = (cs.getLast?).map (·.1))
    th.setFrond c.1 { th.frond c.1 with
      incomplete := (th.frond c.1).incomplete ++ [fAcc w + (if last then 4 else 0)] }) th

def countMma (t : Nat) : Act := bumpWrap (CD_MMA_COUNT (dieOf t)) CD_MMA_COUNT_COUNT 1

/-- True where a matrix instruction cannot issue yet: a frond is within an issue period (R71), or a swap waits for a
fill (R66). -/
def mmaWaits (th : Thallus) (w : Word) : Bool :=
  (frondsOf (fMode w) (fUnit w)).any fun f => (th.frond f).busy || (fSwap w && (th.frond f).fill.isSome)

def mFields : List (Nat × Nat) :=
  [(10, 2), (12, 2), (14, 2), (16, 1), (17, 1), (18, 3), (21, 3), (24, 2), (26, 1), (28, 5), (33, 5), (38, 5),
   (43, 5), (48, 6)]

/-- The registers a matrix instruction reads. -/
def mRegs (ts : Bool) (w : Word) : List Nat :=
  [mRa w] ++ (if fAtype w = 2 then [mRs w] else []) ++ (if fRmen w then [mRm w] else []) ++
    (if ts then [mRk w] else [])

/-- A matrix instruction that is not skipped (R103, R104). -/
def mmaRun (m : Mod) (th : Thallus) (t : Nat) (e : Env) (w : Word) : Act :=
  let fs := frondsOf (fMode w) (fUnit w)
  let base := (th.sget (mRa w)).toNat
  let sbase := (th.sget (mRs w)).toNat
  let rows := rowsPresent (if fRmen w then bitsOf (th.sget (mRm w)) 0 16 else 0)
  let rowBytes := kPerFrond (fSparse w) * (if fMode w = 0 then 1 else 2) * matBits (fAtype w) / 8
  let sw := if fSwap w then swapBanks th fs else th
  if fs.any fun f => decide ((sw.frond f).active.tag ≠ some (fBtype w, fSparse w)) then fault t exIllegal w 0
  else if base % 16 ≠ 0 ∨ tileBytes ≤ base ∨ rows.any (fun i => tileBytes < base + (i + 1) * rowBytes) then
    fault t exAddress w (BitVec.ofNat 64 base)
  else if fAtype w = 2 ∧ (sbase % 16 ≠ 0 ∨ tileBytes ≤ sbase) then fault t exAddress w (BitVec.ofNat 64 sbase)
  else
    let go : Act := acts [
      commit t fun x =>
        let x := if fSwap w then swapBanks x fs else x
        let x := mmaAccs m t x w rows
        let x := fs.foldl (fun x f => x.setFrond f { x.frond f with busy := true, mode := some (fMode w) }) x
        if rows.isEmpty then x else pendAcc x w,
      onlyIf rows.isEmpty (countMma t)]
    if rows.isEmpty then go else ownTile t e w base go

def mmaBody : Body :=
  issue mFields (mRegs false) fun m th t e w =>
    if mmaIllegal w false then fault t exIllegal w 0
    else if mmaWaits th w then hold t w
    else mmaRun m th t e w

/-- MMA.TS (R105): with bit BIDX of s[RK] set it is skipped, but for its swap; no tag check is made and no frond is
occupied. -/
def mmaTsBody : Body :=
  issue mFields (mRegs true) fun m th t e w =>
    if mmaIllegal w true then fault t exIllegal w 0
    else if mmaWaits th w then hold t w
    else if (th.sget (mRk w)).getLsbD (mBidx w) then acts [
      commit t fun x => if fSwap w then swapBanks x (frondsOf (fMode w) (fUnit w)) else x,
      countMma t]
    else mmaRun m th t e w

end Sys2Proof.Machine
end

