-- ==== Sys2Proof/Machine/Fabric.lean ====
section
/-! DEFINITION. The fabric's formats and its shared operations (08_fabric_protocol.md): flits and their CRC,
control flits, packet headers, credits and cells, routing decisions and injection. -/

namespace Sys2Proof.Machine

/-! ### Flits (R257–R262) -/

/-- One step of the CRC-16 of R258 (polynomial 0x1_8BB7), most significant bit first (log 20). -/
def crcBits : Nat → Nat → Nat
  | 0, c => c
  | n + 1, c => crcBits n (if c.testBit 15 then (2 * c % 0x10000) ^^^ 0x8BB7 else 2 * c)

/-- The CRC-16 of a byte string, initial value 0xFFFF. -/
def crc16 (bs : List Byte) : Nat := bs.foldl (fun c b => crcBits 8 (c ^^^ (b.toNat * 256))) 0xFFFF

/-- The CRC of a flit: bytes 0–63 and trailer bits [15:0]. -/
def flitCrc (payload : BitVec 512) (low : Nat) : Nat := crc16 (leBytes 64 payload.toNat ++ leBytes 2 low)

/-- Trailer fields (R258). -/
def flSeqLo (f : Flit) : Nat := bitsOf f.trailer 0 8
def flKind (f : Flit) : Nat := bitsOf f.trailer 8 2
def flLast (f : Flit) : Bool := bitOf f.trailer 10
def flNet (f : Flit) : Bool := bitOf f.trailer 11
def flVc (f : Flit) : Nat := bitsOf f.trailer 12 2
def flRpl (f : Flit) : Bool := bitOf f.trailer 14
def flCrcOk (f : Flit) : Bool := decide (bitsOf f.trailer 16 16 = flitCrc f.payload (bitsOf f.trailer 0 16))
/-- j = 4·net + vc (R259). -/
def flJ (f : Flit) : Nat := (if flNet f then 4 else 0) + flVc f

def b01 (b : Bool) : Nat := if b then 1 else 0

/-- A flit with its trailer and CRC. -/
def mkFlit (payload seqLo kind : Nat) (last net : Bool) (vc : Nat) (rpl : Bool) : Flit :=
  let low := seqLo % 256 + kind * 2 ^ 8 + b01 last * 2 ^ 10 + b01 net * 2 ^ 11 + vc % 4 * 2 ^ 12 + b01 rpl * 2 ^ 14
  let pl := BitVec.ofNat 512 payload
  ⟨pl, BitVec.ofNat 32 (low + flitCrc pl low * 2 ^ 16)⟩

/-- The same flit with another sequence number and RPL. -/
def reseal (f : Flit) (seq : Nat) (rpl : Bool) : Flit :=
  mkFlit f.payload.toNat (seq % 256) (flKind f) (flLast f) (flNet f) (flVc f) rpl

/-- The control flit a port sends now (R259). -/
def controlFlit (m : Mod) (p : Nat) (nak : Bool) : Flit :=
  let x := m.port p
  let cred := (List.range 8).foldl (fun a j => a + x.rxGranted.getD j 0 % 2 ^ 20 * 2 ^ (20 * j)) 0
  mkFlit ((x.expect + 2 ^ 24 - 1) % 2 ^ 24 + b01 nak * 2 ^ 24 + m.fld (FB_PORT_LINK p) FB_PORT_LINK_EPOCH * 2 ^ 32 +
    cred * 2 ^ 64 + x.txSeq % 2 ^ 24 * 2 ^ 224) 0 0 true false 0 false

/-! ### Packet headers (R263) -/

def hdrNat (h : Header) : Nat :=
  h.dst.toNat + h.src.toNat * 2 ^ 14 + h.chamber.toNat * 2 ^ 28 + b01 h.net * 2 ^ 44 + h.vc.toNat * 2 ^ 45 +
  h.rclass.toNat * 2 ^ 47 + h.hops.toNat * 2 ^ 49 + b01 h.passed * 2 ^ 52 + h.detour.toNat * 2 ^ 53 +
  h.rsv0.toNat * 2 ^ 55 + h.tag.toNat * 2 ^ 64 + h.stamp.toNat * 2 ^ 96 + h.op.toNat * 2 ^ 120 +
  h.len.toNat * 2 ^ 128 + h.rsv1.toNat * 2 ^ 141 + h.status.toNat * 2 ^ 144 + h.rsv2.toNat * 2 ^ 148 +
  h.opinfo.toNat * 2 ^ 160 + h.addr.toNat * 2 ^ 192

def hdrOf {k : Nat} (v : BitVec k) : Header :=
  { dst := BitVec.ofNat 14 (bitsOf v 0 14), src := BitVec.ofNat 14 (bitsOf v 14 14)
    chamber := BitVec.ofNat 16 (bitsOf v 28 16), net := bitOf v 44, vc := BitVec.ofNat 2 (bitsOf v 45 2)
    rclass := BitVec.ofNat 2 (bitsOf v 47 2), hops := BitVec.ofNat 3 (bitsOf v 49 3), passed := bitOf v 52
    detour := BitVec.ofNat 2 (bitsOf v 53 2), rsv0 := BitVec.ofNat 9 (bitsOf v 55 9)
    tag := BitVec.ofNat 32 (bitsOf v 64 32), stamp := BitVec.ofNat 24 (bitsOf v 96 24)
    op := BitVec.ofNat 8 (bitsOf v 120 8), len := BitVec.ofNat 13 (bitsOf v 128 13)
    rsv1 := BitVec.ofNat 3 (bitsOf v 141 3), status := BitVec.ofNat 4 (bitsOf v 144 4)
    rsv2 := BitVec.ofNat 12 (bitsOf v 148 12), opinfo := BitVec.ofNat 32 (bitsOf v 160 32)
    addr := BitVec.ofNat 64 (bitsOf v 192 64) }

/-- A header with every field zero. -/
def hdrZero : Header := hdrOf (0 : BitVec 256)

/-- Codes of OP on each network and VC class (R264). -/
def opValid (net : Bool) (vc op : Nat) : Bool :=
  if vc = 3 then (if net then decide (0xC0 ≤ op ∧ op ≤ 0xC3) else decide (0x80 ≤ op ∧ op ≤ 0x83))
  else if net then decide ((0x41 ≤ op ∧ op ≤ 0x47) ∨ op = 0x4F) else decide (1 ≤ op ∧ op ≤ 7)

/-- The checks that a router makes of a header (R263, R264). -/
def headerOk (h : Header) (net : Bool) (vc : Nat) : Bool :=
  decide (h.vc.toNat = vc ∧ h.net = net ∧ h.rsv0 = 0 ∧ h.rsv1 = 0 ∧ h.rsv2 = 0 ∧ h.rclass.toNat ≠ 3 ∧
    h.len.toNat ≤ 4096 ∧ h.detour.toNat ≠ 3) &&
  decide ((h.rclass.toNat = 2) = (vc = 3)) && opValid net vc h.op.toNat

/-- The flits of a packet (R262): kind, payload, LAST. -/
def packetFlits (h : Header) (data : List Byte) : List (Nat × Nat × Bool) :=
  let rest := chunks 64 65 (data.drop 32)
  (1, hdrNat h + leNat (data.take 32) * 2 ^ 256, rest.isEmpty) ::
    (rest.zipIdx.map fun c => (2, leNat c.1, decide (c.2 + 1 = rest.length)))

/-! ### Ports -/

def Mod.selfId (m : Mod) : Nat := m.fld MOD_POSITION MOD_POSITION_MODULE_ID
def Mod.linkState (m : Mod) (p : Nat) : Nat := m.fld (FB_PORT_LINK p) FB_PORT_LINK_STATE
def lkDown : Nat := 0
def lkTraining : Nat := 1
def lkUp : Nat := 2
def lkQuarantined : Nat := 3
def lkWithdrawing : Nat := 4
def lkStopped : Nat := 5
def Mod.portUp (m : Mod) (p : Nat) : Bool := decide (m.linkState p = lkUp)
/-- A port whose epoch is open (R290). -/
def Mod.portOpen (m : Mod) (p : Nat) : Bool :=
  decide (m.linkState p = lkUp ∨ m.linkState p = lkQuarantined ∨ m.linkState p = lkWithdrawing)
def setLink (p v : Nat) : Act := setF (FB_PORT_LINK p) FB_PORT_LINK_STATE v

/-- The plan entry of a port and its kind (R302). -/
def Mod.plan (m : Mod) (p : Nat) : Word := m.trust.image.plan.getD p 0
def Mod.planKind (m : Mod) (p : Nat) : Nat := bitsOf (m.plan p) 0 4

/-- DPATH of a port of this module, with a lane at depth 3. -/
def dpPort (m : Mod) (p : Nat) : Word := dpFabric 2 m.selfId (p / 8) p 0
def dpLane (m : Mod) (p l : Nat) : Word := dpFabric 3 m.selfId (p / 8) p l

/-- A record of a port's domain controller. -/
def portRecord (p code cls : Nat) (g : Grade) (fs : List (Nat × Nat × Nat)) : Act := .look fun m =>
  record (qPort p) code cls g none (dpPort m p) (mpPort p) (detail fs)

/-! ### Credits and cells (R273–R275, R285) -/

def linkPool (p j : Nat) : Nat := 0x1000 + 8 * p + j
def retryPool (p : Nat) : Nat := 0x1200 + p
def sharedPool (i net : Nat) : Nat := 0x1240 + 2 * i + net
def poolFld (net : Nat) : Fld := if net = 0 then FB_POOL_STAT_REQ_FREE else FB_POOL_STAT_RPL_FREE

/-- Credits granted and not used by an arrived flit. -/
def Port.unused (x : Port) (j : Nat) : Nat := x.rxGranted.getD j 0 - x.rxGot.getD j 0
/-- Cells that a (network, VC) of a port holds: credits out and cells occupied. -/
def Port.heldCells (x : Port) (j : Nat) : Nat := x.unused j + x.occupied.getD j 0

/-- The data VCs, by j. -/
def dataVcs : List Nat := [0, 1, 2, 4, 5, 6]

/-- Free cells of the shared part of a pool: what is free less the reserves not yet taken (R274). -/
def sharedFree (m : Mod) (i net : Nat) : Nat :=
  m.fld (FB_POOL_STAT i) (poolFld net) -
    ((List.range 8).foldl (fun a q => (List.range 3).foldl (fun b v =>
      b + (32 - (m.port (8 * i + q)).heldCells (4 * net + v))) a) 0)

/-- Grants `n` credits on j of a port: cells leave the pool (VC3's lie in the fixed region). -/
def grant (p j n : Nat) : Act :=
  if n = 0 then .nop
  else acts [
    modPort p fun x => { x with rxGranted := x.rxGranted.put j (x.rxGranted.getD j 0 + n) },
    modPool (linkPool p j) fun q => { q with issued := q.issued + n },
    onlyIf (decide (j % 4 ≠ 3)) (.look fun m => acts [
      setF (FB_POOL_STAT (p / 8)) (poolFld (j / 4)) (m.fld (FB_POOL_STAT (p / 8)) (poolFld (j / 4)) - n),
      modPool (sharedPool (p / 8) (j / 4)) fun q => { q with issued := q.issued + n }])]

/-- True where a port grants credits on j: its die runs and its epoch is open; a quarantined port and one of kind 6 grant on
VC3 only (R302, R304). -/
def mayGrant (m : Mod) (p j : Nat) : Bool :=
  m.dieRuns (ioDie (p / 8)) && m.portOpen p &&
    !decide ((m.linkState p = lkQuarantined ∨ m.planKind p = 6) ∧ j % 4 ≠ 3)

/-- The reserve of j is granted as far as cells are free (R275, point 1; R274). -/
def grantReserve (p j : Nat) : Act := .look fun m =>
  grant p j (if j % 4 = 3 then 32 - (m.port p).heldCells j
    else min (32 - (m.port p).heldCells j) (m.fld (FB_POOL_STAT (p / 8)) (poolFld (j / 4))))

/-- A block of 64 is granted to a data VC whose sender holds fewer than 64 unused credits, as far as the shared cells and the
allotment allow (R275, point 2). -/
def grantBlock (p j : Nat) : Act := .look fun m =>
  onlyIf (decide (j % 4 ≠ 3 ∧ (m.port p).unused j < 64 ∧ 64 ≤ sharedFree m (p / 8) (j / 4) ∧
    dataVcs.foldl (fun a k => a + (m.port p).heldCells k) 0 + 64 ≤ 16 * m.fld (FB_PORT_ALLOT p) FB_PORT_ALLOT_RX_KIB))
    (grant p j 64)

/-- The grants that R275 now makes on j of a port: the reserve, then a block. -/
def topUpJ (p j : Nat) : Act := .look fun m => onlyIf (mayGrant m p j) (acts [grantReserve p j, grantBlock p j])

def topUp (p : Nat) : Act := forEach (List.range 8) fun j => topUpJ p j

/-- Cells of one network of an I/O die are free again: every port of the die may be granted of them, in ascending order of
port and VC (R275; log 21). -/
def topUpDie (i net : Nat) : Act :=
  forEach (List.range 8) fun q => forEach (List.range 4) fun v => topUpJ (8 * i + q) (4 * net + v)

/-- A flit takes the cell its credit stands for. -/
def takeCell (p j : Nat) : Act := modPort p fun x => { x with
  rxGot := x.rxGot.put j (x.rxGot.getD j 0 + 1), occupied := x.occupied.put j (x.occupied.getD j 0 + 1) }

/-- Cells given back to the pool. -/
def giveBack (p j n : Nat) : Act :=
  .look fun m => onlyIf (decide (j % 4 ≠ 3 ∧ 0 < n) && m.dieRuns (ioDie (p / 8))) (acts [
    setF (FB_POOL_STAT (p / 8)) (poolFld (j / 4)) (m.fld (FB_POOL_STAT (p / 8)) (poolFld (j / 4)) + n),
    modPool (sharedPool (p / 8) (j / 4)) fun q => { q with returned := q.returned + n }])

/-- A flit leaves its cell (R275). -/
def freeCell (p j : Nat) : Act := .look fun m =>
  if (m.port p).occupied.getD j 0 = 0 then .nop
  else acts [
    modPort p fun x => { x with occupied := x.occupied.put j (x.occupied.getD j 0 - 1) },
    modPool (linkPool p j) fun q => { q with returned := q.returned + 1 },
    giveBack p j 1, topUpJ p j, topUpDie (p / 8) (j / 4)]

def freeOpt (c : Option (Nat × Nat)) : Act :=
  match c with
  | some (p, j) => freeCell p j
  | none => .nop

/-- Available credit of a sender (R275). -/
def Port.credit (x : Port) (j : Nat) : Nat := (x.granted.getD j 0 + 2 ^ 20 - x.spent.getD j 0 % 2 ^ 20) % 2 ^ 20

/-! ### Routing (R269–R272, R312, R314, R316) -/

/-- A candidate of a routing decision. -/
structure Hop where
  port : Nat
  vc : Nat
  passage : Bool
  detour : Nat
  deriving DecidableEq, Repr

def galleryOf (id : Nat) : Nat := id / 32
def slotOf (id : Nat) : Nat := id % 32

/-- Admitted ports toward a slot of the own gallery that may be candidates. -/
def galleryPorts (m : Mod) (slot : Nat) : List Nat := (m.fabric.gallery.getD slot []).filter m.portUp

/-- The VC of a gallery hop of a packet (R266). -/
def galleryVc (h : Header) : Nat := if h.passed then 2 else 0

/-- True where the hop that brought a packet here was on the VC of its next gallery hop (R267). -/
def sameVc (h : Header) : Bool := decide (h.hops ≠ 0 ∧ h.vc.toNat = galleryVc h)

/-- A gallery hop to a slot is permitted (R267): after a hop on the same VC only as the second of one detour, in the detour's
direction. -/
def mayHop (m : Mod) (h : Header) (slot : Nat) : Bool :=
  !sameVc h || (decide (h.passed = true ∨ h.hops.toNat ≤ 1) &&
    (decide (h.detour = 1 ∧ slotOf m.selfId < slot) || decide (h.detour = 2 ∧ slot < slotOf m.selfId)))

/-- Minimal continuations of a packet. -/
def minimalHops (m : Mod) (h : Header) : List Hop :=
  let g := galleryOf h.dst.toNat
  let s := slotOf h.dst.toNat
  let gv := galleryVc h
  let toSlot : Nat → List Hop := fun s =>
    if mayHop m h s then (galleryPorts m s).map fun p => ⟨p, gv, false, h.detour.toNat⟩ else []
  if 289 ≤ g then
    (((List.range 64).filter fun p => m.planKind p = 5 ∧ (m.port p).peer = some h.dst ∧ m.portUp p).map
      fun p => ⟨p, gv, false, h.detour.toNat⟩)
  else if g = galleryOf m.selfId then toSlot s
  else if h.passed then []
  else
    let all := m.fabric.passage.getD g []
    let hs := if h.rclass = 1 then all.take 1 else all
    let mine := ((hs.filter fun x => x.1 = slotOf m.selfId ∧ m.portUp x.2).map fun x => (⟨x.2, 1, true, 0⟩ : Hop))
    if !mine.isEmpty then mine
    else ((hs.filter fun x => x.1 ≠ slotOf m.selfId).map fun x => toSlot x.1).flatten

/-- The slot of the next minimal waypoint in the current gallery, and the hops the minimal route takes from there: the waypoint
of the best minimal candidate, or, where none can be taken, of the passage table's named holder. None where the next hop is a
passage taken from this module. -/
def waypoint (m : Mod) (h : Header) (best : Option Hop) : Option (Nat × Nat) :=
  let g := galleryOf h.dst.toNat
  let holder : Option (Nat × Nat) := match m.fabric.passage.getD g [] with
    | [] => none
    | x :: _ => if x.1 = slotOf m.selfId then none else some (x.1, 2)
  if 289 ≤ g then none
  else if g = galleryOf m.selfId then some (slotOf h.dst.toNat, 0)
  else if h.passed then none
  else match best with
    | none => holder
    | some a => if a.passage then none else (m.port a.port).peer.map fun id => (slotOf id.toNat, 2)

/-- The slots a detour may lead through (R270), where the packet has taken no hop on this VC in this gallery (R267). -/
def detourSlots (m : Mod) (h : Header) (best : Option Hop) : List Nat :=
  match waypoint m h best with
  | none => []
  | some (w, more) =>
    let o := slotOf m.selfId
    if h.rclass ≠ 0 ∨ h.detour ≠ 0 ∨ sameVc h ∨ 5 < h.hops.toNat + 2 + more then []
    else (List.range 32).filter fun s => ((o < s ∧ s < w) ∨ (w < s ∧ s < o)) ∧ !(galleryPorts m s).isEmpty

/-- The first of a list found by searching upward from a pointer and wrapping (R32). -/
def firstFrom (ptr : Nat) (l : List Nat) : Option Nat :=
  match l.find? fun x => ptr ≤ x with
  | some x => some x
  | none => l.head?

def hopScore (m : Mod) (net : Bool) (c : Hop) : Nat := (m.port c.port).credit ((if net then 4 else 0) + c.vc)

/-- The best candidate by score, ties by R32 with ports as requesters. -/
def bestHop (m : Mod) (net : Bool) (ptr : Nat) (cs : List Hop) : Option Hop :=
  let top := cs.foldl (fun a c => max a (hopScore m net c)) 0
  let best := cs.filter fun c => hopScore m net c = top
  let ports := (List.range 64).filter fun p => best.any fun c => c.port = p
  match firstFrom ptr ports with
  | none => none
  | some p => best.find? fun c => c.port = p

/-- A routing decision of I/O die `i` (R270–R272): the hop taken, and the rotating pointers after it. The detour is taken where it
scores more than the best minimal candidate and the bias, or where no minimal candidate is reachable. -/
def decideHop (m : Mod) (i : Nat) (h : Header) : Option Hop × Nat × Nat :=
  let d := m.iodie i
  let mins := minimalHops m h
  if h.rclass = 1 then (mins.head?, d.rotate, d.tie)
  else
    let best := bestHop m h.net d.tie mins
    let slot := firstFrom d.rotate (detourSlots m h best)
    let around : Option Hop := slot.bind fun s => bestHop m h.net d.tie ((galleryPorts m s).map fun p =>
      ⟨p, galleryVc h, false, if slotOf m.selfId < s then 1 else 2⟩)
    let hop : Option Hop := match best, around with
      | some a, some b => if hopScore m h.net a + m.fld FB_CFG FB_CFG_DETOUR_BIAS < hopScore m h.net b then some b else some a
      | some a, none => some a
      | none, b => b
    (hop, (slot.map fun s => (s + 1) % 32).getD d.rotate, (hop.map fun c => (c.port + 1) % 64).getD d.tie)

/-- A routing decision with its pointer moves; `k` takes the hop, none where no candidate is reachable. -/
def route (i : Nat) (h : Header) (k : Option Hop → Act) : Act := .look fun m =>
  let r := decideHop m i h
  acts [modIoDie i fun d => { d with rotate := r.2.1, tie := r.2.2 }, k r.1]

/-- The header after a hop (R263, R266, R270). -/
def hdrHop (h : Header) (c : Hop) : Header :=
  { h with vc := BitVec.ofNat 2 c.vc, hops := h.hops + 1, passed := h.passed || c.passage
           detour := if c.passage then 0 else BitVec.ofNat 2 c.detour }

/-! ### Output queues -/

/-- A flit joins a port's output queue. -/
def enqueue (p : Nat) (x : OutFlit) : Act := modPort p fun y => { y with outq := y.outq ++ [x] }

/-- A whole packet joins a port's output queue. -/
def enqueuePacket (p : Nat) (h : Header) (data : List Byte) (pid src : Nat) : Act :=
  forEach (packetFlits h data) fun f =>
    enqueue p ⟨mkFlit f.2.1 0 f.1 f.2.2 h.net h.vc.toNat false, pid, src, none, h.stamp, h.chamber⟩

/-- Requester of an output arbiter for what comes from I/O die `i` to a port (R36): the gateway engine of the die
itself, or the ring link upward or downward (log 21). -/
def ringSource (i p : Nat) (own : Nat) : Nat :=
  if i = p / 8 then own else if (p / 8 + 8 - i) % 8 ≤ 4 then 10 else 11

/-- The packet stream of what this module itself sends through a requester of an output arbiter (R36). -/
def ownPid (src : Nat) : Nat := 600 + src

/-- A packet of this module is injected at I/O die `i` (R270): to the module itself it goes to that die's ingress
(R331); with no candidate `fail` answers (R272). A module that withdraws injects nothing more (R294). -/
def inject (i : Nat) (h : Header) (data : List Byte) (own : Nat) (fail : Act) : Act := .look fun m =>
  if h.dst.toNat = m.selfId then modIoDie i fun d => { d with inbox := d.inbox ++ [⟨h, data⟩] }
  else if m.fabric.withdrawing ∨ m.fabric.withdrawn then .nop
  else route i h fun c =>
    match c with
    | none => fail
    | some c => enqueuePacket c.port (hdrHop h c) data (ownPid (ringSource i c.port own)) (ringSource i c.port own)

/-- A reply to a request, with its SRC, REQ_TAG and ADDR (R265, R338). A module that withdraws sends none, as a reply is a
new packet too (R294; DEDUCED, log 84). -/
def sendReply (i : Nat) (h : Header) (op status : Nat) (data : List Byte) : Act := .look fun m =>
  inject i { hdrZero with
    dst := h.src, src := h.src, chamber := h.chamber, net := true, rclass := h.rclass
    tag := h.tag, stamp := BitVec.ofNat 24 m.now.toNat, op := BitVec.ofNat 8 op
    len := BitVec.ofNat 13 data.length, status := BitVec.ofNat 4 status, addr := h.addr } data 9 .nop

/-- A VC3 packet to the neighbour of a port (R266, R307); a reply carries the SRC of its request (R265). -/
def sendVc3 (p op : Nat) (dst : Nat) (tag : BitVec 32) (status addr : Nat) (data : List Byte) : Act := .look fun m =>
  enqueuePacket p { hdrZero with
    dst := BitVec.ofNat 14 dst, src := BitVec.ofNat 14 (if 0xC0 ≤ op then dst else m.selfId)
    net := decide (0xC0 ≤ op), vc := 3, rclass := 2
    tag := tag, stamp := BitVec.ofNat 24 m.now.toNat, op := BitVec.ofNat 8 op, len := BitVec.ofNat 13 data.length
    status := BitVec.ofNat 4 status, addr := BitVec.ofNat 64 addr } data (ownPid 12) 12

/-! ### Request tags (R265) -/

/-- A request tag: its agent, and 20 bits of a serial number. -/
def reqTag (agent serial : Nat) : BitVec 32 := BitVec.ofNat 32 (agent + serial % 2 ^ 20 * 2 ^ 12)

/-- The ended tags that are within the end-to-end timeout of their end. -/
def tagsKept (m : Mod) : List (BitVec 32 × Word) :=
  m.tagsDone.filter fun x => decide (m.now.toNat < x.2.toNat + 1000 * m.fld RM_CFG RM_CFG_TIMEOUT_US)

/-- A tag may be used: no request with it is outstanding, and none ended within the timeout. -/
def tagFree (m : Mod) (tag : BitVec 32) : Bool :=
  !(m.reqs.any fun r => r.tag = tag) && !((tagsKept m).any fun x => x.1 = tag)

/-- The next serial number, from one on, whose tag an agent may use. -/
def freshSerial (m : Mod) (agent serial : Nat) : Nat :=
  (((List.range (m.reqs.length + m.tagsDone.length + 1)).find? fun k => tagFree m (reqTag agent (serial + k))).map
    (serial + ·)).getD serial

/-- Tags that end are kept for the timeout. -/
def keepTags (tags : List (BitVec 32)) : Act := .look fun m =>
  .upd (.tagsDone (tagsKept m ++ tags.map fun t => (t, m.now)))

/-- Requests leave the outstanding requests. -/
def endReqs (gone : Req → Bool) : Act := .look fun m => acts [
  .upd (.reqs (m.reqs.filter fun r => !gone r)),
  keepTags ((m.reqs.filter gone).map (·.tag))]

/-- The next serial of the module's own tags: VC3 is agent 0x800, the gateway engine of I/O die i agent 0x801 + i. -/
def ownSerial (m : Mod) (agent : Nat) : Nat := freshSerial m agent m.fabric.vc3Serial
def vc3Tag (m : Mod) : BitVec 32 := reqTag 0x800 (ownSerial m 0x800)
def bumpSerial (agent : Nat) : Act := .look fun m => modFabric fun f => { f with vc3Serial := ownSerial m agent + 1 }

/-- A VC3 request with a fresh tag; until the peer is known it goes to 0x3FFF (R307). Its tag is kept from its sending on. -/
def requestVc3 (p op : Nat) (addr : Nat) (data : List Byte) : Act := .look fun m => acts [
  sendVc3 p op (((m.port p).peer.map BitVec.toNat).getD 0x3FFF) (vc3Tag m) 0 addr data,
  bumpSerial 0x800,
  keepTags [vc3Tag m]]

end Sys2Proof.Machine
end

