-- ==== Sys2Proof/Machine/Sync.lean ====
section
/-! DEFINITION. The synchronisation class and the sleep of a waiting sorus (R49, R115–R119, R432, R493). -/

namespace Sys2Proof.Machine

/-- The check of a counter index (R116, R493): a bit above [11], a counter outside CTX_COUNTERS, a counter on a
memory-side die that does not run. -/
def counterCheck (m : Mod) (th : Thallus) (i : Word) : Option Nat :=
  let r := th.ctx.getD 4 0
  if bitsOf i 12 52 ≠ 0 then some exAddress
  else if i.toNat < bitsOf r 0 12 ∨ bitsOf r 0 12 + bitsOf r 16 13 ≤ i.toNat then some exPermission
  else if !m.dieRuns (memDie (counterDie i.toNat)) then some exDataLost
  else none

/-- A sorus whose thalli are all waiting or idle becomes clock-gated (R432). -/
def clockGate (g : Nat) : Act := .look fun m =>
  onlyIf (decide (m.domain g = 3) && (thalliOf g).all fun t => m.thState t = thWaiting ∨ m.thState t = thIdle)
    (setF (sorusReg g) CD_SORUS_STATE_DOMAIN 2)

/-- A clock-gated sorus whose thallus resumes is running (R49, R432). -/
def clockRun (g : Nat) : Act := .look fun m =>
  onlyIf (decide (m.domain g = 2)) (setF (sorusReg g) CD_SORUS_STATE_DOMAIN 3)

/-- True where a counter meets a target; one that a ledger fault has stopped never does (R288). -/
def Mod.met (m : Mod) (c : Nat) (target : Word) : Bool :=
  !m.cntFrozen.contains c && decide (target.toNat ≤ (m.counter c).toNat)

/-- A deadline that the stratum counter has passed (R122); zero is none. -/
def Mod.passed (m : Mod) (deadline : Word) : Bool := decide (deadline ≠ 0 ∧ deadline.toNat ≤ m.now.toNat)

def waitcBody : Body :=
  issue [useRd, useRa, useRb, useRc, (30, 1)] (fun w => [fRd w, fRa w, fRb w, fRc w]) fun m th t _ w =>
    let c := th.sget (fRa w)
    match counterCheck m th c with
    | some x => fault t x w c
    | none =>
      if m.met c.toNat (th.sget (fRb w)) then commit t fun x => x.sset (fRd w) 0
      else if m.passed (th.sget (fRc w)) then
        (if bitOf w 30 then commit t fun x => x.sset (fRd w) 1 else fault t exDeadline w c)
      else acts [
        modThallus t (fun x =>
          let entry : Wait := ⟨c.toNat, th.sget (fRb w), th.sget (fRc w), BitVec.ofNat 5 (fRd w), bitOf w 30, false⟩
          { x with wait := some entry, held := none }),
        setThState t thWaiting,
        clockGate (gsorusOf t)]

/-- A wait ends with a value in rd (R117). -/
def endWait (t v : Nat) : Act := .look fun m =>
  match (m.thallus t).wait with
  | none => .nop
  | some x => acts [
      clockRun (gsorusOf t),
      setThState t thRunning,
      commit t fun th => { th.sset x.rd.toNat (BitVec.ofNat 64 v) with wait := none }]

/-- The open stage queues that a counter is bound to as DCNT, in the running launches that keep them. -/
def queuesOn (m : Mod) (c : Nat) : List (Nat × StageQueue) :=
  ((m.allLaunches.filter fun l => l.1 = l.2.home ∧ m.lstate l.1 = lRunning).map fun l =>
    (l.2.sqs.filter fun q => q.dcnt = c ∧ !q.closed).map fun q => (l.1, q)).flatten

/-- The credits that a CONSUME of a data counter returns (R165), whichever thallus makes it, and the sends they match
(R164). -/
def creditReturn (c n : Nat) : Act := .look fun m =>
  forEach (queuesOn m c) fun q => acts [
    arrive q.2.ccnt n,
    modLaunch q.1 fun l => { l with sqs := l.sqs.map fun q =>
      if q.dcnt = c then { q with unmatched := q.unmatched - n } else q }]

/-- CONSUME is checked against the value left by every earlier update (R116). -/
def consumeBody : Body :=
  issue [useRd, useRa, useRb] (fun w => [fRd w, fRa w, fRb w]) fun m th t _ w =>
    let c := th.sget (fRa w)
    let n := (th.sget (fRb w)).toNat
    match counterCheck m th c with
    | some x => fault t x w c
    | none =>
      if (m.counter c.toNat).toNat < n then fault t exPermission w c
      else acts [
        .upd (.consume c.toNat n),
        creditReturn c.toNat n,
        commit t fun x => x.sset (fRd w) (m.counter c.toNat - BitVec.ofNat 64 n)]

def creadBody : Body :=
  issue [useRd, useRa] (fun w => [fRd w, fRa w]) fun m th t _ w =>
    let c := th.sget (fRa w)
    match counterCheck m th c with
    | some x => fault t x w c
    | none => commit t fun x => x.sset (fRd w) (m.counter c.toNat)

/-! ### Fences and ranges (R118, R119) -/

/-- True for an access that a thallus sent. -/
def fromThallus (t : Nat) (a : Access) : Bool :=
  match a.org with
  | .thallus u => decide (u = t)
  | .copy u => decide (u = t)
  | _ => false

/-- Local accesses of a thallus not yet completed (R118), the reads of its fills and the writes of its drains among
them. -/
def localPending (m : Mod) (t : Nat) : Bool :=
  m.waiting.any (fromThallus t) || (m.replies.any fun r => r.t = t) ||
    (m.thallus t).fronds.any fun f => f.2.fill.isSome || f.2.draining

/-- An instruction on a frond that has not completed (R67, R72). -/
def frondPending (th : Thallus) : Bool := th.fronds.any fun f => f.2.busy || !f.2.incomplete.isEmpty

/-- A write-back of a near-cache line in a range that its memory-side die has not acknowledged (R119). -/
def rangePending (m : Mod) (t base len : Nat) : Bool :=
  m.waiting.any fun a => decide (a.org = .near t) &&
    decide (0x10000 ≤ len ∨ (a.addr < base + len ∧ base < a.addr + 32))

/-- Remote requests of a thallus without their acknowledgement, and its transfers not yet completed (R118). -/
def remotePending (m : Mod) (t : Nat) : Bool :=
  m.reqs.any (fun r => r.org = .thallus t) || !(m.thallus t).queue.isEmpty ||
    m.replies.any fun r => r.t = t

/-- FENCE.L ends at once where nothing is outstanding, else at its completion. -/
def fenceLBody : Body :=
  issue [] (fun _ => []) fun m _ t _ _ =>
    if localPending m t then modThallus t fun x => { x with block := some .fenceL } else commit t id

def fenceFBody : Body :=
  issue [] (fun _ => []) fun m _ t _ _ =>
    if remotePending m t then modThallus t fun x => { x with block := some .fenceF } else commit t id

/-- A line overlaps a range; from a length of 64 KiB upward the whole near cache is taken (R119). -/
def inRange (base len key : Nat) (l : NLine) : Bool :=
  decide (0x10000 ≤ len ∨ (nearAddr key l < base + len ∧ base < nearAddr key l + 64))

/-- ACQ and FLUSH: the write-backs and invalidations are made, and the instruction completes when they are
acknowledged; a length of zero completes at once. -/
def rangeBody (acq : Bool) : Body :=
  issue [useRa, useRb] (fun w => [fRa w, fRb w]) fun _ th t _ w =>
    let base := (th.sget (fRa w)).toNat
    let len := (th.sget (fRb w)).toNat
    if 2 ^ 52 < base + len then fault t exAddress w (th.sget (fRa w))
    else if len = 0 then commit t id
    else acts [
      nearClean t (fun k l => inRange base len k l && (acq || decide (l.dirty ≠ 0))) acq,
      modThallus t fun x => { x with block := some (.range acq base len) }]

def acqBody : Body := rangeBody true
def flushBody : Body := rangeBody false

end Sys2Proof.Machine
end

