-- ==== Sys2Proof/Machine/Send.lean ====
section
/-! DEFINITION. Requests that leave for other modules (R337–R345, R362): the outstanding requests of the module, the
injection limiter and the gateway engine. -/

namespace Sys2Proof.Machine

/-! ### Fields of format X (R93) -/

def xSize (w : Word) : Nat := 2 ^ bitsOf w 30 2
def xAop (w : Word) : Nat := bitsOf w 32 4
def xAtype (w : Word) : Nat := bitsOf w 36 3
def xOrd (w : Word) : Bool := bitOf w 39
def xHint (w : Word) : Nat := bitsOf w 40 2
def xStat (w : Word) : Bool := bitOf w 42
def xCnt (w : Word) : Nat := bitsOf w 43 12
def xCen (w : Word) : Bool := bitOf w 55

/-- The chamber of origin of an access; 8 stands for none. -/
def chOf (k : Nat) : Option Nat := if k < 8 then some k else none

/-- The chamber tag of a local chamber. -/
def Mod.tagOf (m : Mod) (k : Nat) : BitVec 16 := (m.chamber k).tag

/-- The local chamber of a running stage, 8 where none is assigned. -/
def chamberOf (m : Mod) (t : Nat) : Nat := (m.thChamber t).getD 8

/-- The next serial and the next request tag of a thallus (R265). -/
def nextSerial (m : Mod) (t : Nat) : Nat := freshSerial m t (m.thallus t).tagSerial
def nextTag (m : Mod) (t : Nat) : BitVec 32 := reqTag t (nextSerial m t)

/-! ### Requests to other modules (R337–R339, R362) -/

/-- Fields of a fabric address (R330). -/
def faModule (a : Word) : Nat := bitsOf a 49 14
def faWindow (a : Word) : Nat := bitsOf a 41 8
def faOffset (a : Word) : Nat := bitsOf a 0 41

/-- True where the injection limiter lets a request leave now (R362). -/
def limitOk (m : Mod) (r : Req) : Bool :=
  let maxOut := m.fld (RM_INJ r.chamber) RM_INJ_MAX_OUT
  let gap := m.fld (RM_INJ r.chamber) RM_INJ_MIN_GAP_NS
  let out := (m.reqs.filter fun x => x.sent ∧ x.io = r.io ∧ x.chamber = r.chamber).length
  decide (maxOut = 0 ∨ out < maxOut) && (match (m.iodie r.io).lastHead.get? r.chamber with
    | none => true
    | some last => decide (gap = 0 ∨ last.toNat + gap ≤ m.now.toNat))

/-- STATUS_ONLY with UNAVAILABLE for a request of this module, back to the module itself (R272). -/
def unroutable (r : Req) : Act :=
  modIoDie r.io fun d => { d with inbox := d.inbox ++ [⟨{ r.hdr with
    dst := r.hdr.src, net := true, op := 0x4F, len := 0, opinfo := 0, status := BitVec.ofNat 4 stUnavailable }, []⟩] }

/-- A request leaves: stamped and injected at its I/O die. -/
def sendNow (r : Req) : Act := .look fun m =>
  let h := { r.hdr with stamp := BitVec.ofNat 24 m.now.toNat }
  acts [
    .upd (.reqs (m.reqs.map fun x => if x.tag = r.tag then { x with sent := true, stamp := m.now, hdr := h } else x)),
    modIoDie r.io (fun d => { d with lastHead := d.lastHead.put r.chamber m.now }),
    inject r.io h r.data (match r.org with
      | .gateway _ => 12
      | _ => 8) (unroutable r)]

/-- The requests that wait at an I/O die leave as far as its limiters allow, while the module does not withdraw (R294). -/
def pumpIo (i : Nat) : Act := .look fun m =>
  onlyIf (!m.fabric.withdrawing && !m.fabric.withdrawn) (forEach (m.reqs.filter fun r => r.io = i ∧ !r.sent ∧ !r.gateway) fun r => .look fun m =>
    onlyIf (limitOk m r) (sendNow r))

/-- A request enters the module's outstanding requests and leaves when its limiter allows. -/
def addReq (r : Req) : Act := .look fun m => acts [.upd (.reqs (m.reqs ++ [r])), pumpIo r.io]

/-- The request packet header of this module. -/
def reqHeader (m : Mod) (addr : Word) (k op : Nat) (ord : Bool) (tag : BitVec 32) (len : Nat) (opinfo : Nat) : Header :=
  { hdrZero with
    dst := BitVec.ofNat 14 (faModule addr), src := BitVec.ofNat 14 m.selfId, chamber := m.tagOf k
    rclass := if ord then 1 else 0, tag := tag, op := BitVec.ofNat 8 op, len := BitVec.ofNat 13 len
    opinfo := BitVec.ofNat 32 opinfo, addr := addr }

/-- True where new requests cannot leave through an I/O die (R293, R294). -/
def ioClosed (m : Mod) (i : Nat) : Bool := !m.dieRuns (ioDie i) || m.fabric.withdrawing || m.fabric.withdrawn

/-! ### The gateway engine (R341–R344) -/

def gatewayPool (i : Nat) : Nat := 0x12C8 + i

/-- Tag of a gateway engine's own requests: agent 0x801 + i of R265. -/
def gatewayTag (m : Mod) (i : Nat) : BitVec 32 := reqTag (0x801 + i) (ownSerial m (0x801 + i))

def gatewayReq (m : Mod) (i : Nat) (addr : Word) (k op : Nat) (ord : Bool) (data : List Byte) : Req :=
  { tag := gatewayTag m i, org := .gateway i, hdr := reqHeader m addr k op ord (gatewayTag m i) data.length 0
    data := data, rd := 0, size := 0, stat := true, pc := 0, word := 0, run := 0, stamp := m.now, chamber := k
    io := i, sent := false, gateway := false, retried := false }

/-- Fabric address of a module's window at an offset. -/
def fabricAddr (module window off : Nat) : Word :=
  BitVec.ofNat 64 (2 ^ 63 + module * 2 ^ 49 + window * 2 ^ 41 + off)

/-- An aggregation buffer is sent as one AGG_STORE packet (R343, R344). -/
def sendBuffer (i n : Nat) : Act := .look fun m =>
  match (m.iodie i).bufs[n]? with
  | none => .nop
  | some b =>
    if b.tag.isSome then .nop
    else
      let data := (b.recs.map fun r => leBytes 8 (r.1 + r.2.1.toNat * 2 ^ 40) ++ leBytes 8 r.2.2.1.toNat).flatten
      let q := gatewayReq m i (fabricAddr b.module.toNat b.window.toNat 0) b.chamber 7 false data
      acts [bumpSerial (0x801 + i),
        modIoDie i fun d => { d with bufs := setAt d.bufs n { b with tag := some q.tag } },
        modPool (gatewayPool i) (fun p => { p with returned := p.returned + 64 }),
        bumpWrap (RM_GW_STAT i) RM_GW_STAT_AGG_SENT 1,
        addReq q]

/-- The first buffer for which `p` holds among those not yet sent. -/
def findBuffer (d : IoDie) (p : AggBuf → Bool) : Option Nat := d.bufs.findIdx? fun b => b.tag.isNone && p b

/-- A store's bytes in its 8 B word. -/
def wordMask (off size : Nat) : BitVec 8 := BitVec.ofNat 8 ((2 ^ size - 1) * 2 ^ (off % 8))
def wordData (off : Nat) (v : Nat) : Word := BitVec.ofNat 64 (v * 2 ^ (8 * (off % 8)))

/-- The bytes of `x` under a mask placed over `old`. -/
def maskBytes (mask : BitVec 8) (x old : Word) : Word :=
  BitVec.ofNat 64 (leNat ((List.range 8).map fun j =>
    if mask.getLsbD j then (leBytes 8 x.toNat).getD j 0 else (leBytes 8 old.toNat).getD j 0))

/-- A store joins a buffer's records: merged into the record of its word, or as a new one (R343). -/
def addRecord (recs : List (Nat × BitVec 8 × Word × List (BitVec 32))) (word : Nat) (mask : BitVec 8) (x : Word)
    (tag : BitVec 32) : List (Nat × BitVec 8 × Word × List (BitVec 32)) :=
  if recs.any fun r => r.1 = word then
    recs.map fun r => if r.1 = word then
      (r.1, r.2.1 ||| mask, maskBytes mask x r.2.2.1, r.2.2.2 ++ [tag]) else r
  else recs ++ [(word, mask, x, [tag])]

/-- An XST joins the aggregation buffer of its module, window and chamber (R343, R344). -/
def aggregate (i k : Nat) (addr : Word) (size v : Nat) (tag : BitVec 32) : Act :=
  let off := faOffset addr
  let key : AggBuf → Bool := fun b =>
    decide (b.module.toNat = faModule addr ∧ b.window.toNat = faWindow addr ∧ b.chamber = k)
  acts [
    .look fun m => onlyIf (decide ((findBuffer (m.iodie i) key).isNone ∧
        512 ≤ ((m.iodie i).bufs.filter fun b => b.tag.isNone).length))
      (match findBuffer (m.iodie i) fun _ => true with
       | some n => sendBuffer i n
       | none => .nop),
    .look fun m => onlyIf (findBuffer (m.iodie i) key).isNone (acts [
      modIoDie i fun d => { d with bufs := d.bufs ++ [{
        module := BitVec.ofNat 14 (faModule addr), window := BitVec.ofNat 8 (faWindow addr), chamber := k, io := i
        recs := [], since := m.now, tag := none }] },
      modPool (gatewayPool i) fun p => { p with issued := p.issued + 64 }]),
    .look fun m => match findBuffer (m.iodie i) key with
      | none => .nop
      | some n => acts [
          modIoDie i (fun d => { d with bufs := match d.bufs[n]? with
            | none => d.bufs
            | some b => setAt d.bufs n
                { b with recs := addRecord b.recs (off / 8) (wordMask off size) (wordData off v) tag } }),
          .look fun m => onlyIf (decide (256 ≤ (((m.iodie i).bufs[n]?).map (·.recs.length)).getD 0)) (sendBuffer i n)]]

/-- A block fetch leaves where fewer than 8,192 are outstanding (R342). -/
def sendFetch (i : Nat) (n : Nat) : Act := .look fun m =>
  match (m.iodie i).fetches[n]? with
  | none => .nop
  | some f =>
    if f.sent ∨ 8192 ≤ ((m.iodie i).fetches.filter (·.sent)).length then .nop
    else
      let q := gatewayReq m i f.block f.chamber 6 f.ordered []
      acts [bumpSerial (0x801 + i),
        modIoDie i fun d => { d with fetches := setAt d.fetches n { f with tag := q.tag, sent := true } },
        modPool (gatewayPool i) fun p => { p with issued := p.issued + 4 },
        addReq q]

/-- A cross-gallery XLD: it takes its bytes from an outstanding fetch of its block, or makes one; with ORD = 1 it is
never coalesced (R341, R342). -/
def fetchBlock (i k : Nat) (addr : Word) (ord : Bool) (tag : BitVec 32) : Act := .look fun m =>
  let block := addr &&& ~~~(0xFF : Word)
  let at_ := if ord then none else (m.iodie i).fetches.findIdx? fun f => f.block = block ∧ f.chamber = k ∧ !f.ordered
  match at_ with
  | some n => acts [
      modIoDie i (fun d => { d with fetches := match d.fetches[n]? with
        | none => d.fetches
        | some f => setAt d.fetches n { f with waiters := f.waiters ++ [tag] } }),
      bumpWrap (RM_GW_STAT i) RM_GW_STAT_COALESCED 1]
  | none => acts [
      modIoDie i (fun d => { d with fetches := d.fetches ++ [⟨0, block, k, ord, false, [tag]⟩] }),
      .look fun m => sendFetch i ((m.iodie i).fetches.length - 1)]

end Sys2Proof.Machine
end

