-- ==== Sys2Proof/Machine/Segment.lean ====
section
/-! DEFINITION. The segments of a transfer descriptor (R163, R164, R347–R358): its fields, its packets and local pieces,
what their ends do, stage-queue sends, and completion records. -/

namespace Sys2Proof.Machine

/-! ### Fields of a descriptor (R347) -/

abbrev Desc := BitVec 512

def dOp (d : Desc) : Nat := bitsOf d 0 4
def dHint (d : Desc) : Nat := bitsOf d 4 2
def dCen (d : Desc) : Bool := bitOf d 6
def dCunit (d : Desc) : Bool := bitOf d 7
def dDcnt (d : Desc) : Nat := bitsOf d 8 12
def dScen (d : Desc) : Bool := bitOf d 20
def dScnt (d : Desc) : Nat := bitsOf d 21 12
def dSegLog (d : Desc) : Nat := bitsOf d 33 6
def dAop (d : Desc) : Nat := bitsOf d 39 4
def dAtype (d : Desc) : Nat := bitsOf d 43 3
def dSrc (d : Desc) : Word := BitVec.ofNat 64 (bitsOf d 64 64)
def dDst (d : Desc) : Word := BitVec.ofNat 64 (bitsOf d 128 64)
def dLen (d : Desc) : Nat := bitsOf d 192 40
def dNdst (d : Desc) : Nat := bitsOf d 232 7
def dQidx (d : Desc) : Nat := bitsOf d 240 8
def dSrcBytes (d : Desc) : Nat := bitsOf d 192 25
def dNblk (d : Desc) : Nat := bitsOf d 217 13
def dForm (d : Desc) : Nat := bitsOf d 230 2
def dEtype (d : Desc) : Nat := bitsOf d 232 3
def dOtype (d : Desc) : Nat := bitsOf d 235 3
def dOform (d : Desc) : Nat := bitsOf d 238 1
def dCrec (d : Desc) : Nat := bitsOf d 256 52
def dAux (d : Desc) : Word := BitVec.ofNat 64 (bitsOf d 320 64)
def dMdst (d : Desc) : Nat := bitsOf d 384 52
def dSdst (d : Desc) : Nat := bitsOf d 448 52

def opCopy : Nat := 0
def opFanout : Nat := 1
def opArray : Nat := 2
def opQsend : Nat := 3
def opUnpack : Nat := 4

/-- The fields that each operation uses (R347, R348); every other bit is reserved. -/
def descFields (op : Nat) : List (Nat × Nat) :=
  [(0, 4), (4, 2), (20, 1), (21, 12), (64, 64), (256, 52)] ++
  (match op with
   | 0 => [(6, 2), (8, 12), (33, 6), (128, 64), (192, 40)]
   | 1 => [(7, 1), (192, 40), (232, 7), (320, 64)]
   | 2 => [(6, 2), (8, 12), (33, 6), (39, 4), (43, 3), (128, 64), (192, 40)]
   | 3 => [(192, 40), (240, 8)]
   | _ => [(6, 2), (8, 12), (33, 6), (128, 64), (192, 25), (217, 13), (230, 2), (232, 3), (235, 3), (238, 1),
           (320, 64), (384, 52), (448, 52)])

def descReserved (d : Desc) : Bool :=
  let mask := (descFields (dOp d)).foldl (fun a f => a + (2 ^ f.2 - 1) * 2 ^ f.1) 0
  decide (d &&& ~~~(BitVec.ofNat 512 mask) ≠ 0)

/-! ### Segments (R349) -/

/-- Units of a transfer: bytes, or blocks for UNPACK. -/
def descUnits (d : Desc) : Nat := if dOp d = opUnpack then dNblk d else dLen d

/-- The smallest power of two, at least `lo`, that gives at most 64 segments. -/
def autoSeg (lo n : Nat) : Nat :=
  ((List.range 45).find? fun k => lo ≤ k ∧ n ≤ 64 * 2 ^ k).getD 45

def segLog (d : Desc) : Nat :=
  if dSegLog d ≠ 0 then dSegLog d else if dOp d = opUnpack then autoSeg 0 (dNblk d) else autoSeg 12 (dLen d)

def nseg (d : Desc) : Nat :=
  if dOp d = opFanout then dNdst d
  else if dOp d = opQsend then 1
  else max 1 ((descUnits d + 2 ^ segLog d - 1) / 2 ^ segLog d)

/-- First unit and number of units of segment `j`. -/
def segRange (d : Desc) (j : Nat) : Nat × Nat :=
  if dOp d = opFanout ∨ dOp d = opQsend then (0, dLen d)
  else (j * 2 ^ segLog d, min (2 ^ segLog d) (descUnits d - j * 2 ^ segLog d))

/-- Pieces of a range that cross no 4 KiB boundary of `at_`: offset and length (R337). -/
def piecesAt (at_ n : Nat) : List (Nat × Nat) :=
  ((List.range ((at_ % 4096 + n + 4095) / 4096)).map fun i =>
    let lo := 4096 * i - at_ % 4096
    (lo, min n (4096 * (i + 1) - at_ % 4096) - lo)).filter fun p => 0 < p.2

/-! ### Segments in flight -/

/-- A change to a queued descriptor. -/
def modXfer (t seq : Nat) (f : Xfer → Xfer) : Act :=
  modThallus t fun th => { th with queue := th.queue.map fun x => if x.seq = seq then f x else x }

def Mod.xfer (m : Mod) (t seq : Nat) : Option Xfer := (m.thallus t).queue.find? fun x => x.seq = seq

def setSeg (t seq j : Nat) (s : SegSt) : Act := modXfer t seq fun x => { x with segs := setAt x.segs j s }

/-- A destination with its counter: a fabric address is checked by its receiver, a local one and its counter here. -/
def destOk (m : Mod) (t : Nat) (dst : Word) (n : Nat) (cen : Bool) (cnt : Nat) : Bool :=
  if bitOf dst 63 then true
  else (rangeCheck m t dst n).isNone && (!cen || (counterCheck m (m.thallus t) (BitVec.ofNat 64 cnt)).isNone)

/-- The destination of a segment: of a FANOUT, the one that its table entry named as it started (R358). -/
def segDest (x : Xfer) (j : Nat) : Word :=
  if dOp x.desc = opFanout then (x.dests.getD j (0, false, 0)).1 else dDst x.desc + BitVec.ofNat 64 (segRange x.desc j).1

/-- The destination counter of a segment (R347, R358): whether it counts, and its index. -/
def segCounter (x : Xfer) (j : Nat) : Bool × Nat :=
  if dOp x.desc = opFanout then (x.dests.getD j (0, false, 0)).2 else (dCen x.desc, dDcnt x.desc)

/-- The counter that counts the bytes of a segment as they are performed (R351). -/
def segBytesCnt (x : Xfer) (j : Nat) : Option Nat :=
  if (segCounter x j).1 && !dCunit x.desc then some (segCounter x j).2 else none

/-- A packet of a segment. -/
def segPacket (t seq j : Nat) (addr : Word) (op : Nat) (data : List Byte) (opinfo : Nat) : Act := .look fun m =>
  let tag := nextTag m t
  acts [modThallus t fun x => { x with tagSerial := nextSerial m t + 1 },
    addReq { tag := tag, org := .xfer t seq j .move, hdr := reqHeader m addr (chamberOf m t) op false tag data.length opinfo
             data := data, rd := 0, size := 0, stat := true, pc := 0, word := 0, run := (m.thallus t).starts
             stamp := m.now, chamber := chamberOf m t, io := dieOf t, sent := false, gateway := false, retried := false }]

/-- A local access of a segment leaves for its home. -/
def segAccess (t seq j : Nat) (part : XPart) (kind : AKind) (addr size hint : Nat) (cnt : Option Nat) : Act :=
  .look fun m => .upd (.flight (m.flight ++ [{
    org := .xfer t seq j part, kind := kind, addr := addr, size := size, hint := hint, chamber := chamberOf m t, cnt := cnt
    stat := true, tag := 0, pc := 0, word := 0, stamp := m.now, rd := 0, run := (m.thallus t).starts }]))

/-- True for a counter that takes no arrival: stopped, or its die does not run (R288, R493). -/
def counterRefused (m : Mod) (c : Option Nat) : Bool :=
  match c with
  | none => false
  | some c => m.cntFrozen.contains c || !m.dieRuns (memDie (counterDie c))

/-- All data of a segment is confirmed (R351): with CUNIT = 1 its mark is sent, or counted at once where local. -/
def segConfirmed (t seq j : Nat) : Act := .look fun m =>
  match m.xfer t seq with
  | none => .nop
  | some x =>
    let c := segCounter x j
    let dst := segDest x j
    if c.1 ∧ dCunit x.desc then
      if bitOf dst 63 then acts [setSeg t seq j (.mark x.retried), segPacket t seq j dst 4 [] (c.2 + 2 ^ 12 + 2 ^ 14)]
      else if counterRefused m (some c.2) then setSeg t seq j (.failed stUnavailable)
      else acts [arrive c.2 1, setSeg t seq j .ok]
    else setSeg t seq j .ok

/-- One packet or piece of a segment has ended with a status and the bytes it confirmed. -/
def segPacketDone (t seq j st bytes : Nat) : Act := .look fun m =>
  match m.xfer t seq with
  | none => .nop
  | some x =>
    match x.segs[j]? with
    | some (.waiting n r worst) =>
      let worst' := if worst = stOk then st else worst
      acts [
        modXfer t seq (fun y => { y with delivered := y.delivered + bytes }),
        if 1 < n then setSeg t seq j (.waiting (n - 1) r worst')
        else if worst' = stOk then segConfirmed t seq j
        else setSeg t seq j (.failed worst')]
    | some (.mark _) => setSeg t seq j (if st = stOk then .ok else .failed st)
    | _ => .nop

/-- Statuses after which a packet of a segment is sent once more (R356). -/
def segRetries (op : Nat) (cen cunit mark : Bool) (st : Nat) : Bool :=
  if mark then false
  else if op = opCopy ∨ op = opFanout then
    decide (st = stUnavailable) || (decide (st = stTimeout) && (!cen || cunit))
  else false

/-- The pieces of a segment whose destination is known leave (R348, R349, R351, R352): a local copy as accesses, a fabric
source as COPY_READs, and for a fabric destination or an array the reads of the source. A piece crosses no 4 KiB boundary
of its destination (R245, R337). -/
def moveSegment (t seq j : Nat) : Act := .look fun m =>
  match m.xfer t seq with
  | none => .nop
  | some x =>
    let r := segRange x.desc j
    let src := dSrc x.desc + BitVec.ofNat 64 r.1
    let dst := segDest x j
    let ps := piecesAt (if bitOf dst 63 then faOffset dst else dst.toNat) r.2
    if ps.isEmpty then segConfirmed t seq j
    else acts [
      setSeg t seq j (.waiting ps.length false stOk),
      forEach ps fun p =>
        if bitOf src 63 then segPacket t seq j (src + BitVec.ofNat 64 p.1) 5 [] p.2
        else if bitOf dst 63 ∨ dOp x.desc = opArray then
          segAccess t seq j (.source p.1) .read (src.toNat + p.1) p.2 (dHint x.desc) none
        else segAccess t seq j .move (.copy (dst.toNat + p.1) 0 []) (src.toNat + p.1) p.2 (dHint x.desc) (segBytesCnt x j)]

/-- The source of a piece has been read: its packet is sent, or a local array's elements go to their home (R352). -/
def sourceRead (t seq j off st : Nat) (bs : List Byte) : Act := .look fun m =>
  match m.xfer t seq with
  | none => .nop
  | some x =>
    let dst := segDest x j
    let d := x.desc
    let cnt := match segBytesCnt x j with | some c => c + 2 ^ 12 | none => 0
    if st ≠ stOk then segPacketDone t seq j st 0
    else if dOp d ≠ opArray then segPacket t seq j (dst + BitVec.ofNat 64 off) 4 bs cnt
    else if bitOf dst 63 then segPacket t seq j (dst + BitVec.ofNat 64 off) 3 bs
      (cnt + 2 ^ 15 + dAop d * 2 ^ 16 + dAtype d * 2 ^ 20)
    else segAccess t seq j .move (.amoArray (dAop d) (dAtype d) bs none) (dst.toNat + off) bs.length (dHint d)
      (segBytesCnt x j)

/-- The table entry of a FANOUT's destination has been read: it is checked, and its copy starts (R358). -/
def entryRead (t seq j st : Nat) (bs : List Byte) : Act := .look fun m =>
  match m.xfer t seq with
  | none => .nop
  | some x =>
    let dst : Word := BitVec.ofNat 64 (leNat (bs.take 8))
    let c := leNat (bs.drop 8)
    if st ≠ stOk then setSeg t seq j (.failed st)
    else if !destOk m t dst (dLen x.desc) (c.testBit 12) (c % 4096) then setSeg t seq j (.failed stDenied)
    else acts [
      modXfer t seq (fun y => { y with dests := y.dests.put j (dst, c.testBit 12, c % 4096) }),
      moveSegment t seq j]

/-! ### Stage-queue sends (R163, R164) -/

/-- The stage queues of the launch of a thallus, as the entry that keeps them has them. -/
def queuesOf (m : Mod) (t : Nat) : List StageQueue :=
  match (m.thallus t).launch with
  | none => []
  | some key => ((m.launch? (homeOf m key)).map (·.sqs)).getD []

/-- The stage queue that a QSEND names, with its key. -/
def queueAt (m : Mod) (t q : Nat) : Option StageQueue := (queuesOf m t)[q]?

def modQueue (key q : Nat) (f : StageQueue → StageQueue) : Act := .look fun m =>
  modLaunch (homeOf m key) fun l => { l with sqs := l.sqs.zipIdx.map fun x => if x.2 = q then f x.1 else x.1 }

/-- The stage of a launch that holds a thallus. -/
def stageOfThallus (l : Launch) (t : Nat) : Option Nat :=
  l.stages.findIdx? fun s => s.die = dieOf t && s.sori.getLsbD (sorusOf t)

/-- A send that failed after taking its slot closes its queue and faults the stages at both ends (R163). -/
def closeQueue (t key q st : Nat) : Act := .look fun m =>
  match (m.launch? (homeOf m key)).bind fun l => (l.sqs[q]?).map fun x => (l, x) with
  | none => .nop
  | some (l, x) => acts [
      modQueue key q fun x => { x with closed := true },
      record (qDie (dieOf t)) 0x0206 clsLasting .plain (some (bitsOf (m.lword key 0) 8 3))
        (dpCompute 3 (dieOf t) (sorusOf t) (coreOf t) 0) (mpSorus (gsorusOf t))
        (detail [(32, 2, q), (34, 1, st), (40, 8, (m.lword key 1).toNat)]),
      retireCounter x.dcnt 6,
      retireCounter x.ccnt 6,
      forEach ([x.prod, x.cons].filterMap (stageOfThallus l)) fun s => stageFault key s exDataLost]

/-- The slot of a QSEND has been written, or its write has failed (R163): it is counted, or its queue closes. -/
def qsendDone (t seq j st bytes : Nat) : Act := .look fun m =>
  match m.xfer t seq, (m.thallus t).launch with
  | some x, some key =>
    (match queueAt m t (dQidx x.desc) with
     | none => setSeg t seq j (.failed stDenied)
     | some q =>
       let st' := if st = stOk ∧ (q.closed ∨ counterRefused m (some q.dcnt)) then stUnavailable else st
       acts [onlyIf (decide (st' = stOk)) (arrive q.dcnt 1),
         onlyIf (decide (st' ≠ stOk) && !q.closed) (closeQueue t key (dQidx x.desc) st'),
         modXfer t seq fun y => { y with delivered := y.delivered + bytes },
         setSeg t seq j (if st' = stOk then .ok else .failed st')])
  | _, _ => .nop

/-! ### The end of a local access of a segment -/

/-- A local piece has been moved, or has failed (R356). -/
def pieceMoved (t seq j : Nat) (a : Access) (st : Nat) : Act := .look fun m =>
  match m.xfer t seq with
  | none => .nop
  | some x =>
    let bytes := if st = stOk then a.size else match a.kind with | .copy _ done _ => done | _ => 0
    let again := match a.kind with
      | .copy .. => decide (a.tag = 0) && segRetries (dOp x.desc) (segCounter x j).1 (dCunit x.desc) false st
      | _ => false
    if dOp x.desc = opQsend then qsendDone t seq j st bytes
    else if again then acts [
      modXfer t seq fun y => { y with retried := true },
      .upd (.flight (m.flight ++ [{ a with tag := 1, stamp := m.now }]))]
    else segPacketDone t seq j st bytes

/-- A local access of a segment has ended; a stage that has ended since takes nothing of it. -/
def xferAnswer (t seq j : Nat) (part : XPart) (a : Access) (st : Nat) (bs : List Byte) : Act := .look fun m =>
  if (m.thallus t).starts ≠ a.run then .nop
  else match part with
    | .move => pieceMoved t seq j a st
    | .source off => sourceRead t seq j off st bs
    | .entry => entryRead t seq j st bs

/-! ### Completion (R350, R354, R355) -/

def segFailed : SegSt → Option Nat
  | .failed st => some st
  | _ => none

def segEnded : SegSt → Bool
  | .ok => true
  | .failed _ => true
  | _ => false

/-- STATUS of a completion record (R355). -/
def xferStatus (x : Xfer) : Nat :=
  match x.segs.filterMap segFailed with
  | [] => stOk
  | st :: _ => if x.stopped ∨ x.segs.any (fun s => s = .ok) then stPartial else st

/-- The completion record (R354). -/
def completion (x : Xfer) (now : Word) : List Byte :=
  let fails := x.segs.zipIdx.filterMap fun s => (segFailed s.1).map fun st => (s.2, st)
  let first := fails.head?.getD (0, 0)
  leBytes 32 (layNat [
    (0, 8, x.seq % 2 ^ 32 + xferStatus x * 2 ^ 32 + b01 x.retried * 2 ^ 36 + dOp x.desc * 2 ^ 40 +
      (x.segs.length % 128) * 2 ^ 44 + first.2 * 2 ^ 52 + first.1 * 2 ^ 56),
    (8, 8, maskOf (fails.map (·.1))), (16, 8, x.delivered), (24, 8, now.toNat)])

/-- A completion record that is refused or cannot be written (R350, R355): CTX_XERR and record 0x0A03. -/
def crecFailure (t st crec : Nat) : Act := .look fun m => acts [
  modThallus t fun th => { th with ctx := noteXerr th.ctx st (BitVec.ofNat 64 crec) },
  record (qDie (dieOf t)) 0x0A03 clsLasting .plain (m.thChamber t) (dpCompute 3 (dieOf t) (sorusOf t) (coreOf t) 0)
    (mpSorus (gsorusOf t)) (detail [(32, 8, crec)])]

/-- Completes a descriptor: its record is written, then SCNT receives 1 (R355); with CREC = 0 there is no record and
SCNT still receives its arrival (log 22). -/
def completeXfer (t : Nat) (x : Xfer) (e : Ecc) : Act := .look fun m =>
  let tail : Act := onlyIf (dScen x.desc) (arrive (dScnt x.desc) 1)
  if dCrec x.desc = 0 then tail
  else homeWrite (dCrec x.desc) (completion x m.now) (chOf (chamberOf m t)) 0 e fun st =>
    if st = stOk then tail else crecFailure t st (dCrec x.desc)

end Sys2Proof.Machine
end

