-- ==== Sys2Proof/Machine/Window.lean ====
section
/-! DEFINITION. The module's side of the shared window (R402–R408): its requests and the lines it holds, the state of
a confidential chamber, and sealed ring entries (R417, R422). -/

namespace Sys2Proof.Machine

/-- True where a Volosh port is up (R427: STATE 2). -/
def voloshUp (m : Mod) : Bool :=
  decide (m.fld VL_PORTS VL_PORTS_STATE0 = 2 ∨ m.fld VL_PORTS VL_PORTS_STATE1 = 2)

/-- The port that a message about an offset of the shared window travels on (R400): with both up by bit 12, else the one
that is up. Answers of the other windows, which may use either, take offset 0 (DESIGN CHOICE, log 42). -/
def voloshPort (m : Mod) (off : Nat) : Nat :=
  let up0 := decide (m.fld VL_PORTS VL_PORTS_STATE0 = 2)
  let up1 := decide (m.fld VL_PORTS VL_PORTS_STATE1 = 2)
  if up1 && (!up0 || off.testBit 12) then m.fld VL_PORTS VL_PORTS_PORT1 else m.fld VL_PORTS VL_PORTS_PORT0

/-- A Volosh packet of the module (R403), stamped as it is sent. -/
def vPacket (m : Mod) (opc status state : Nat) (tag : BitVec 16) (off rlen : Nat) (data : List Byte) : Out :=
  .volosh (voloshPort m off) opc status state tag off rlen m.now data

/-- Opcodes of R404. -/
def opRdShared : Nat := 1
def opRdOwn : Nat := 2
def opRdNc : Nat := 3
def opWrNc : Nat := 4
def opWb : Nat := 5
def opEvict : Nat := 6

/-- RLEN of a module request: 64 for a read. -/
def vRlen (opc : Nat) : Nat := if opc ≤ opRdNc then 64 else 0

/-- Module requests outstanding on one port (R401: MOD_TAGS). -/
def modTags : Nat := 2048

/-- Companion requests outstanding on one port (R401: HOST_TAGS). -/
def hostTags : Nat := 1024

/-- True where the port of an offset has a tag left. -/
def tagRoom (m : Mod) (off : Nat) : Bool :=
  decide ((m.volosh.reqs.filter fun r => r.port = some (voloshPort m off)).length < modTags)

/-- The first tag from `n` on that no request holds. -/
def freeTag (used : List (BitVec 16)) : Nat → Nat → BitVec 16
  | 0, n => BitVec.ofNat 16 n
  | fuel + 1, n => if used.contains (BitVec.ofNat 16 n) then freeTag used fuel (n + 1) else BitVec.ofNat 16 n

/-- The tag that the next request takes. -/
def voloshTag (m : Mod) : BitVec 16 :=
  freeTag ((m.volosh.reqs.filter fun r => r.port.isSome).map (·.tag)) (2 * modTags) m.volosh.nextTag

/-- The first request that waits and has a tag free on its port leaves. -/
def sendWaiting : Act := .look fun m =>
  match m.volosh.reqs.findIdx? fun r => r.port.isNone && tagRoom m r.off with
  | none => .nop
  | some n =>
    match m.volosh.reqs[n]? with
    | none => .nop
    | some r =>
      let tag := voloshTag m
      acts [
        modVolosh fun v => { v with
          nextTag := tag.toNat + 1, reqs := setAt v.reqs n { r with tag := tag, port := some (voloshPort m r.off) } },
        emit (vPacket m r.opc 0 0 tag r.off (vRlen r.opc) r.data)]

/-- What waits leaves, in order, as far as tags are free and while a Volosh port is up (R401, R410). -/
def voloshPump : Act := .look fun m =>
  onlyIf (voloshUp m) (forEach (m.volosh.reqs.filter fun r => r.port.isNone) fun _ => sendWaiting)

/-- A module request (R404). -/
def vRequest (opc off : Nat) (data : List Byte) (watch : Option (Nat × Nat)) : Act := acts [
  modVolosh fun v => { v with reqs := v.reqs ++ [⟨0, opc, off, data, watch, none⟩] },
  voloshPump]

/-- The outstanding request that an answer names. -/
def vAnswered (m : Mod) (tag : BitVec 16) (p : Nat → Bool) : Option VReq :=
  m.volosh.reqs.find? fun r => r.port.isSome && decide (r.tag = tag) && p r.opc

/-- A request is answered: its tag is free, and what waits may leave. -/
def vEnd (tag : BitVec 16) : Act := acts [
  modVolosh fun v => { v with reqs := v.reqs.filter fun r => r.port.isNone || decide (r.tag ≠ tag) },
  voloshPump]

/-- A 64 B line is read to be watched (R409). -/
def watchLine (off : Nat) (w : Nat × Nat) : Act := vRequest opRdShared off [] (some w)

/-- Refreshes SHARED and HELD of VL_LINES (R427). -/
def lineCounts : Act := .look fun m => acts [
  setF VL_LINES VL_LINES_SHARED (m.volosh.lines.filter fun l => !l.2.owned).length,
  setF VL_LINES VL_LINES_HELD (m.volosh.lines.filter fun l => l.2.owned).length]

/-! ### Confidential chambers (R414–R417, R422) -/

def confidential (m : Mod) (k : Nat) : Bool := m.flag (VL_CHAMBER k) VL_CHAMBER_CONFIDENTIAL
def confState (m : Mod) (k : Nat) : Nat := m.fld (VL_CONF_STATE k) VL_CONF_STATE_STATE
def bound (m : Mod) (k : Nat) : Bool := decide (confState m k = 3)

/-- The IV of a sealed entry of ring `r` of die `d` (R417). -/
def ringIv (salt : BitVec 32) (d r : Nat) (seq : BitVec 32) : BitVec 96 :=
  BitVec.ofNat 96 (leNat (leBytes 4 salt.toNat ++ [1, BitVec.ofNat 8 d, BitVec.ofNat 8 r, 0] ++ leBytes 4 seq.toNat))

/-- The additional authenticated data of a sealed entry (R422). -/
def ringAad (d r : Nat) (seq : BitVec 32) : List Byte := leBytes 4 seq.toNat ++ [BitVec.ofNat 8 d, BitVec.ofNat 8 r]

/-- Opens a sealed submission entry: the entry of R168, or none where its tag fails (R422). -/
def openEntry (c : Chamber) (d r : Nat) (entry : BitVec 512) : Option (BitVec 512) :=
  let bs := leBytes 64 entry.toNat
  let seq : BitVec 32 := BitVec.ofNat 32 (leNat (bs.take 4))
  match Config.gcmOpen c.kIn (ringIv c.sIn d r seq) (ringAad d r seq) ((bs.drop 4).take 44)
      (BitVec.ofNat 128 (leNat (bs.drop 48))) with
  | none => none
  | some pt => some (BitVec.ofNat 512 (leNat (bs.take 4 ++ pt.take 44)))

/-- Seals a completion entry (R422). -/
def sealEntry (c : Chamber) (d r : Nat) (seq : BitVec 32) (bs : List Byte) : List Byte :=
  let x := Config.gcmSeal c.kOut (ringIv c.sOut d r seq) (ringAad d r seq) ((bs.drop 4).take 44)
  bs.take 4 ++ x.1 ++ leBytes 16 x.2.toNat

end Sys2Proof.Machine
end

