-- ==== Sys2Proof/Machine/Access.lean ====
section
/-! DEFINITION. An access at its home (R232): what it waits for (a sleeping sorus, tokens, a journal, a row under
copy, a burst being retried), its effect, and its answer to whoever sent it. -/

namespace Sys2Proof.Machine

/-! ### Sleeping tile stores (R179, R432) -/

/-- A sorus whose tile stores can be neither read nor written: power-gated or waking. -/
def asleep (m : Mod) (g : Nat) : Bool := decide (m.domain g = 0 ∨ m.domain g = 1)

/-- Stages of running launches that hold a sorus, by entry key and index. -/
def stagesOf (m : Mod) (g : Nat) : List (Nat × Nat) :=
  ((m.cdie (g / 25)).launches.map fun l =>
    if m.lstate (64 * (g / 25) + l.1) = lRunning then
      (l.2.stages.zipIdx.filter fun s => s.1.die = g / 25 ∧ s.1.sori.getLsbD (g % 25)).map fun s =>
        (64 * (g / 25) + l.1, s.2)
    else []).flatten

/-- A transfer finds a sorus that does not run: the wake request, the wake of its stages' other sori, which are due now
(R178), and the count of a stage's first late arrival (R179). -/
def tileArrival (g : Nat) : Act := .look fun m =>
  if !asleep m g then .nop
  else acts [wakeReq g m.now,
    forEach (stagesOf m g) fun s => .look fun m =>
      match m.launch? s.1 with
      | none => .nop
      | some l =>
        match l.stages[s.2]? with
        | none => .nop
        | some st => acts [
            modLaunch s.1 (fun l => { l with stages := setAt l.stages s.2 { st with arrived := true, asked := true } }),
            onlyIf (!st.arrived && !st.started.getLsbD (g % 25)) (bumpWrap (CD_WAKE_STAT (g / 25)) CD_WAKE_STAT_LATE 1),
            onlyIf (!st.asked) (forEach ((List.range 25).filter fun i => st.sori.getLsbD i) fun i =>
              onlyIf (!st.started.getLsbD i) (wakeReq (25 * (g / 25) + i) m.now))]]

/-- The tile store of an address, by its sorus, where it sleeps. -/
def sleeper (m : Mod) (a : Nat) : Option Nat :=
  match locate a with
  | .tile t _ => if asleep m (gsorusOf t) && m.dieRuns (dieOf t) then some (gsorusOf t) else none
  | _ => none

/-! ### Answers (R114, R338) -/

/-- A posted access of a thallus failed (R114): recorded under STAT = 1, else an exception of the thallus that is not
precise. A stage that has ended since takes neither. -/
def postedFailure (t run : Nat) (stat : Bool) (pc w : Word) (st : Nat) (addr : Word) : Act := .look fun m =>
  if (m.thallus t).starts ≠ run then .nop
  else if stat then modThallus t fun th => { th with ctx := noteXerr th.ctx st addr }
  else raiseLate t (statusException st) pc w st addr

/-- A reply waits for its thallus (R112); one that nothing waits for is discarded (R124). -/
def queueReply (r : Reply) : Act := .look fun m =>
  onlyIf ((m.thallus r.t).waitRd.any fun x => x.2 = r.tag) (.upd (.replies (m.replies ++ [r])))

/-- The answer of a Volosh access (R403, R404). -/
def voloshAnswer (tag : BitVec 16) (read : Bool) (st : Nat) (bs : List Byte) : Act :=
  .look fun m => emit (vPacket m (if read then 0x81 else 0x82) st 0 tag 0 0 bs)

/-- An access has ended at its home with a status, its data, and the address of its first failure: its bytes are
counted, and its sender is answered. -/
def answer (a : Access) (st0 : Nat) (bs : List Byte) (at_ : Nat) : Act := .look fun m =>
  let st := if st0 = stOk ∧ counterRefused m a.cnt then stUnavailable else st0
  let isRead := match a.kind with | .read => true | .amo .. => true | _ => false
  acts [
    onlyIf (decide (st = stOk)) (match a.cnt, a.kind with
      | some c, .write d => arrive c d.length
      | some c, .amoArray .. => arrive c a.size
      | _, _ => .nop),
    (match a.org with
     | .thallus t =>
       if isRead then queueReply ⟨t, a.tag, a.rd, st, if st = stOk then BitVec.ofNat 64 (leNat bs) else 0,
         BitVec.ofNat 64 at_, a.stat, a.pc, a.word⟩
       else onlyIf (decide (st ≠ stOk)) (postedFailure t a.run a.stat a.pc a.word st (BitVec.ofNat 64 at_))
     | .copy t => onlyIf (decide (st ≠ stOk)) (postedFailure t a.run a.stat a.pc a.word st (BitVec.ofNat 64 at_))
     | .xfer t seq j part => xferAnswer t seq j part a st bs
     | .fabric io h => sendReply io h (h.op.toNat + 0x40) st (if st = stOk ∨ h.op = 7 then bs else [])
     | .volosh tag => voloshAnswer tag isRead st (if st = stOk then bs else [])
     | .accessory h => emit (.accessory ⟨{ h with
         net := true, op := h.op + 0x40, status := BitVec.ofNat 4 st
         len := BitVec.ofNat 13 (if st = stOk then bs.length else 0), dst := h.src }, if st = stOk then bs else []⟩)
     | _ => .nop)]

/-! ### Waiting at the home -/

/-- The bytes of an access at its address; for a copy those of its next piece, one 128 B row of the destination at most
(R233, R245). -/
def accessBytes (a : Access) : Nat :=
  match a.kind with
  | .read => a.size
  | .write d => d.length
  | .patch _ d => d.length
  | .amo _ ty _ _ => atypeBytes ty
  | .copy dst done _ => min (a.size - done) (128 - (dst + done) % 128)
  | .amoArray _ _ d _ => d.length
  | .agg recs .. => 8 * recs.length

/-- True where the access writes at its address. -/
def accessWrites (a : Access) : Bool :=
  match a.kind with
  | .read => false
  | .copy .. => false
  | _ => true

/-- The address an access now reads or writes, for a copy the place of its next piece in the source. -/
def accessAt (a : Access) : Nat := match a.kind with | .copy _ done _ => a.addr + done | _ => a.addr

/-- The place that a copy's next piece is written at. -/
def copyTo (a : Access) : Option Nat := match a.kind with | .copy dst done _ => some (dst + done) | _ => none

/-- Tokens that admission takes at the address of an access (R201, R203): its bursts; one for each atomic. -/
def accessTokens (a : Access) : Nat :=
  match a.kind with
  | .amo .. => 1
  | .amoArray _ ty d _ => d.length / atypeBytes ty
  | .agg recs .. => recs.length
  | _ => (burstsOf (accessAt a) (accessBytes a)).length

/-- A store of a thallus or of the fabric, which MODE 3 of a journal records (R225). -/
def isStore (a : Access) : Bool :=
  match a.org with
  | .thallus _ => decide (a.size ≤ 8)
  | .fabric _ h => decide (h.op = 2)
  | _ => false

/-- The next operation of an access that a journal may record (R225): AOP code or 8, ATYPE, address. -/
def nextOp (a : Access) : Option (Nat × Nat × Nat) :=
  match a.kind with
  | .amo op ty _ _ => some (op, ty, a.addr)
  | .amoArray op ty _ _ => some (op, ty, a.addr)
  | .write _ => if isStore a then some (8, 0, a.addr) else none
  | .agg (r :: _) .. => some (8, 0, a.addr + 8 * r.1)
  | _ => none

/-- The tokens of the journal records of an access (R203): none where its journal records nothing now. -/
def journalTokens (m : Mod) (a : Access) : Nat :=
  match nextOp a with
  | none => 0
  | some o =>
    match journalDie o.2.2 with
    | none => 0
    | some die =>
      if jnlMatch (m.fld (MS_JNL_CTL die a.chamber) MS_JNL_CTL_MODE) o.1 o.2.1 && !jnlFull m die a.chamber then
        (match a.kind with
         | .amoArray .. => accessTokens a
         | .agg .. => accessTokens a
         | _ => 1)
      else 0

/-- True where a full ring holds back the next operation of an access (R228). -/
def journalHolds (m : Mod) (a : Access) : Bool :=
  match nextOp a with
  | none => false
  | some o => jnlHolds m a.chamber o.1 o.2.1 o.2.2

/-- Journals an operation that has taken its place (R226): its operand has the width of its type (R227). -/
def journalOp (a : Access) (op ty addr operand : Nat) : Act := .look fun m =>
  let x : Word := BitVec.ofNat 64 (if op = 8 then operand else operand % 2 ^ (8 * atypeBytes ty))
  match a.org with
  | .fabric _ h => journal a.chamber op ty addr x true h.src.toNat
      (if h.tag.toNat % 4096 < 1200 then h.tag.toNat % 4096 else 0x7FF) h.stamp.toNat
  | .thallus t => journal a.chamber op ty addr x false m.selfId t a.stamp.toNat
  | .xfer t _ _ _ => journal a.chamber op ty addr x false m.selfId t a.stamp.toNat
  | _ => journal a.chamber op ty addr x false m.selfId 0x7FF a.stamp.toNat

/-- The age of a fabric request against the end-to-end timeout (R34, R333 row 1). -/
def tooOld (m : Mod) (h : Header) : Bool :=
  let age := (m.now.toNat + 2 ^ 24 - h.stamp.toNat) % 2 ^ 24
  decide (1000 * m.fld RM_CFG RM_CFG_TIMEOUT_US - 1000 ≤ age ∧ age < 2 ^ 23)

/-- A request discarded by age: no answer (R333). -/
def staleDrop : Act := bumpSat RM_STAT RM_STAT_STALE 1

/-- One of which a part has been applied is no longer discarded. -/
def staleAccess (m : Mod) (a : Access) : Bool :=
  match a.org with
  | .fabric _ h => tooOld m h && !(match a.kind with
    | .agg _ i _ _ => decide (0 < i)
    | .amoArray _ _ d _ => decide (d.length < a.size)
    | _ => false)
  | _ => false

/-- True where a burst of a range lies in a row whose copy is under way (R214). -/
def rowsHeld (m : Mod) (addr n : Nat) : Bool :=
  match locate addr with
  | .stack s off => !(m.stk s).remaps.isEmpty && (burstsOf off n).any fun b => (m.stk s).remaps.any fun r =>
      bitsOf r.2 3 3 = chanOf (32 * b) ∧ bitsOf r.2 6 4 = bankOf (32 * b) ∧ bitsOf r.2 10 18 = rowOf (32 * b)
  | _ => false

/-- The ranges of a stack that an access which failed once keeps from others (R207, R208). -/
def retriedRanges (s : Stack) : List (Nat × Nat) :=
  (s.retry.map fun b => (accessAt b % 2 ^ 36, accessBytes b)) ++
  s.repeating.map fun b => (((copyTo b).getD b.addr) % 2 ^ 36, accessBytes b)

/-- True where a burst of a range is being retried or repeated for an access (R207, R208). -/
def burstHeld (m : Mod) (addr n : Nat) : Bool :=
  match locate addr with
  | .stack s off => (retriedRanges (m.stk s)).any fun r =>
      (burstsOf off n).any fun x => (burstsOf r.1 r.2).contains x
  | _ => false

/-- True where a copy of a row or a retry holds a range back. -/
def rangeHeld (m : Mod) (addr n : Nat) : Bool := rowsHeld m addr n || burstHeld m addr n

/-- The stack whose row copy or retry holds an access back: at its address, or where a copy writes. -/
def heldAt (m : Mod) (a : Access) : Option Nat :=
  if rangeHeld m (accessAt a) (accessBytes a) then some (accessAt a / 2 ^ 36)
  else match copyTo a with
    | some d => if rangeHeld m d (accessBytes a) then some (d / 2 ^ 36) else none
    | none => none

/-- Floor priority of an access of a chamber at a die (R202). -/
def floorClass (m : Mod) (die k n : Nat) : Bool := decide (128 * n ≤ (m.regulator die k).credit)

/-- Requester indices of the arbiters of a memory-side die (R36): compute-die links 0–7, two I/O-die links, the accessory
link, the atomic unit, eight unpack engines, the margining engine. -/
def requesters : Nat := 21

/-- The requester of an access (R36): the link that it reached the die through. -/
def requesterOf (o : Origin) : Nat :=
  match o with
  | .thallus t => dieOf t
  | .copy t => dieOf t
  | .near t => dieOf t
  | .xfer t _ _ _ => dieOf t
  | .fabric io _ => 8 + io % 2
  | .gateway io => 8 + io % 2
  | .volosh _ => 8
  | .accessory _ => 10

/-- The order of the admission arbiter of a die (R32, R37): the floor class first, then the earlier stamp, then the index
searched upward from the pointer. -/
def goesFirst (m : Mod) (die : Nat) (x y : Bool × Nat × Nat) : Bool :=
  let turn : Nat → Nat := fun i => (i + requesters - (m.mdie die).admPtr) % requesters
  if x.1 ≠ y.1 then x.1 else decide (x.2.1 < y.2.1 ∨ (x.2.1 = y.2.1 ∧ turn x.2.2 < turn y.2.2))

/-- The tokens that an access takes at a die: at its address with its journal records, and where a copy writes. -/
def tokensAt (m : Mod) (a : Access) (die : Nat) : Nat :=
  (match locate (accessAt a) with
   | .stack s _ => if s / 8 = die then accessTokens a + journalTokens m a else 0
   | _ => 0) +
  (match copyTo a with
   | some d => (match locate d with
     | .stack s _ => if s / 8 = die then (burstsOf d (accessBytes a)).length else 0
     | _ => 0)
   | none => 0)

/-- True where the admission arbiter of a die lets an access of chamber `k` with `n` tokens and a stamp in now (R201,
R202, R32): its regulator has the tokens, no older access of its chamber waits there, and no waiting access that could
be admitted goes first. -/
def admitted (m : Mod) (die k n : Nat) (stamp : Word) (idx : Nat) : Bool :=
  decide (8 ≤ k) || admits m die k n &&
  !((m.mdie die).held.any fun a => a.chamber = k ∧ a.stamp.toNat < stamp.toNat) &&
  !((m.mdie die).held.any fun a => decide (a.chamber ≠ k) && admits m die a.chamber (tokensAt m a die) &&
    goesFirst m die (floorClass m die a.chamber (tokensAt m a die), a.stamp.toNat, requesterOf a.org)
      (floorClass m die k n, stamp.toNat, idx))

/-- An admission: the regulator is charged and the arbiter's pointer moves (R35, R203). -/
def takeIn (die k n idx : Nat) : Act := acts [
  charge die k n,
  modMDie die fun d => { d with admPtr := (idx + 1) % requesters }]

/-- The memory-side die that admits an access, for a location in a stack. -/
def stackDie (addr : Nat) : Option Nat :=
  match locate addr with
  | .stack s _ => some (s / 8)
  | _ => none

/-! ### Accesses of the units (R203, R207, R214) -/

/-- True where a unit may access a range of `tokens` now: nothing holds its bursts back and the die admits it. -/
def unitMay (m : Mod) (k a n tokens idx : Nat) : Bool :=
  match locate a with
  | .stack s _ => !rangeHeld m a n && admitted m (s / 8) k tokens m.now idx
  | _ => true

/-- The admission of a unit's access. -/
def unitAdmit (k a tokens idx : Nat) : Act :=
  match stackDie a with
  | some die => takeIn die k tokens idx
  | none => .nop

/-- The tokens that several ranges take at a memory-side die. -/
def rangeTokens (l : List (Nat × Nat)) (die : Nat) : Nat :=
  ((l.filter fun r => stackDie r.1 = some die).map fun r => (burstsOf (r.1 % 2 ^ 36) r.2).length).sum

/-- True where a unit may access several ranges together: nothing holds one back, and every die admits its part. -/
def unitsMay (m : Mod) (k : Nat) (l : List (Nat × Nat)) (idx : Nat) : Bool :=
  (l.all fun r => !rangeHeld m r.1 r.2) &&
  (List.range 4).all fun die => decide (rangeTokens l die = 0) || admitted m die k (rangeTokens l die) m.now idx

/-- Their admission. -/
def unitsAdmit (k : Nat) (l : List (Nat × Nat)) (idx : Nat) : Act :=
  forEach ((List.range 4).filter fun die => rangeTokens l die ≠ 0) fun die => takeIn die k (rangeTokens l die) idx

/-! ### The effect at the home -/

/-- The records of an aggregated store, in order (R343): each one 8 B write under its mask, journalled as it is applied;
where a full ring holds one back, the rest waits. `k` takes the bitmap of refused records and the first refusal. -/
def aggRun (a : Access) (k : Nat → Nat → Act) : List (Nat × BitVec 8 × Word) → Nat → Nat → Nat → Act
  | [], _, mask, st => k mask st
  | r :: l, i, mask, st => .look fun m =>
    let addr := a.addr + 8 * r.1
    let old := memRead m.mem addr 8
    let new := leBytes 8 r.2.2.toNat
    if jnlHolds m a.chamber 8 0 addr then
      (match journalDie addr with
       | some die => modMDie die fun d => { d with jnlHeld := d.jnlHeld ++ [{ a with kind := .agg (r :: l) i mask st }] }
       | none => .nop)
    else acts [sumpTouch addr, homeWrite addr ((List.range 8).map fun j =>
        if r.2.1.getLsbD j then new.getD j 0 else old.getD j 0) (chOf a.chamber) a.hint .good fun st' =>
      acts [onlyIf (decide (st' = stOk)) (journalOp a 8 0 addr r.2.2.toNat),
        aggRun a k l (i + 1) (if st' = stOk then mask else mask + 2 ^ i) (if st = stOk then st' else st)]]

/-- The elements of an array atomic, in order (R352), journalled as they are applied; where a full ring holds one back,
`wait` takes what is left, its address and the first failure so far. `k` takes the first failure and its address. -/
def arrayRun (a : Access) (op ty : Nat) (k : Option (Nat × Nat) → Act)
    (wait : List (List Byte) → Nat → Option (Nat × Nat) → Act) :
    List (List Byte) → Nat → Option (Nat × Nat) → Ecc → Act
  | [], _, bad, _ => k bad
  | x :: l, addr, bad, e => .look fun m =>
    if jnlHolds m a.chamber op ty addr then wait (x :: l) addr bad
    else homeAmo addr op ty (BitVec.ofNat 64 (leNat x)) 0 (chOf a.chamber) a.hint e fun st _ =>
      acts [onlyIf (decide (st = stOk)) (journalOp a op ty addr (leNat x)),
        arrayRun a op ty k wait l (addr + atypeBytes ty) (if bad.isNone ∧ st ≠ stOk then some (st, addr) else bad) .good]

/-- What a copy's piece reads: a byte that the copy has already overwritten reads as either value (R113). -/
def copyBytes (m : Mod) (old : SMap Byte) (a n : Nat) (bs : List Byte) : List Byte :=
  (List.range n).map fun i => match old.get? (a + i) with
    | some o => if Config.overlapNew m.freeCount (a + i) then bs.getD i 0 else o
    | none => bs.getD i 0

/-- The bytes of the source not yet read that a piece's write replaces. -/
def copyOld (m : Mod) (old : SMap Byte) (src size dst n done : Nat) : SMap Byte :=
  (List.range n).foldl (fun o i =>
    let x := dst + i
    if src + done ≤ x ∧ x < src + size ∧ (o.get? x).isNone then o.put x (m.byte x) else o) old

/-- One piece of an XCOPY, the next row of its destination (R113, R233, R245): read, written, counted; the rest stays in
flight. Its failure names the first byte that failed, of the source or of the destination (R114). -/
def copyPiece (a : Access) (dst done : Nat) (old : SMap Byte) (e : Ecc) (onWrite : Bool) : Act := .look fun m =>
  let n := accessBytes a
  let src := a.addr + done
  let ch := chOf a.chamber
  let b := struckBurst m (src % 2 ^ 36) n
  if n = 0 then answer a stOk [] a.addr
  else homeReadAt b src n ch a.hint (if onWrite then .good else e) fun st bs =>
    if st ≠ stOk then answer a st [] (failingByte m src n ch false (if onWrite ∨ e ≠ .lasting then none else some b))
    else .look fun m =>
      let data := copyBytes m old src n bs
      let old' := copyOld m old a.addr a.size (dst + done) n (done + n)
      acts [onlyIf (!old.isEmpty) (.upd .free),
        homeWrite (dst + done) data ch a.hint (if onWrite then e else .good) fun st =>
          if st ≠ stOk then answer a st [] (failingByte m (dst + done) n ch true none)
          else .look fun m =>
            if counterRefused m a.cnt then answer a stUnavailable [] (dst + done)
            else acts [
              (match a.cnt with
               | some c => arrive c n
               | none => .nop),
              if a.size ≤ done + n then answer { a with cnt := none } stOk [] a.addr
              else .look fun m => .upd (.flight (m.flight ++ [{ a with kind := .copy dst (done + n) old' }]))]]

/-- The bytes of a near-cache write-back in one burst: a burst written whole is one write (R209), else each byte stored is
(R234). -/
def patchBurst (a : Access) (mask : BitVec 32) (d : List Byte) (e : Ecc) : Act :=
  if mask = BitVec.allOnes 32 then homeWrite a.addr d (chOf a.chamber) a.hint e fun _ => .nop
  else forEach ((List.range 32).filter fun i => mask.getLsbD i) fun i =>
    homeWrite (a.addr + i) [d.getD i 0] (chOf a.chamber) a.hint .good fun _ => .nop

/-- The effect of an access that waits for nothing more; an error strikes its write where `onWrite` holds. -/
def atHome (a : Access) (e : Ecc) (onWrite : Bool) : Act :=
  match a.kind with
  | .read => homeRead a.addr a.size (chOf a.chamber) a.hint e fun st bs => answer a st bs a.addr
  | .write d => acts [
      (match a.org with
       | .fabric _ h => onlyIf (decide (h.op = 2)) (sumpTouch a.addr)
       | _ => .nop),
      homeWrite a.addr d (chOf a.chamber) a.hint e fun st => acts [
        onlyIf (decide (st = stOk) && isStore a) (journalOp a 8 0 a.addr (leNat d)),
        if st = stOk then answer a st [] a.addr
        else .look fun m => answer a st [] (failingByte m a.addr d.length (chOf a.chamber) true none)]]
  | .patch mask d => patchBurst a mask d e
  | .amo op ty x cmp => homeAmo a.addr op ty x cmp (chOf a.chamber) a.hint e fun st old => acts [
      onlyIf (decide (st = stOk)) (journalOp a op ty a.addr x.toNat),
      answer a st (leBytes (atypeBytes ty) old) a.addr]
  | .copy dst done old => copyPiece a dst done old e onWrite
  | .amoArray op ty d bad =>
      arrayRun a op ty
        (fun bad => match bad with
          | none => answer a stOk [] a.addr
          | some f => answer a f.1 [] f.2)
        (fun l addr bad => match journalDie addr with
          | some die => modMDie die fun x => { x with
              jnlHeld := x.jnlHeld ++ [{ a with addr := addr, kind := .amoArray op ty l.flatten bad }] }
          | none => .nop)
        (chunks (atypeBytes ty) 4096 d) a.addr bad e
  | .agg recs i mask st => aggRun a (fun mask st => answer a st (leBytes 32 mask) a.addr) recs i mask st

/-- True where the home refuses an access before it touches the stack, so that nothing is read. -/
def refusedEarly (m : Mod) (a : Access) : Bool :=
  match locate (accessAt a) with
  | .stack s off => decide (roomAt (accessAt a) < accessBytes a) ||
      decide (stackStatus m s off (accessBytes a) (chOf a.chamber) (accessWrites a) ≠ stOk)
  | _ => true

/-- The stack at an address. -/
def stackAt (addr : Nat) : Option Nat :=
  match locate addr with
  | .stack s _ => some s
  | _ => none

/-- The stack whose burst an error of an access strikes, and whether it strikes a write: the source or the destination of
a copy, the merge of a partial write or the write itself (R190, R207, R208; log 63). -/
def errorAt (m : Mod) (a : Access) : Option Nat × Bool :=
  let part : Nat → Bool := fun n => decide (a.addr % 32 ≠ 0 ∨ n % 32 ≠ 0) && Config.strikesWrite m.freeCount
  match a.kind with
  | .read => (stackAt a.addr, false)
  | .write d => (stackAt a.addr, decide (a.addr % 32 = 0 ∧ d.length % 32 = 0) || part d.length)
  | .copy dst done _ =>
    match stackAt (a.addr + done), stackAt (dst + done) with
    | some s, none => (some s, false)
    | none, d => (d, true)
    | some s, some d => if Config.strikesWrite m.freeCount then (some d, true) else (some s, false)
  | .patch mask _ => (stackAt a.addr, decide (mask = BitVec.allOnes 32) || Config.strikesWrite m.freeCount)
  | _ => (stackAt a.addr, Config.strikesWrite m.freeCount)

/-- An access that has been admitted: a row under copy, a burst being retried or a journal ring that is full holds it
back; a first uncorrectable read waits for its one retry (R207, R210) and a write that failed link ECC for its one repeat
(R208); else it takes its place in the home's order. -/
def admittedAt (a : Access) (e : Ecc) : Act := .look fun m =>
  if refusedEarly m a ∧ (stackAt (accessAt a)).isSome then atHome a .good false
  else match heldAt m a with
    | some s => modStk s fun x => { x with heldRow := x.heldRow ++ [a] }
    | none =>
      if journalHolds m a then
        (match stackDie (accessAt a) with
         | some die => modMDie die fun d => { d with jnlHeld := d.jnlHeld ++ [a] }
         | none => .nop)
      else match errorAt m a, e with
        | (none, _), _ => atHome a e false
        | (some s, w), e =>
          if e = .transient ∨ e = .lasting then acts [.upd .free,
            modStk s fun x => if w then { x with repeating := x.repeating ++ [a] } else { x with retry := x.retry ++ [a] }]
          else atHome a e w

/-- The sori whose sleeping tile stores an access touches. -/
def accessSleepers (m : Mod) (a : Access) : List Nat := ([accessAt a] ++ (copyTo a).toList).filterMap (sleeper m)

/-- The memory-side dies that an access needs tokens of. -/
def admissionDies (a : Access) : List Nat := ((stackDie (accessAt a)).toList ++ ((copyTo a).bind stackDie).toList).dedup

/-- The first die that does not let in an access now. -/
def notAdmitted (m : Mod) (a : Access) : Option Nat :=
  (admissionDies a).find? fun die => !admitted m die a.chamber (tokensAt m a die) a.stamp (requesterOf a.org)

/-- An access is admitted at every die that it needs. -/
def admitAll (a : Access) : Act := .look fun m =>
  forEach (admissionDies a) fun die => takeIn die a.chamber (tokensAt m a die) (requesterOf a.org)

/-- The compute die of the tile store at an address. -/
def tileDie (a : Nat) : Option Nat :=
  match locate a with
  | .tile t _ => some (dieOf t)
  | _ => none

/-- True where an access has to pass between compute dies and no memory-side die runs whose crossbar it could take (R20,
R492). -/
def crossingDown (m : Mod) (a : Access) : Bool :=
  let dies := ([accessAt a] ++ (copyTo a).toList).filterMap tileDie ++
    (match a.org with
     | .thallus t => [dieOf t]
     | .copy t => [dieOf t]
     | .xfer t _ _ _ => [dieOf t]
     | _ => [])
  decide (1 < dies.dedup.length) && !(List.range 4).any fun i => m.dieRuns (memDie i)

/-- True for a piece of a copy or of a transfer whose engine is gone with its die (R184). -/
def engineGone (m : Mod) (a : Access) : Bool :=
  match a.org with
  | .copy t => !m.dieRuns (dieOf t)
  | .xfer t _ _ _ => !m.dieRuns (dieOf t)
  | _ => false

/-- An access reaches its home (R192, R201, R333): a stale fabric request is discarded, one that the home refuses is
answered, one without tokens or out of its turn waits for admission. -/
def perform (a : Access) (e : Ecc) : Act := .look fun m =>
  if staleAccess m a then staleDrop
  else if engineGone m a then .nop
  else if crossingDown m a then answer a stUnavailable [] (accessAt a)
  else if refusedEarly m a ∧ (stackAt (accessAt a)).isSome then admittedAt a e
  else match notAdmitted m a with
    | some die => acts [
        modMDie die (fun d => { d with held := d.held ++ [a] }),
        onlyIf (!admits m die a.chamber (tokensAt m a die)) (bumpWrap (MS_REG_STAT die a.chamber) MS_REG_STAT_HELD 1)]
    | none => acts [admitAll a, admittedAt a e]

/-! ### Order between accesses (R237, R254) -/

/-- Two accesses of which the later is applied after the earlier: local direct operations of one thallus on the same
aligned 8 B, an access of a thallus and its near-cache write-back of the same line, ordered requests of one thallus. -/
def mustFollow (a b : Access) : Bool :=
  match a.org, b.org with
  | .thallus s, .thallus t => decide (s = t ∧ a.addr / 8 = b.addr / 8)
  | .near s, .near t => decide (s = t ∧ a.addr / 32 = b.addr / 32)
  | .fabric _ x, .fabric _ y =>
    decide (x.rclass = 1 ∧ y.rclass = 1 ∧ x.src = y.src ∧ x.tag.toNat % 4096 = y.tag.toNat % 4096)
  | _, _ => false

/-- The accesses that have reached their home before `a` and wait there. -/
def waitingBefore (m : Mod) (a : Access) : List Access :=
  match a.org with
  | .fabric .. => m.waiting.drop m.flight.length
  | _ =>
    match stackAt (accessAt a) with
    | none => []
    | some s => (m.mdie (s / 8)).held ++ (m.mdie (s / 8)).jnlHeld ++ (m.stk s).heldRow ++ (m.stk s).retry ++
        (m.stk s).repeating

/-- A request that arrives: it waits behind one that it must follow and for a sleeping tile store, else it is performed. -/
def arriveAccess (a : Access) (e : Ecc) : Act := .look fun m =>
  if (m.flight ++ waitingBefore m a).any (fun b => mustFollow b a) then .upd (.flight (m.flight ++ [a]))
  else if !staleAccess m a ∧ !(accessSleepers m a).isEmpty then
    acts [forEach (accessSleepers m a) tileArrival, .upd (.flight (m.flight ++ [a]))]
  else perform a e

end Sys2Proof.Machine
end

