-- ==== Sys2Proof/Machine/Sleep.lean ====
section
/-! DEFINITION. Sleep and wake of sori and compute PLLs (R30, R178, R179, R432–R437), and the start of a stage's
thalli as their sorus runs (R88, R90, R178). -/

namespace Sys2Proof.Machine

/-! ### Starting a stage -/

/-- The stacks that a chamber owns, as a mask. -/
def stackMaskOf (m : Mod) (k : Nat) : Nat := maskOf ((List.range 32).filter fun s => stackOwner m s = some k)

/-- The context registers of a thallus at stage start (R90). -/
def stageCtx (m : Mod) (t key st : Nat) : SMap Word :=
  let k := bitsOf (m.lword key 0) 8 3
  let c := m.chamber k
  [(0, BitVec.ofNat 64 (t + dieOf t * 2 ^ 16 + sorusOf t * 2 ^ 24 + coreOf t * 2 ^ 32)),
   (1, BitVec.ofNat 64 (st + key % 64 * 2 ^ 8)),
   (2, BitVec.ofNat 64 (k + c.tag.toNat * 2 ^ 16)),
   (3, BitVec.ofNat 64 (stackMaskOf m k)),
   (4, BitVec.ofNat 64 (c.cntFirst + c.cntNum * 2 ^ 16)),
   (5, m.lword key 14), (6, m.lword key 13), (8, BitVec.ofNat 64 m.selfId)]

/-- The thalli of a sorus start a stage, once, where the launch runs and neither it nor the stage has stopped. -/
def startSorus (key st g : Nat) : Act := .look fun m =>
  match m.launch? key with
  | none => .nop
  | some l =>
    match l.stages[st]? with
    | none => .nop
    | some x =>
      if m.lstate key ≠ lRunning ∨ l.stopping ∨ bitOf (m.lword key 15) st ∨ x.started.getLsbD (g % 25) ∨
          !x.sori.getLsbD (g % 25) ∨ x.die ≠ g / 25 ∨ asleep m g then .nop
      else acts [
        modLaunch key (fun l =>
          let x' : Machine.Stage := { x with started := x.started ||| BitVec.ofNat 25 (2 ^ (g % 25)) }
          { l with stages := setAt l.stages st x' }),
        setF (sorusReg g) CD_SORUS_STATE_DOMAIN 3,
        forEach (thalliOf g) fun t => stageStart t key st (8 * x.entry) x.codeLen (stageCtx m t key st)]

/-- The thalli of every stage that holds a sorus start as it runs (R178). -/
def startOn (g : Nat) : Act := .look fun m => forEach (stagesOf m g) fun s => startSorus s.1 s.2 g

/-! ### Entering sleep -/

/-- The deadlines that can end a wait of a sorus (R433). -/
def waitDeadlines (m : Mod) (g : Nat) : List Nat :=
  ((thalliOf g).map fun t =>
    let th := m.thallus t
    match th.wait with
    | none => []
    | some x => (if x.deadline = 0 then [] else [x.deadline.toNat]) ++
        (if th.ctx.getD 6 0 = 0 then [] else [(th.ctx.getD 6 0).toNat])).flatten

/-- The earliest of them. -/
def earliest (l : List Nat) : Option Nat := l.foldl (fun a x => some (match a with | none => x | some y => min x y)) none

/-- True where a launch that is Loading holds a sorus, which therefore stays awake (R177). -/
def loadingHolds (m : Mod) (g : Nat) : Bool :=
  (m.cdie (g / 25)).launches.any fun l => m.lstate (64 * (g / 25) + l.1) = lLoading ∧
    l.2.stages.any fun s => s.die = g / 25 ∧ s.sori.getLsbD (g % 25)

def idleState (v : Nat) : Bool := decide (v = thIdle ∨ v = thAsleep)

/-- True where a sorus may be power-gated (R432, R433): every thallus waits or is idle, no wait is met or notified and no deadline
falls within 1,500 ns. -/
def mayGate (m : Mod) (g : Nat) : Bool :=
  decide (m.domain g = 2 ∨ m.domain g = 3) && !loadingHolds m g &&
  ((thalliOf g).all fun t => m.thState t = thWaiting ∨ m.thState t = thIdle) &&
  ((thalliOf g).all fun t => match (m.thallus t).wait with
    | none => true
    | some x => !x.notified && !m.met x.counter x.target) &&
  (match earliest (waitDeadlines m g) with
   | none => true
   | some dl => decide (m.now.toNat + 1500 < dl))

/-- Power-gating with retention (R432): idle thalli are asleep; the deadline timer is armed (R433). -/
def gate (g : Nat) : Act := .look fun m => acts [
  setF (sorusReg g) CD_SORUS_STATE_DOMAIN 0,
  forEach ((thalliOf g).filter fun t => m.thState t = thIdle) (fun t => setThState t thAsleep),
  modCDie (g / 25) fun c => { c with timers := match earliest (waitDeadlines m g) with
    | some dl => c.timers.put (g % 25) (BitVec.ofNat 64 dl)
    | none => c.timers.del (g % 25) }]

def execSorusPowerGate (g : Fin 200) (s : State) : Result := done (.look fun m => onlyIf (mayGate m g) (gate g)) s

/-- A thallus whose sorus has lost everything (R432); the counts by which tags and stages are told apart go on. -/
def Thallus.lose (th : Thallus) : Thallus := { Thallus.init with starts := th.starts, tagSerial := th.tagSerial }

/-- Entering deep off (R432): nothing is kept, and the residency record is cleared (R177). -/
def deepOff (g : Nat) : Act := acts [
  setF (sorusReg g) CD_SORUS_STATE_DOMAIN 0,
  setF (CP_SORUS g) CP_SORUS_DEEP 1,
  bumpWrap (CP_SORUS g) CP_SORUS_DEEP_ENTRIES 1,
  forEach (thalliOf g) (fun t => acts [modThallus t Thallus.lose, setThState t thAsleep,
    .upd (.zero (tileAddr t 0) tileBytes)]),
  modCDie (g / 25) fun c => { c with resident := c.resident.del (g % 25), timers := c.timers.del (g % 25) }]

/-- Deep off by idle time: every thallus idle, no stage of a launch on the sorus, no wake under way (R432). -/
def execSorusDeepOff (g : Fin 200) (s : State) : Result := done (.look fun m =>
  onlyIf (decide (m.fld CP_CFG CP_CFG_DEEP_MS ≠ 0 ∧ m.domain g ≠ 1 ∧ !m.flag (CP_SORUS g) CP_SORUS_DEEP) &&
    m.dieRuns (g / 25) &&
    ((thalliOf g).all fun t => idleState (m.thState t)) && (stagesOf m g).isEmpty && !loadingHolds m g &&
    !((m.cdie (g / 25)).wakeReqs.any fun w => w.1 = g % 25)) (deepOff g)) s

/-! ### Wake requests and grants -/

def execWakeRequest (d : Fin 8) (n : Option (Fin 25)) (stamp : Word) (s : State) : Result :=
  done (match n with
    | some i => wakeReq (25 * d + i) stamp
    | none => wakePll d) s

/-- The waiting request that the arbiter grants next: the earliest stamp, ties by the pointer (R32). -/
def nextWake (reqs : List (Nat × Word)) (ptr : Nat) : Option Nat :=
  match earliest (reqs.map fun r => r.2.toNat) with
  | none => none
  | some st => firstFrom ptr ((List.range 25).filter fun i => reqs.any fun r => r.1 = i ∧ r.2.toNat = st)

/-- Up to `n` grants of the wake-slot arbiter of a die (R35, R178). -/
def grantWakes (d : Nat) : Nat → Act
  | 0 => .nop
  | n + 1 => .look fun m =>
    let c := m.cdie d
    match nextWake (c.wakeReqs.filter fun r => !c.resetting.contains r.1) c.wakePtr with
    | none => .nop
    | some i => acts [
        modCDie d (fun c => { c with
          wakeReqs := c.wakeReqs.filter fun r => r.1 ≠ i
          wakePtr := (i + 1) % 25
          waking := c.waking ++ [i]
          window := (c.window.1, c.window.2 + 1)
          timers := c.timers.del i }),
        setF (sorusReg (25 * d + i)) CD_SORUS_STATE_DOMAIN 1,
        grantWakes d n]

/-- The grants of one 1,000 ns window: at most 8 in it, none while the PLL is stopped or locking (R178, R435), none on
a die that does not run (R437). -/
def execWakeGrant (d : Fin 8) (s : State) : Result := done (.look fun m =>
  let win := m.now.toNat / 1000 + 1
  let used := if (m.cdie d).window.1 = win then (m.cdie d).window.2 else 0
  onlyIf (decide (m.fld (CP_COMPUTE d) CP_COMPUTE_PLL = 2) && m.dieRuns d) (acts [
    modCDie d (fun c => { c with window := (win, used) }),
    grantWakes d (m.fld (CD_LAUNCH_CFG d) CD_LAUNCH_CFG_WAKE_PACE - used)])) s

/-- A granted sorus runs (R432): from deep off its six tile stores are zeroed; its idle thalli are idle again; stages
that wait for it start. -/
def wakeDone (g : Nat) : Act := .look fun m => acts [
  modCDie (g / 25) (fun c => { c with waking := c.waking.filter (· ≠ g % 25) }),
  onlyIf (m.flag (CP_SORUS g) CP_SORUS_DEEP) (acts [
    forEach (thalliOf g) (fun t => .upd (.zero (tileAddr t 0) tileBytes)),
    setF (CP_SORUS g) CP_SORUS_DEEP 0]),
  setF (sorusReg g) CD_SORUS_STATE_DOMAIN 3,
  bumpWrap (sorusReg g) CD_SORUS_STATE_WAKES 1,
  forEach ((thalliOf g).filter fun t => m.thState t = thAsleep) (fun t => setThState t thIdle),
  forEach ((List.range 4).map (4 * g + ·)) (fun n => .look fun m =>
    .upd (.sensors (m.sensors.put n { m.sensor n with awake := 0 }))),
  startOn g,
  clockGate g]

def execSorusWakeComplete (g : Fin 200) (s : State) : Result := done (.look fun m =>
  onlyIf ((m.cdie (g / 25)).waking.contains (g % 25) && m.dieRuns (g / 25)) (wakeDone g)) s

/-- The timer of a gated sorus fires at the last drip tick at or before 1,500 ns ahead of the deadline (R433). -/
def execDeadlineWakeTimer (g : Fin 200) (s : State) : Result := done (.look fun m =>
  match (m.cdie (g / 25)).timers.get? (g % 25) with
  | none => .nop
  | some dl => onlyIf (decide ((dl.toNat - 1500) / 40 * 40 ≤ m.now.toNat)) (acts [
      modCDie (g / 25) (fun c => { c with timers := c.timers.del (g % 25) }),
      wakeReq g dl])) s

/-! ### The compute PLL (R435) -/

/-- Work of the router, the load path or the release engine runs once the PLL runs; else the PLL is asked for (R435). -/
def onFastClock (d : Nat) (a : Act) : Act := .look fun m =>
  if !m.dieRuns d then .nop
  else if m.fld (CP_COMPUTE d) CP_COMPUTE_PLL = 2 then a
  else wakePll d

def execPllStop (d : Fin 8) (s : State) : Result := done (.look fun m =>
  onlyIf (decide (m.fld (CP_COMPUTE d) CP_COMPUTE_PLL = 2) && (m.cdie d).wakeReqs.isEmpty &&
    (List.range 25).all fun i => m.domain (25 * d + i) = 0) (setF (CP_COMPUTE d) CP_COMPUTE_PLL 0)) s

/-- The PLL has locked; the window that began before the lock gives no grants any more. -/
def execPllLocked (d : Fin 8) (s : State) : Result := done (.look fun m =>
  onlyIf (decide (m.fld (CP_COMPUTE d) CP_COMPUTE_PLL = 1)) (acts [
    setF (CP_COMPUTE d) CP_COMPUTE_PLL 2,
    onlyIf (decide (m.now.toNat % 1000 ≠ 0)) (modCDie d fun c => { c with
      window := (m.now.toNat / 1000 + 1, m.fld (CD_LAUNCH_CFG d) CD_LAUNCH_CFG_WAKE_PACE) })])) s

end Sys2Proof.Machine
end

