-- ==== Sys2Proof/Machine/Gather.lean ====
section
/-! DEFINITION. Routers and gathering queues (R140–R159, 04_sparsity_and_conditional_compute.md). -/

namespace Sys2Proof.Machine

/-- True where a chamber may reach every byte of a local range (R91). -/
def chamberRange (m : Mod) (k a n : Nat) : Bool :=
  decide (a < 2 ^ 52 ∧ n ≤ roomAt a) &&
  (match locate a with
   | .stack s _ => decide (stackOwner m s = some k)
   | .tile t _ => m.flag (sorusReg (gsorusOf t)) CD_SORUS_STATE_CHAMBER_VALID &&
       decide (m.fld (sorusReg (gsorusOf t)) CD_SORUS_STATE_CHAMBER = k)
   | _ => false)

/-- A write by a unit of the control plane for a chamber. -/
def unitWrite (k a : Nat) (bs : List Byte) : Act := homeWrite a bs (some k) 0 .good fun _ => .nop

/-- True where a unit of compute die `d` reaches a compute die: itself, or through a memory-side die's crossbar (R20,
R492). -/
def reachesDie (m : Mod) (d e : Nat) : Bool :=
  m.dieRuns e && (decide (d = e) || (List.range 4).any fun i => m.dieRuns (memDie i))

/-- The chamber of a launch entry. -/
def Mod.lchamber (m : Mod) (key : Nat) : Nat := bitsOf (m.lword key 0) 8 3

/-! ### Batch headers (R142) -/

structure BatchHdr where
  ntok : Nat
  k : Nat
  nexp : Nat
  ltype : Nat
  norm : Nat
  final : Bool
  direct : Bool
  logits : Nat
  rowsrc : Nat
  stride : Nat
  tokenBase : Nat
  exits : Nat
  result : Nat
  deriving DecidableEq, Repr

def batchHdr (bs : List Byte) : BatchHdr :=
  let w := wordAt bs 0
  { ntok := bitsOf w 0 7, k := bitsOf w 8 3 + 1, nexp := bitsOf w 16 9, ltype := bitsOf w 25 2, norm := bitsOf w 27 2
    final := bitOf w 29, direct := bitOf w 30, logits := (wordAt bs 8).toNat, rowsrc := (wordAt bs 16).toNat
    stride := bitsOf (wordAt bs 24) 0 32, tokenBase := bitsOf (wordAt bs 24) 32 32, exits := (wordAt bs 32).toNat
    result := (wordAt bs 40).toNat }

/-- True where every field of a header is valid (R142, R146). Its reserved bits are ignored (R7). A misaligned LOGITS or
RESULT is an invalid field, ECODE 1, and not a refused address (DESIGN CHOICE, log 53). -/
def batchOk (h : BatchHdr) : Bool :=
  decide (1 ≤ h.ntok ∧ h.ntok ≤ 64 ∧ 1 ≤ h.nexp ∧ h.nexp ≤ 256 ∧ h.ltype ≤ 1 ∧ h.norm ≤ 2) &&
  decide (h.logits % 64 = 0 ∧ h.result % 64 = 0)

def logitSize (h : BatchHdr) : Nat := if h.ltype = 0 then 4 else 2
def logitBytes (h : BatchHdr) : Nat := if h.direct then 64 * h.ntok else h.ntok * h.nexp * logitSize h

/-- True where every address of a batch passes R91 for the chamber, the rows of exited tokens among them (DESIGN CHOICE,
log 53). -/
def batchReach (m : Mod) (k : Nat) (h : BatchHdr) : Bool :=
  chamberRange m k h.logits (logitBytes h) && chamberRange m k h.result (64 * h.ntok) &&
  (List.range h.ntok).all fun j => chamberRange m k (h.rowsrc + j * h.stride) 1

/-! ### Ranking and weights (R143, R144) -/

/-- True where the first logit ranks above the second: NaN lies below −∞, zeros are equal (R143). -/
def ranksAbove (a b : FVal) : Bool := if a.isNan then false else if b.isNan then true else b.lt a

/-- Inserts a candidate after those that rank at least as high, so that equal logits keep index order. -/
def insertRank (x : Nat × FVal) : List (Nat × FVal) → List (Nat × FVal)
  | [] => [x]
  | y :: l => if ranksAbove x.2 y.2 then x :: y :: l else y :: insertRank x l

/-- Candidates in rank order (R143). -/
def rankAll (cs : List (Nat × FVal)) : List (Nat × FVal) := cs.foldl (fun l c => insertRank c l) []

/-- FP32 division, rounded once to nearest even (R144): the quotient is taken to 80 bits with a sticky bit. -/
def fDiv (a b : FVal) : FVal :=
  match a, b with
  | .fin na ma ea, .fin nb mb eb =>
    if mb = 0 then (if ma = 0 then .nan else .inf (na != nb))
    else
      let n := ma * 2 ^ (80 + Nat.log2 mb)
      .fin (na != nb) (2 * (n / mb) + (if n % mb = 0 then 0 else 1)) (ea - eb - 81 - Nat.log2 mb)
  | .inf x, .fin y _ _ => .inf (x != y)
  | .fin x _ _, .inf y => .fin (x != y) 0 0
  | _, _ => .nan

/-- exp(l − l_max) in FP32, within the bound of VEXP2 (R102, R144; log 11). -/
def expOf (l top : FVal) : Nat :=
  let x := rnd fp32 (l.add top.neg)
  if (fp32.decode x).isNan then fp32.dnan
  else
    boundedResult 0x80 fp32 (fp32.decode x) (Config.approx 0x80 0 (BitVec.ofNat 32 x)).toNat

/-- The weights of the selected of a ranked list (R144). A NaN logit of any candidate, whatever NORM, gives the token NaN
weights; that the logits of experts that are no candidates do not is the model's reading (DEDUCED, log 54). -/
def weights (norm k : Nat) (ranked : List (Nat × FVal)) : List (Nat × Nat) :=
  let sel := ranked.take k
  if ranked.any fun c => c.2.isNan then sel.map fun c => (c.1, fp32.dnan)
  else if norm = 0 then sel.map fun c => (c.1, rnd fp32 c.2)
  else
    let pool := if norm = 1 then sel else ranked
    let top := (pool.head?.map (·.2)).getD .nan
    let sum := pool.foldl (fun a c => fAdd fp32 a (expOf c.2 top)) 0
    sel.map fun c => (c.1, rnd fp32 (fDiv (fp32.decode (expOf c.2 top)) (fp32.decode sum)))

/-- An expert of the map that may be chosen (R141). -/
def expertOk (r : Router) (e : Nat) : Bool := bitOf (r.experts.getD e 0) 15

/-- What token `j` takes: experts and weights in rank order (R143). In direct mode a listed expert at or above NEXP is no
candidate and is dropped, and the ranks of the others close up over dropped and 0xFF entries (DESIGN CHOICE, log 53). -/
def selectFor (r : Router) (h : BatchHdr) (bs : List Byte) (j : Nat) : List (Nat × Nat) :=
  if h.direct then
    let rec_ := (bs.drop (64 * j)).take 64
    ((List.range 8).map fun i => ((rec_.getD i 0).toNat, leNat ((rec_.drop (16 + 4 * i)).take 4))).filter fun c =>
      c.1 ≠ 0xFF ∧ c.1 < h.nexp ∧ expertOk r c.1
  else
    let z := logitSize h
    let f := if h.ltype = 0 then fp32 else bf16
    let cs := ((List.range h.nexp).filter (expertOk r)).map fun x =>
      (x, f.decode (leNat ((bs.drop ((j * h.nexp + x) * z)).take z)))
    weights h.norm h.k (rankAll cs)

/-- The result record of a token (R145). -/
def resultOf (sel : List (Nat × Nat)) : List Byte :=
  ((List.range 8).map fun r =>
    let c := sel.getD r (0xFF, 0)
    leBytes 8 (c.1 + r * 2 ^ 8 + c.2 * 2 ^ 32)).flatten

/-! ### Queues -/

def modGQ (d q : Nat) (f : GQueue → GQueue) : Act := .look fun m =>
  match (m.cdie d).queues.get? q with
  | none => .nop
  | some x => modCDie d fun c => { c with queues := c.queues.put q (f x) }

def modRouter (d b : Nat) (f : Router → Router) : Act := .look fun m =>
  match (m.cdie d).routers.get? b with
  | none => .nop
  | some x => modCDie d fun c => { c with routers := c.routers.put b (f x) }

def gatherPool (d : Nat) : Nat := 0x1270 + d

/-- Entries pending on a die: its pool holds 8,192 (R148). -/
def pendingOn (m : Mod) (d : Nat) : Nat := (m.cdie d).queues.foldl (fun a q => a + q.2.pend.length) 0

/-- Entries go back to the pool of a die. -/
def returnEntries (d n : Nat) : Act := onlyIf (decide (0 < n)) (modPool (gatherPool d) fun p =>
  { p with returned := p.returned + n })

/-- A queue without the entries of a token (R159): a flush under way has fewer left, and an idle queue owes nothing. -/
def GQueue.cancel (q : GQueue) (tok : Nat) : GQueue :=
  let gone : GEntry → Bool := fun x => decide (x.token.toNat = tok)
  let rest := q.pend.filter fun x => !gone x
  { q with
    pend := rest
    due := q.due && !rest.isEmpty
    flush := q.flush.map fun n => n - ((q.pend.take n).filter gone).length }

/-- Cancels the pending entries of a token in every queue of a launch on the module; `k` takes the total so far. -/
def cancelToken (launch tok : Nat) : List Nat → Nat → (Nat → Act) → Act
  | [], n, k => k n
  | d :: ds, n, k => .look fun m =>
    let hits := (m.cdie d).queues.filter fun q => q.2.launch = launch
    let gone := hits.foldl (fun a q => a + (q.2.pend.filter fun x => x.token.toNat = tok).length) 0
    acts [forEach hits (fun q => modGQ d q.1 fun x => x.cancel tok), returnEntries d gone,
      cancelToken launch tok ds (n + gone) k]

def cancelAll (launch : Nat) : List Nat → Nat → (Nat → Act) → Act
  | [], n, k => k n
  | t :: ts, n, k => cancelToken launch t (List.range 8) n fun n => cancelAll launch ts n k

/-! ### The router -/

/-- Work of a die's router unit, unless a lasting ledger fault has stopped it (R288). -/
def onRouter (d : Nat) (a : Act) : Act := .look fun m => onlyIf (!(m.cdie d).routerStopped) a

/-- A batch that makes no enqueue and no cancel (R146). -/
def failBatch (d b key slotAddr : Nat) (h : BatchHdr) (code : Nat) : Act := .look fun m => acts [
  modRouter d b (fun r => { r with batch := some ⟨slotAddr, [], h.final, 0, 0, code⟩ }),
  record (qDie d) 0x0301 clsLasting .plain (some (m.lchamber key)) (dpCompute 1 d 0 0 0) (mpSteward d)
    (detail [(32, 1, b), (33, 1, code), (40, 8, slotAddr)])]

/-- A batch whose logits have been read: results, cancels, and the enqueues to make (R143–R145, R159). -/
def routeBatch (d b key slotAddr : Nat) (r : Router) (h : BatchHdr) (bs : List Byte) : Act := .look fun m =>
  let k := m.lchamber key
  let exits := (List.range h.ntok).filter fun j => h.exits.testBit j
  let sel : Nat → List (Nat × Nat) := fun j => if h.exits.testBit j then [] else selectFor r h bs j
  let sends := ((List.range h.ntok).map fun j => (sel j).zipIdx.map fun c =>
    let x := r.experts.getD c.1.1 0
    ({ die := bitsOf x 8 3, queue := bitsOf x 0 8, token := BitVec.ofNat 32 (h.tokenBase + j)
       row := h.rowsrc + j * h.stride, rank := c.2, weight := BitVec.ofNat 32 c.1.2, time := 0, launch := r.launch }
       : GEntry)).flatten
  acts [
    unitWrite k h.result ((List.range h.ntok).map fun j => resultOf (sel j)).flatten,
    cancelAll r.launch (exits.map fun j => (h.tokenBase + j) % 2 ^ 32) 0 fun n =>
      modRouter d b fun r => { r with batch := some ⟨slotAddr, sends, h.final, exits.length + n, 0, 0⟩ }]

/-- The tile stores that a batch touches and that sleep. -/
def batchSleepers (m : Mod) (slotAddr : Nat) (h : BatchHdr) : List Nat :=
  [slotAddr, h.logits, h.result].filterMap (sleeper m)

/-- The ranges that a batch reads and writes beside its slot. -/
def batchRanges (h : BatchHdr) : List (Nat × Nat) := [(h.logits, logitBytes h), (h.result, 64 * h.ntok)]

/-- A router takes its next batch: TRIG_CNT holds 128 or more (R142). It waits for sleeping tile stores and for the
admission of its accesses. -/
def execRouterBatch (d : Fin 8) (b : Fin 8) (e : Ecc) (s : State) : Result := done (onRouter d (onFastClock d (.look fun m =>
  match (m.cdie d).routers.get? b with
  | none => .nop
  | some r =>
    let key := r.launch
    let k := m.lchamber key
    let slotAddr := r.ringBase + r.slot * r.stride
    let h := batchHdr (memRead m.mem slotAddr 128)
    let good := batchOk h && batchReach m k h
    if r.batch.isSome ∨ m.lstate key ≠ lRunning ∨ (m.counter r.trig).toNat < 128 ∨ m.cntFrozen.contains r.trig ∨
        !m.dieRuns (memDie (counterDie r.trig)) then .nop
    else if !(batchSleepers m slotAddr h).isEmpty then forEach (batchSleepers m slotAddr h) tileArrival
    else if good ∧ !unitsMay m k (batchRanges h) d then .nop
    else acts [
      .upd (.consume r.trig 128),
      modRouter d b (fun r => { r with slot := (r.slot + 1) % r.nslot }),
      if !batchOk h then failBatch d b key slotAddr h 1
      else if !good then failBatch d b key slotAddr h 2
      else acts [
        unitsAdmit k (batchRanges h) d,
        homeRead h.logits (logitBytes h) (some k) 0 e fun st bs =>
          if st ≠ stOk then failBatch d b key slotAddr h 3 else routeBatch d b key slotAddr r h bs]]))) s

/-- An enqueue reaches its queue and takes a pool entry, or waits for one (R148), for a crossbar to another die (R20) and
for that die's router unit (R288).
One for a queue that is bound to no launch, or that has gone with its die or launch, is dropped and not counted in ROUTED;
one for a queue of another launch is made there (DESIGN CHOICE, log 53). -/
def execQueueEnqueue (d : Fin 8) (b : Fin 8) (s : State) : Result := done (onRouter d (.look fun m =>
  match ((m.cdie d).routers.get? b).bind (·.batch) with
  | none => .nop
  | some x =>
    match x.sends with
    | [] => .nop
    | g :: rest =>
      let next : Nat → Act := fun n => modRouter d b fun r => { r with batch := some { x with
        sends := rest, routed := x.routed + n } }
      if !m.dieRuns g.die ∨ ((m.cdie g.die).queues.get? g.queue).isNone then next 0
      else if 8192 ≤ pendingOn m g.die ∨ !reachesDie m d g.die ∨ (m.cdie g.die).routerStopped then .nop
      else acts [next 1,
        modGQ g.die g.queue (fun q => { q with pend := q.pend ++ [{ g with time := m.now.toNat }] }),
        modPool (gatherPool g.die) fun p => { p with issued := p.issued + 1 }])) s

/-- The queues that an expert map names, as (die, queue) (R154). -/
def namedQueues (r : Router) : List (Nat × Nat) :=
  ((r.experts.filter fun x => bitOf x 15).map fun x => (bitsOf x 8 3, bitsOf x 0 8)).dedup

/-- A batch is complete once its enqueues are accepted (R146). -/
def execBatchComplete (d : Fin 8) (b : Fin 8) (s : State) : Result := done (onRouter d (.look fun m =>
  match (m.cdie d).routers.get? b with
  | none => .nop
  | some r =>
    match r.batch with
    | none => .nop
    | some x =>
      if !x.sends.isEmpty then .nop
      else match sleeper m x.slotAddr with
        | some g => tileArrival g
        | none => acts [
            unitWrite (m.lchamber r.launch) (x.slotAddr + 48) (leBytes 8 (x.dropped % 2 ^ 16 + 2 ^ 16 +
              (if x.err = 0 then 0 else 2 ^ 17) + x.err * 2 ^ 24 + x.routed % 2 ^ 16 * 2 ^ 32)),
            modRouter d b (fun r => { r with batch := none }),
            onlyIf x.final (forEach (namedQueues r) fun q => modGQ q.1 q.2 fun y =>
              { y with finals := if y.finals.contains (8 * d.val + b.val) then y.finals else y.finals.concat (8 * d.val + b.val) }),
            arrive r.doneCnt 1])) s

/-! ### Releases (R151–R158) -/

/-- A batch window has passed since the oldest pending entry (R153). -/
def execWindowExpiry (d : Fin 8) (q : Fin 256) (s : State) : Result := done (onRouter d (.look fun m =>
  match (m.cdie d).queues.get? q with
  | none => .nop
  | some x =>
    match x.pend.head? with
    | none => .nop
    | some g => onlyIf (decide (g.time + 1000 * x.window ≤ m.now.toNat ∧ x.flush = none))
        (modGQ d q fun x => { x with due := true }))) s

/-- The router bindings of a launch whose expert map names a queue, as 8·d + b. -/
def feeders (m : Mod) (launch d q : Nat) : List Nat :=
  ((List.range 8).map fun rd => ((m.cdie rd).routers.filter fun r =>
    r.2.launch = launch ∧ (namedQueues r.2).contains (d, q)).map fun r => 8 * rd + r.1).flatten

/-- A queue takes its flush (R154). -/
def execQueueFlush (d : Fin 8) (q : Fin 256) (s : State) : Result := done (onRouter d (.look fun m =>
  match (m.cdie d).queues.get? q with
  | none => .nop
  | some x =>
    let fs := feeders m x.launch d q
    onlyIf (x.flush.isNone && !fs.isEmpty && fs.all fun f => x.finals.contains f)
      (modGQ d q fun x => { x with finals := [], flush := some x.pend.length, due := false }))) s

def gqElem (q : GQueue) : Nat := matBits q.ty / 8
/-- L: bytes of one panel row (R149). -/
def panelRow (q : GQueue) : Nat := 16 * 2 ^ q.kt * gqElem q

/-- The destination thalli of a queue (R149). -/
def gqThalli (q : GQueue) : List Nat :=
  ((List.range 24).filter fun i => q.tmask.getLsbD i).map fun i => 6 * (q.firstSorus + i / 6) + i % 6

/-- What a release takes now: entries and flags, or none (R152–R154, R157). The EMPTY release of a flush carries LAST and
EMPTY, and not FLUSH (DESIGN CHOICE, log 53). -/
def releaseOf (q : GQueue) : Option (List GEntry × Nat) :=
  match q.flush with
  | some 0 => some ([], 1 + 8)
  | some n => some (q.pend.take (min 16 n), 4 + (if n ≤ 16 then 1 else 0))
  | none =>
    if 16 ≤ q.pend.length then some (q.pend.take 16, 0)
    else if q.due ∧ !q.pend.isEmpty then some (q.pend, 2)
    else none

/-- A slot is free (R155). -/
def slotFree (m : Mod) (q : GQueue) : Bool := decide ((m.counter q.cnt).toNat < q.nslot)

/-- The rows of a release, read in turn at their homes: none where one cannot be read (R158). A row that the chamber may
not reach (R91) is taken as one that cannot be read (DESIGN CHOICE, log 53). -/
def readRows (k n : Nat) : List (Nat × Bool) → List (Option (List Byte)) → (List (Option (List Byte)) → Act) → Act
  | [], got, f => f got
  | r :: l, got, f => .look fun m =>
    if !chamberRange m k r.1 n then readRows k n l (got ++ [none]) f
    else homeRead r.1 n (some k) 0 (if r.2 then .lasting else .good) fun st bs =>
      readRows k n l (got ++ [if st = stOk then some bs else none]) f

/-- A release starts (R153): `lost` marks rows whose source is uncorrectable after retry. -/
def execGatherRelease (d : Fin 8) (q : Fin 256) (lost : BitVec 16) (s : State) : Result :=
  done (onRouter d (onFastClock d (.look fun m =>
    match (m.cdie d).queues.get? q with
    | none => .nop
    | some x =>
      match releaseOf x with
      | none => .nop
      | some (es, flags) =>
        let asleepAt := (es.map (·.row) ++ (gqThalli x).map fun t => tileAddr t x.slotOff).filterMap (sleeper m)
        if x.releasing.isSome ∨ !slotFree m x then .nop
        else if !asleepAt.isEmpty then forEach asleepAt tileArrival
        else if !unitsMay m (m.lchamber x.launch) (es.map fun g => (g.row, x.rowBytes)) d then .nop
        else acts [
          unitsAdmit (m.lchamber x.launch) (es.map fun g => (g.row, x.rowBytes)) d,
          readRows (m.lchamber x.launch) x.rowBytes (es.zipIdx.map fun g => (g.1.row, lost.getLsbD g.2)) [] fun rows =>
          let mask := BitVec.ofNat 16 (maskOf ((List.range es.length).filter fun i => (rows.getD i none).isNone))
          acts [
            modGQ d q (fun y => { y with
              pend := y.pend.drop es.length
              seq := y.seq + 1
              due := false
              flush := match y.flush with
                | some n => if n ≤ 16 then none else some (n - 16)
                | none => none
              releasing := some ⟨y.seq % y.nslot, y.seq, es, rows.map fun r => r.getD [],
                BitVec.ofNat 8 (flags + (if mask = 0 then 0 else 16)), m.now, mask⟩ }),
            returnEntries d es.length]]))) s

/-- A row as a release carries it: where its source changed since the release began, each aligned 128 B row of it is the
old or the new value (R60, R158). -/
def rowMix (m : Mod) (row : Nat) (old new : List Byte) : List Byte :=
  if old = new then old
  else (List.range old.length).map fun i =>
    if Config.overlapNew m.freeCount (128 * ((row + i) / 128)) then new.getD i 0 else old.getD i 0

/-- The bytes of a release slot (R151, R158). Of a row that was lost the manual keeps TOKEN alone: its RANK is 0xFF and its
WEIGHT 0 as for padding, and NROWS counts it (DESIGN CHOICE, log 53). -/
def slotBytes (m : Mod) (q : GQueue) (r : Release) : List Byte :=
  let n := r.entries.length
  let pad : Nat → Bool := fun i => decide (n ≤ i) || r.lost.getLsbD i
  let row : Nat → List Byte := fun i =>
    if pad i then List.replicate q.rowBytes 0
    else match r.entries[i]? with
      | some g => rowMix m g.row (r.rows.getD i []) (memRead m.mem g.row q.rowBytes)
      | none => []
  let rows := (List.range 16).map row
  let hdr := leBytes 16 (maskOf ((List.range 16).filter pad) + n * 2 ^ 16 + r.flags.toNat * 2 ^ 24 +
      r.seq % 2 ^ 32 * 2 ^ 32 + r.stamp.toNat * 2 ^ 64) ++
    ((List.range 16).map fun i => leBytes 4 ((r.entries[i]?.map (·.token.toNat)).getD 0xFFFFFFFF)).flatten ++
    ((List.range 16).map fun i => BitVec.ofNat 8 (if pad i then 0xFF else (r.entries[i]?.map (·.rank)).getD 0xFF)) ++
    ((List.range 16).map fun i => leBytes 4 (if pad i then 0 else (r.entries[i]?.map (·.weight.toNat)).getD 0)).flatten ++
    List.replicate 96 0
  let l := panelRow q
  hdr ++ ((List.range (q.rowBytes / l)).map fun j => (rows.map fun x => (x.drop (j * l)).take l).flatten).flatten

/-- The slot has arrived everywhere (R151): its counter takes 1. While a destination's die does not run it has not. -/
def execReleaseArrived (d : Fin 8) (q : Fin 256) (s : State) : Result := done (onRouter d (.look fun m =>
  match (m.cdie d).queues.get? q with
  | none => .nop
  | some x =>
    match x.releasing with
    | none => .nop
    | some r =>
      let asleepAt := ((gqThalli x).map fun t => tileAddr t x.slotOff).filterMap (sleeper m)
      if !asleepAt.isEmpty then forEach asleepAt tileArrival
      else if !(gqThalli x).all fun t => reachesDie m d (dieOf t) then .nop
      else
        let bytes := slotBytes m x r
        acts [
          .upd .free,
          forEach (gqThalli x) (fun t => homeWrite (tileAddr t (x.slotOff + r.slot * x.slotStride)) bytes none 0 .good
            fun _ => .nop),
          onlyIf (decide (r.lost ≠ 0)) (record (qDie d) 0x0302 clsLasting .plain (some (m.lchamber x.launch))
            (dpCompute 1 d 0 0 0) (mpSteward d) (detail [(32, 1, q), (34, 2, r.lost.toNat)])),
          modGQ d q (fun y => { y with releasing := none }),
          arrive x.cnt 1])) s

end Sys2Proof.Machine
end

