-- ==== Sys2Proof/Machine/Launch.lean ====
section
/-! DEFINITION. Submission rings and launches (R160–R187, 05_spatial_pipelines_and_launch.md). -/

namespace Sys2Proof.Machine

/-! ### Rings (R168–R171) -/

def Ring.init : Ring := ⟨0, false, false, [], none, none, 0, 0⟩
def Mod.ring (m : Mod) (d r : Nat) : Ring := (m.cdie d).rings.getD r Ring.init
def modRing (d r : Nat) (f : Ring → Ring) : Act := .look fun m =>
  modCDie d fun c => { c with rings := c.rings.put r (f (m.ring d r)) }

def ringSize (m : Mod) (d r : Nat) : Nat := 2 ^ m.fld (CD_RING_CTL d r) CD_RING_CTL_SIZE_LOG2
def ringExpect (m : Mod) (d r : Nat) : Nat := m.fld (CD_RING_STATE d r) CD_RING_STATE_EXPECT
def ringChamber (m : Mod) (d r : Nat) : Nat := m.fld (CD_RING_CTL d r) CD_RING_CTL_CHAMBER
def ringWatching (m : Mod) (d r : Nat) : Bool := decide (m.fld (CD_RING_STATE d r) CD_RING_STATE_STATE = 1)

/-- The shared-window offset of a ring's watch slot (R169). -/
def watchOff (m : Mod) (d r : Nat) : Nat :=
  64 * m.fld (CD_RING_SUB d r) CD_RING_SUB_BASE + 64 * (ringExpect m d r % ringSize m d r)

/-- True where a ring is served: defined, watching, its die running, a confidential chamber bound (R414). -/
def ringServed (m : Mod) (d r : Nat) : Bool :=
  ringWatching m d r && m.flag (CD_RING_CTL d r) CD_RING_CTL_ENABLE && m.dieRuns d &&
    (!confidential m (ringChamber m d r) || bound m (ringChamber m d r))

/-- The scheduler reads the watch slot (R169). -/
def readWatch (d r : Nat) : Act := .look fun m =>
  acts [modRing d r fun x => { x with reading := true }, watchLine (watchOff m d r) (d, r)]

def execRingPoll (d : Fin 8) (r : Fin 256) (s : State) : Result := done (.look fun m =>
  onlyIf (ringServed m d r && !(m.ring d r).reading) (readWatch d r)) s

/-- A ring stops with a lasting record that names it, EXPECT and the SEQ read (R169). -/
def stopRing (d r seq : Nat) : Act := .look fun m => acts [
  setF (CD_RING_STATE d r) CD_RING_STATE_STATE 2,
  modRing d r fun x => { x with reading := false, reread := false },
  record (qDie d) 0x0202 clsLasting .plain (some (ringChamber m d r)) (dpCompute 1 d 0 0 0) (mpSteward d)
    (detail [(32, 1, r), (36, 4, ringExpect m d r), (40, 4, seq)])]

/-- Fields of a ring entry (R168). -/
def eSeq (e : BitVec 512) : Nat := bitsOf e 0 32
def eOp (e : BitVec 512) : Nat := bitsOf e 32 8
def eChamber (e : BitVec 512) : Nat := bitsOf e 40 3
def eShared (e : BitVec 512) : Bool := bitOf e 43
def eJob (e : BitVec 512) : Word := BitVec.ofNat 64 (bitsOf e 64 64)
def eArg0 (e : BitVec 512) : Nat := bitsOf e 128 64

/-- Completion statuses (R176). -/
def csDone : Nat := 0
def csFaulted : Nat := 1
def csDeadline : Nat := 2
def csCancelled : Nat := 3
def csRefused : Nat := 4
def csNotFound : Nat := 5
def csTooLate : Nat := 6
def csBadEntry : Nat := 7

/-- Entries a ring may seal in each direction of a binding (R417). -/
def sealLimit : Nat := 2 ^ 31

/-- Writes a completion entry at CSEQ as one WR_NC (R168, R170, R408); `ch` is the chamber of the entry. It is sealed where
the ring's own chamber is confidential (R422), whose completions cannot be written once its binding has ended. -/
def complete (d r ch status det : Nat) (job mask ran : Word) (seq : Nat) : Act := .look fun m =>
  let x := m.ring d r
  let bs := leBytes 64 (layNat [(0, 4, x.cseq.toNat), (4, 1, 0x81), (5, 1, ch), (6, 1, status), (7, 1, det),
    (8, 8, job.toNat), (16, 8, mask.toNat), (24, 8, ran.toNat), (32, 8, m.now.toNat), (40, 4, seq)])
  let off := 64 * m.fld (CD_RING_CMP d r) CD_RING_CMP_BASE + 64 * (x.cseq.toNat % ringSize m d r)
  let k := ringChamber m d r
  let sealed' := confidential m k
  if sealed' && decide (sealLimit ≤ x.nOut) then stopRing d r (ringExpect m d r)
  else acts [
    onlyIf (!sealed' || bound m k)
      (vRequest opWrNc off (if sealed' then sealEntry (m.chamber k) d r x.cseq bs else bs) none),
    modRing d r fun x => { x with
      cseq := x.cseq + 1
      sealedOut := if sealed' then some x.cseq else x.sealedOut
      nOut := if sealed' then x.nOut + 1 else x.nOut }]

/-- Completes a CANCEL, NOP or bad entry (R171, R182). -/
def completeEntry (d r status : Nat) (e : BitVec 512) : Act :=
  complete d r (eChamber e) status 0 (eJob e) 0 0 (eSeq e)

/-- A free launch slot of the scheduler of a ring: slots 16j to 16j + 15 belong to scheduler j. -/
def freeSlot (m : Mod) (d j : Nat) : Option Nat :=
  ((List.range 16).map (16 * j + ·)).find? fun i => m.lstate (64 * d + i) = lFree

/-- A launch just accepted (R171, R176). -/
def Launch.fresh (r : Nat) (stamp : Word) (seq : Nat) (home : Nat) : Launch :=
  { stages := [], routers := [], gqs := [], sqs := [], ring := r, subStamp := stamp
    submitted := BitVec.ofNat 32 seq, ran := 0, cancel := none, stopping := false, exc := 0, digest := 0
    home := home, satellites := [], orphan := false }

/-- The scheduler accepts the entry at EXPECT (R169, R171): a LAUNCH takes a free slot in state Checking, and while
there is none the ring waits; a bad entry completes at once. -/
def acceptEntry (d r : Nat) (e : BitVec 512) : Act := .look fun m =>
  let sealSeq := if confidential m (ringChamber m d r) then some (BitVec.ofNat 32 (eSeq e)) else none
  let take : Act := acts [
    setF (CD_RING_STATE d r) CD_RING_STATE_EXPECT (eSeq e + 1),
    modRing d r fun x => { x with
      reading := false
      reread := false
      sealedIn := sealSeq.or x.sealedIn
      nIn := if sealSeq.isSome then x.nIn + 1 else x.nIn }]
  let next : Act := .look fun m => onlyIf (ringServed m d r) (readWatch d r)
  if eOp e < 1 ∨ 3 < eOp e ∨ eChamber e ≠ ringChamber m d r then
    acts [take, completeEntry d r csBadEntry e, next]
  else if eOp e = 1 then
    match freeSlot m d (r / 64) with
    | none => modRing d r fun x => { x with reading := false, reread := false }
    | some i => acts [
        take,
        modCDie d fun c => { c with launches := c.launches.put i (Launch.fresh r m.now (eSeq e) (64 * d + i)) },
        setLWord (64 * d + i) 0 (BitVec.ofNat 64 (lChecking + eChamber e * 2 ^ 8 + eSeq e * 2 ^ 32)),
        setLWord (64 * d + i) 1 (eJob e),
        modRing d r fun x => { x with accepted := x.accepted ++ [e] },
        next]
  else acts [take, modRing d r fun x => { x with accepted := x.accepted ++ [e] }, next]

/-- The watch slot's data arrives (R169, R422). -/
def execRingEntryRead (d : Fin 8) (r : Fin 256) (entry : BitVec 512) (s : State) : Result := done (.look fun m =>
  let k := ringChamber m d r
  if !ringServed m d r ∨ !(m.ring d r).reading then .nop
  else if eSeq entry = ringExpect m d r then
    (if !confidential m k then acceptEntry d r entry
     else if sealLimit ≤ (m.ring d r).nIn then stopRing d r (eSeq entry)
     else match openEntry (m.chamber k) d r entry with
       | none => stopRing d r (eSeq entry)
       | some e => acceptEntry d r e)
  else if (eSeq entry + ringSize m d r) % 2 ^ 32 = ringExpect m d r then
    (if (m.ring d r).reread then modRing d r fun x => { x with reading := false, reread := false }
     else acts [modRing d r fun x => { x with reread := true }, readWatch d r])
  else stopRing d r (eSeq entry)) s

/-! ### Launch images, stage maps and binding tables (R160, R162, R172, R173) -/

/-- A stage record (R160). Its reserved bits are ignored (R7), as those of every record below are. -/
def parseStage (bs : List Byte) : Machine.Stage :=
  let a := wordAt bs 0
  let b := wordAt bs 8
  let c := wordAt bs 16
  { sori := BitVec.ofNat 25 (bitsOf a 0 25), die := bitsOf a 25 3, wakeCntEn := bitOf a 28, wakeCnt := bitsOf a 32 12
    codeOff := bitsOf b 0 32, codeLen := bitsOf b 32 15, entry := bitsOf b 48 14
    firstInput := bitsOf c 0 32, wakeTarget := bitsOf c 32 32, asked := false, started := 0, arrived := false }

/-- A router binding (R140). -/
def parseRouter (bs : List Byte) (launch : Nat) : Router :=
  let a := wordAt bs 0
  { trig := bitsOf a 0 12, doneCnt := bitsOf a 12 12, nslot := bitsOf a 24 6 + 1, ringBase := (wordAt bs 8).toNat
    stride := bitsOf (wordAt bs 16) 0 32, emap := (wordAt bs 24).toNat, experts := [], slot := 0, batch := none
    launch := launch }

/-- A gathering-queue binding (R149). -/
def parseGQ (bs : List Byte) (window launch : Nat) : GQueue :=
  let a := wordAt bs 0
  let b := wordAt bs 8
  { kt := bitsOf a 0 2, ty := bitsOf a 2 3, nslot := bitsOf a 8 4 + 1, cnt := bitsOf a 12 12
    rowBytes := bitsOf a 24 24, firstSorus := bitsOf b 0 8, tmask := BitVec.ofNat 24 (bitsOf b 8 24)
    slotOff := bitsOf b 32 21, slotStride := bitsOf (wordAt bs 16) 0 32, window := window, launch := launch
    pend := [], seq := 0, due := false, finals := [], flush := none, releasing := none }

/-- A stage-queue binding (R162). -/
def parseSQ (bs : List Byte) : StageQueue :=
  let a := wordAt bs 0
  let b := wordAt bs 8
  { prod := bitsOf a 0 11, cons := bitsOf a 16 11, dcnt := bitsOf a 32 12, ccnt := bitsOf a 48 12
    slotOff := bitsOf b 0 21, nslot := bitsOf b 24 5, slotBytes := bitsOf (wordAt bs 16) 0 21
    sent := 0, unmatched := 0, closed := false }

/-- A launch as its image, stage map and binding table describe it. -/
structure Plan where
  image : List Byte
  stages : List Machine.Stage
  hdr : List Byte
  routers : List Router
  gqs : List (Nat × Nat × GQueue)
  sqs : List StageQueue
  deriving DecidableEq, Repr

def iw (bs : List Byte) (w : Nat) : Word := wordAt bs (8 * w)
def imgChamber (i : List Byte) : Nat := bitsOf (iw i 0) 8 3
def imgNst (i : List Byte) : Nat := bitsOf (iw i 0) 11 6 + 1
def imgBundle (i : List Byte) : Nat := bitsOf (iw i 8) 0 52
def imgLen (i : List Byte) : Nat := bitsOf (iw i 9) 0 21
def imgWindow (i : List Byte) : Nat := bitsOf (iw i 9) 32 9
def imgMap (i : List Byte) : Nat := bitsOf (iw i 10) 0 52
def imgTable (i : List Byte) : Nat := bitsOf (iw i 11) 0 52
def imgCntFirst (i : List Byte) : Nat := bitsOf (iw i 12) 0 12
def imgCntNum (i : List Byte) : Nat := bitsOf (iw i 12) 16 13
def imgDoneCnt (i : List Byte) : Nat := bitsOf (iw i 12) 32 12
def imgDoneEn (i : List Byte) : Bool := bitOf (iw i 12) 44

def nRouter (h : List Byte) : Nat := bitsOf (iw h 0) 0 4
def nGQ (h : List Byte) : Nat := bitsOf (iw h 0) 16 12
def nSQ (h : List Byte) : Nat := bitsOf (iw h 0) 32 9
def routerOff (h : List Byte) : Nat := bitsOf (iw h 1) 0 32
def gqOff (h : List Byte) : Nat := bitsOf (iw h 1) 32 32
def gqIdxOff (h : List Byte) : Nat := bitsOf (iw h 2) 0 32
def sqOff (h : List Byte) : Nat := bitsOf (iw h 2) 32 32

/-- Bytes of a binding table, by its header (R173). -/
def tableBytes (h : List Byte) : Nat :=
  max 64 (max (sqOff h + 32 * nSQ h) (max (routerOff h + 64 * nRouter h)
    (max (gqOff h + 32 * nGQ h) (gqIdxOff h + 4 * nGQ h))))

/-- What a launch image, its stage map and its binding table describe, for the launch entry of a key. -/
def planOf (image map table : List Byte) (key : Nat) : Plan :=
  let hdr := table.take 64
  let win := if imgWindow image = 0 then 200 else imgWindow image
  let part : Nat → Nat → List Byte := fun off n => (table.drop off).take n
  let idx : Nat → Nat := fun i => leNat (part (gqIdxOff hdr + 4 * i) 4)
  { image := image
    stages := (List.range (imgNst image)).map fun i => parseStage ((map.drop (32 * i)).take 32)
    hdr := hdr
    routers := (List.range (min 8 (nRouter hdr))).map fun i => parseRouter (part (routerOff hdr + 64 * i) 64) key
    gqs := (List.range (min 2048 (nGQ hdr))).map fun i =>
      (idx i / 256 % 8, idx i % 256, parseGQ (part (gqOff hdr + 32 * i) 32) win key)
    sqs := (List.range (min 256 (nSQ hdr))).map fun i => parseSQ (part (sqOff hdr + 32 * i) 32) }

/-! ### The checks of R174 -/

def Plan.sori (p : Plan) : List Nat :=
  (p.stages.map fun s => ((List.range 25).filter fun i => s.sori.getLsbD i).map (25 * s.die + ·)).flatten

def sorusIn (m : Mod) (k g : Nat) : Bool :=
  m.flag (sorusReg g) CD_SORUS_STATE_CHAMBER_VALID && decide (g < 200 ∧ m.fld (sorusReg g) CD_SORUS_STATE_CHAMBER = k)

/-- Code 1 of the image itself (R172, R174): a field out of range, or one that the scheduler fills in not zero. -/
def imageBad (i : List Byte) : Bool :=
  decide (bitsOf (iw i 0) 0 8 ≠ 0 ∨ bitsOf (iw i 0) 32 32 ≠ 0 ∨ iw i 15 ≠ 0 ∨ imgBundle i % 64 ≠ 0 ∨ imgMap i % 32 ≠ 0 ∨
    imgTable i % 64 ≠ 0 ∨ imgLen i % 8 ≠ 0 ∨ imgLen i < 8 ∨ 2 ^ 20 < imgLen i ∨ 500 < imgWindow i ∨ 4096 < imgCntNum i)

/-- The rules of R149 and R150 for one binding. Each slot ends with its SLOT_STRIDE, the last one too (DESIGN CHOICE,
log 53). -/
def gqBindingOk (q : GQueue) : Bool :=
  decide (q.ty ≤ 5 ∧ q.ty ≠ 2 ∧ q.rowBytes ≤ 65536 ∧ q.rowBytes % panelRow q = 0 ∧
    q.firstSorus < 200 ∧ q.slotOff % 256 = 0 ∧ q.slotStride % 256 = 0 ∧ 256 + 16 * q.rowBytes ≤ q.slotStride ∧
    q.slotOff + q.nslot * q.slotStride ≤ tileBytes)

/-- Counters that the bindings name, one list a binding (R150). -/
def bindingCounters (p : Plan) : List (List Nat) :=
  (p.routers.map fun r => [r.trig, r.doneCnt]) ++ (p.gqs.map fun q => [q.2.2.cnt]) ++
    (p.sqs.map fun q => [q.dcnt, q.ccnt])

/-- Every counter bound by a launch but DONE_CNT (R180); a stage's WAKE_CNT is one of them (DESIGN CHOICE, log 53). -/
def boundCounters (p : Plan) : List Nat :=
  ((p.stages.filter fun s => s.wakeCntEn).map fun s => s.wakeCnt) ++ (bindingCounters p).flatten

/-- Code 1 (R174): fields out of range, rules of R140, R149, R150, R160, R162. -/
def refuse1 (m : Mod) (k : Nat) (p : Plan) : Bool :=
  let i := p.image
  let sori := p.sori
  let inStages : Nat → Bool := fun t => sori.contains (gsorusOf t)
  imageBad i ||
  (p.stages.any fun s => decide (s.sori = 0 ∨ s.codeOff % 8 ≠ 0 ∨ s.codeLen < 1 ∨ 16384 < s.codeLen ∨
    s.codeLen ≤ s.entry ∨ imgLen i < s.codeOff + 8 * s.codeLen)) ||
  decide (¬ sori.Nodup) ||
  decide (8 < nRouter p.hdr ∨ 2048 < nGQ p.hdr ∨ 256 < nSQ p.hdr ∨ routerOff p.hdr % 64 ≠ 0) ||
  (p.routers.any fun r => decide (r.ringBase % 128 ≠ 0 ∨ r.stride % 128 ≠ 0 ∨ r.emap % 64 ≠ 0) ||
    (match locate r.ringBase with
     | .tile t _ => !inStages t
     | _ => true)) ||
  (p.gqs.any fun q => !gqBindingOk q.2.2 ||
    ((gqThalli q.2.2).any fun t => sorusIn m k (gsorusOf t) && !inStages t)) ||
  decide (¬ (p.gqs.map fun q => 256 * q.1 + q.2.1).Nodup) ||
  (p.sqs.any fun q => decide (1200 ≤ q.prod ∨ 1200 ≤ q.cons ∨ q.slotOff % 128 ≠ 0 ∨
    q.slotBytes % 128 ≠ 0 ∨ q.slotBytes < 128 ∨ 2 ^ 20 < q.slotBytes) ||
    ([q.prod, q.cons].any fun t => sorusIn m k (gsorusOf t) && !inStages t)) ||
  decide (¬ ((bindingCounters p).map List.dedup).flatten.Nodup)

/-- Code 2: chambers. -/
def refuse2 (m : Mod) (k ringK : Nat) (p : Plan) : Bool :=
  decide (k ≠ ringK) || (p.sori.any fun g => !sorusIn m k g) ||
  (p.gqs.any fun q => (gqThalli q.2.2).any fun t => !sorusIn m k (gsorusOf t)) ||
  (p.sqs.any fun q => !sorusIn m k (gsorusOf q.prod) || !sorusIn m k (gsorusOf q.cons))

/-- Code 3 of the image itself: the addresses it names (R91) and its counter range. -/
def imageFar (m : Mod) (k : Nat) (i : List Byte) : Bool :=
  let c := m.chamber k
  !chamberRange m k (imgBundle i) (imgLen i) || !chamberRange m k (imgMap i) (32 * imgNst i) ||
  (decide (imgTable i ≠ 0) && !chamberRange m k (imgTable i) 64) ||
  decide (0 < imgCntNum i ∧ (imgCntFirst i < c.cntFirst ∨ c.cntFirst + c.cntNum < imgCntFirst i + imgCntNum i))

/-- Code 3: addresses (R91) and counter ranges. -/
def refuse3 (m : Mod) (k : Nat) (p : Plan) : Bool :=
  let i := p.image
  let cnts := boundCounters p ++ (if imgDoneEn i then [imgDoneCnt i] else [])
  imageFar m k i || (decide (imgTable i ≠ 0) && !chamberRange m k (imgTable i) (tableBytes p.hdr)) ||
  (p.routers.any fun r => !chamberRange m k r.ringBase ((r.nslot - 1) * r.stride + 128) ||
    !chamberRange m k r.emap 512) ||
  (p.sqs.any fun q => decide (tileBytes < q.slotOff + (q.nslot + 1) * q.slotBytes)) ||
  cnts.any fun n => decide (n < imgCntFirst i ∨ imgCntFirst i + imgCntNum i ≤ n)

/-- The die that serves a router binding (R173). -/
def routerDie (r : Router) : Nat :=
  match locate r.ringBase with
  | .tile t _ => dieOf t
  | _ => 0

/-- Code 5: more router bindings on a die than it has (queues are named by index, a launch needs one slot a die). -/
def refuse5 (p : Plan) : Bool :=
  (List.range 8).any fun d => decide (8 < (p.routers.filter fun r => routerDie r = d).length)

/-- Keys of launches that hold their resources (R174: Loading, Running, Ending), each once: by its home entry, or by the
satellite that keeps what a lost home kept (R185). -/
def activeHomes (m : Mod) : List Nat :=
  ((List.range 8).map fun d => ((m.cdie d).launches.filter fun l =>
    l.2.home = 64 * d + l.1 ∧ lLoading ≤ m.lstate (64 * d + l.1)).map fun l => 64 * d + l.1).flatten

/-- The counter range of a launch entry. -/
def rangeOf (m : Mod) (key : Nat) : Nat × Nat := (bitsOf (m.lword key 12) 0 12, bitsOf (m.lword key 12) 16 13)

/-- Code 6: a bound counter is not zero and no active launch holds it. -/
def refuse6 (m : Mod) (p : Plan) : Bool :=
  ((boundCounters p).filter fun n => !(imgDoneEn p.image && decide (n = imgDoneCnt p.image))).any fun n =>
    decide (m.counter n ≠ 0) && !((activeHomes m).any fun key =>
      (rangeOf m key).1 ≤ n ∧ n < (rangeOf m key).1 + (rangeOf m key).2)

/-- Removes the edges whose source no edge enters, again and again; what is left lies on or behind a cycle (R166). -/
def pruneEdges : Nat → List (Nat × Nat) → List (Nat × Nat)
  | 0, es => es
  | n + 1, es => pruneEdges n (es.filter fun e => es.any fun f => f.2 = e.1)

def stageAt (p : Plan) (t : Nat) : Nat :=
  (p.stages.findIdx? fun s => s.die = dieOf t && s.sori.getLsbD (sorusOf t)).getD 64

/-- Code 7: the stage-queue graph has a cycle. -/
def refuse7 (p : Plan) : Bool :=
  !(pruneEdges 65 (p.sqs.map fun q => (stageAt p q.prod, stageAt p q.cons))).isEmpty

/-- The first check of R174 that fails, of those the accepting scheduler makes on what it has read (4 belongs to Loading
and 8 to the reads); 0 where none does. -/
def launchCheck (m : Mod) (ringK : Nat) (shared : Bool) (p : Plan) : Nat :=
  let k := imgChamber p.image
  if refuse1 m k p then 1
  else if refuse2 m k ringK p then 2
  else if refuse3 m k p then 3
  else if refuse5 p then 5
  else if refuse6 m p then 6
  else if refuse7 p then 7
  else if shared ∧ confidential m k then 9
  else 0

/-- The first check that fails where the stage map or the binding table cannot be read: of those the image alone decides,
`code` after them. -/
def imageCheck (m : Mod) (ringK code : Nat) (i : List Byte) : Nat :=
  let k := imgChamber i
  if imageBad i then 1 else if k ≠ ringK then 2 else if imageFar m k i then 3 else code

/-! ### Acceptance, completion and release -/

/-- Frees a launch slot (R186: all words zero): no stage of it is assigned to a thallus any more (R85). -/
def freeEntry (key : Nat) : Act := .look fun m => acts [
  forEach (m.thalli.filter fun e => e.2.launch = some key) (fun e => acts [
    modThallus e.1 fun th => { th with launch := none },
    setF (thReg e.1) CD_THALLUS_STATE_CHAMBER_VALID 0]),
  forEach (List.range 16) (fun w => setLWord key w 0),
  modCDie (key / 64) fun c => { c with launches := c.launches.del (key % 64) }]

/-- The launch's router bindings and gathering queues are released on every die (R180 step 3). -/
def releaseBindings (home : Nat) : Act := forEach (List.range 8) fun d => modCDie d fun c => { c with
  routers := c.routers.filter fun r => r.2.launch ≠ home
  queues := c.queues.filter fun q => q.2.launch ≠ home }

/-- A launch completes (R176): completion entry, counts, and its slots freed. -/
def finishLaunch (key status det : Nat) : Act := .look fun m =>
  match m.launch? key with
  | none => .nop
  | some l =>
    let d := key / 64
    acts [
      bumpSat (CD_LAUNCH_STAT d) CD_LAUNCH_STAT_COMPLETED 1,
      onlyIf (decide (status = csFaulted)) (bumpSat (CD_LAUNCH_STAT d) CD_LAUNCH_STAT_FAULTED 1),
      onlyIf (decide (status = csRefused)) (bumpSat (CD_LAUNCH_STAT d) CD_LAUNCH_STAT_REFUSED 1),
      complete d l.ring (m.lchamber key) status det (m.lword key 1) (m.lword key 15) l.ran l.submitted.toNat,
      releaseBindings key,
      forEach (key :: l.satellites.filter fun k => (m.launch? k).map (·.home) = some key) freeEntry]

/-- A refused launch (R174): its code as DETAIL, and a lasting record. -/
def refuseLaunch (key code : Nat) : Act := .look fun m => acts [
  record (qDie (key / 64)) 0x0201 clsLasting .plain (some (m.lchamber key)) (dpCompute 1 (key / 64) 0 0 0)
    (mpSteward (key / 64)) (detail [(32, 1, code), (40, 8, (m.lword key 1).toNat)]),
  finishLaunch key csRefused code]

/-- The slot in Checking that holds an accepted entry of a ring. -/
def checkingSlot (m : Mod) (d r : Nat) (e : BitVec 512) : Option Nat :=
  ((m.cdie d).launches.find? fun l => l.2.ring = r ∧ l.2.submitted.toNat = eSeq e ∧
    m.lstate (64 * d + l.1) = lChecking).map (·.1)

/-- The image copied into its slot: Pending (R172, R176). -/
def fillEntry (key : Nat) (p : Plan) : Act := .look fun m => acts [
  forEach (List.range 16) (fun w =>
    if w = 0 then setLWord key 0 (BitVec.ofNat 64 (lPending + key / 64 * 2 ^ 5 + bitsOf (iw p.image 0) 8 10 * 2 ^ 8 +
      bitsOf (m.lword key 0) 32 32 * 2 ^ 32))
    else if w = 1 ∨ w = 15 then .nop
    else setLWord key w (iw p.image w)),
  modLaunch key fun l => { l with
    stages := p.stages
    routers := p.routers
    gqs := p.gqs
    sqs := p.sqs
    digest := BitVec.ofNat 384 (leNat ((p.image.drop 16).take 48)) }]

/-- The first accepted entry of a ring with an OP that has not been acted on. A NOP or a CANCEL does not wait for the
check of a LAUNCH before it (R171, R182). -/
def nextEntry (m : Mod) (d r op : Nat) : Option (BitVec 512) := (m.ring d r).accepted.find? fun e => eOp e = op

/-- It has been acted on. -/
def popEntry (d r op : Nat) : Act := modRing d r fun x => { x with accepted := x.accepted.eraseP fun e => eOp e = op }

/-- The stage map of an image is read, then the header of its binding table, then the table (R172, R173), each with its
outcome: `lost` takes code 8 where one is uncorrectable, code 3 where the table reaches out of the chamber. -/
def readPlan (image : List Byte) (em et : Ecc) (key : Nat) (lost : Nat → Act) (f : Plan → Act) : Act :=
  let k := imgChamber image
  homeRead (imgMap image) (32 * imgNst image) (some k) 0 em fun st map =>
    if st ≠ stOk then lost 8
    else if imgTable image = 0 then f (planOf image map (List.replicate 64 0) key)
    else homeRead (imgTable image) 64 (some k) 0 .good fun st hdr => .look fun m =>
      if st ≠ stOk then lost 8
      else if !chamberRange m k (imgTable image) (tableBytes hdr) then lost 3
      else homeRead (imgTable image) (tableBytes hdr) (some k) 0 et fun st table =>
        if st ≠ stOk then lost 8 else f (planOf image map table key)

/-- An image that has been read is checked (R174): the launch is Pending, or refused. -/
def checkImage (key ringK : Nat) (shared : Bool) (em et : Ecc) (image : List Byte) : Act := .look fun m =>
  let lost : Nat → Act := fun code => refuseLaunch key (imageCheck m ringK code image)
  if imageFar m (imgChamber image) image then lost 3
  else readPlan image em et key lost fun p => .look fun m =>
    let code := launchCheck m ringK shared p
    if code ≠ 0 then refuseLaunch key code else fillEntry key p

/-- The ranges of memory that the map and the table of an image take, where they may be read. -/
def planRanges (m : Mod) (image : List Byte) : List (Nat × Nat) :=
  let k := imgChamber image
  if imageFar m k image then []
  else (imgMap image, 32 * imgNst image) ::
    (if imgTable image = 0 then []
     else
       let n := tableBytes (homeBytes m (imgTable image) 64)
       [(imgTable image, if chamberRange m k (imgTable image) n then n else 64)])

/-- The outcome of the n-th of several reads that make up one: an error strikes one of them (log 63). -/
def planOutcome (m : Mod) (reads n : Nat) (e : Ecc) : Ecc :=
  if e = .good ∨ Config.struckBurst m.freeCount reads % reads = n then e else .good

/-- A LAUNCH entry is checked (R174): its image comes from the shared window or from local memory, its map and table from
local memory, with the outcome `e` of those reads, which wait for their admission (R203). One whose slot a CANCEL has
freed is passed over. -/
def execRingLaunch (d : Fin 8) (r : Fin 256) (shared : BitVec 1024) (e : Ecc) (s : State) : Result := done (.look fun m =>
  match nextEntry m d r 1 with
  | none => .nop
  | some x =>
    match checkingSlot m d r x with
    | none => popEntry d r 1
    | some i =>
      let key := 64 * d.val + i
      let k := ringChamber m d r
      if eShared x then
        let image := leBytes 128 shared.toNat
        let ranges := planRanges m image
        if !unitsMay m (imgChamber image) ranges d then .nop
        else acts [popEntry d r 1, unitsAdmit (imgChamber image) ranges d,
          checkImage key k true (planOutcome m 2 0 e) (planOutcome m 2 1 e) image]
      else if !chamberRange m k (eArg0 x) 128 then acts [popEntry d r 1, refuseLaunch key 3]
      else
        let ranges := (eArg0 x, 128) :: planRanges m (homeBytes m (eArg0 x) 128)
        if !unitsMay m k ranges d then .nop
        else acts [popEntry d r 1, unitsAdmit k ranges d,
          homeRead (eArg0 x) 128 (some k) 0 (planOutcome m 3 0 e) fun st image =>
            if st ≠ stOk then refuseLaunch key 8
            else checkImage key k false (planOutcome m 3 1 e) (planOutcome m 3 2 e) image]) s

/-- A NOP entry completes at once (R171). -/
def execRingNop (d : Fin 8) (r : Fin 256) (s : State) : Result := done (.look fun m =>
  match nextEntry m d r 3 with
  | none => .nop
  | some x => acts [popEntry d r 3, completeEntry d r csDone x]) s

/-- Every thallus of a launch is to stop with code 6 (R182). -/
def stopLaunch (key : Nat) : Act := .look fun m =>
  forEach (entriesOf m key) fun k => modLaunch k fun l => { l with stopping := true }

/-- Every entry of a launch notes why it ends; a deadline prevails over a cancel (R180). -/
def noteCancel (key code : Nat) : Act := .look fun m =>
  forEach (entriesOf m key) fun k => modLaunch k fun l => { l with
    cancel := if code = csDeadline then some code else l.cancel.or (some code) }

/-- A launch is cancelled (R182): one that has not loaded completes with CANCELLED, one that has is stopped. -/
def cancelLaunch (key : Nat) : Act := .look fun m =>
  let st := m.lstate key
  if st = lChecking ∨ st = lPending then finishLaunch key csCancelled 0
  else if st = lLoading ∨ st = lRunning then acts [noteCancel key csCancelled, stopLaunch key]
  else .nop

/-- A CANCEL entry (R182): it looks among the home entries of its die. -/
def execRingCancel (d : Fin 8) (r : Fin 256) (s : State) : Result := done (.look fun m =>
  match nextEntry m d r 2 with
  | none => .nop
  | some x =>
    let hit := (m.cdie d).launches.find? fun l => l.2.home = 64 * d.val + l.1 ∧ !l.2.orphan ∧
      (m.lword (64 * d.val + l.1) 1).toNat = eArg0 x ∧ m.lchamber (64 * d.val + l.1) = ringChamber m d r
    acts [popEntry d r 2,
      match hit with
      | none => completeEntry d r csNotFound x
      | some l =>
        if m.lstate (64 * d.val + l.1) = lEnding then completeEntry d r csTooLate x
        else acts [cancelLaunch (64 * d.val + l.1), completeEntry d r csDone x]]) s

/-! ### Resources (R175) -/

/-- Sori of a launch's stages, module-wide. -/
def launchSori (l : Launch) : List Nat :=
  (l.stages.map fun s => ((List.range 25).filter fun i => s.sori.getLsbD i).map (25 * s.die + ·)).flatten

/-- Dies on which a launch has a stage. -/
def launchDies (l : Launch) : List Nat := (List.range 8).filter fun d => l.stages.any fun s => s.die = d

def overlaps (a b : Nat × Nat) : Bool := decide (0 < a.2 ∧ 0 < b.2 ∧ a.1 < b.1 + b.2 ∧ b.1 < a.1 + a.2)

/-- True where two launches want a sorus, a gathering queue or a counter in common. -/
def clash (m : Mod) (k1 : Nat) (l1 : Launch) (k2 : Nat) (l2 : Launch) : Bool :=
  ((launchSori l1).any fun g => (launchSori l2).contains g) ||
  (l1.gqs.any fun q => l2.gqs.any fun r => q.1 = r.1 && q.2.1 = r.2.1) ||
  overlaps (rangeOf m k1) (rangeOf m k2)

/-- The sori that an active launch holds: those of its stages on dies that carry an entry of it still. -/
def heldSori (m : Mod) (key : Nat) (l : Launch) : List Nat :=
  (launchSori l).filter fun g => (entriesOf m key).any fun k => k / 64 = g / 25

/-- The satellite slots a launch would take: one free slot of the same scheduler on each other die; none where one
lacks (R161, R175). -/
def satelliteSlots (m : Mod) (key : Nat) (l : Launch) : Option (List Nat) :=
  let ds := (launchDies l).filter (· ≠ key / 64)
  let ss := ds.map fun d => (freeSlot m d (key % 64 / 16)).map (64 * d + ·)
  if ss.any Option.isNone then none else some (ss.filterMap id)

/-- The lowest free router units of a die. -/
def freeRouters (m : Mod) (d : Nat) : List Nat := (List.range 8).filter fun b => ((m.cdie d).routers.get? b).isNone

/-- Router units for a launch's bindings, as (die, unit); none where a die lacks them. -/
def routerUnits (m : Mod) (l : Launch) : Option (List (Nat × Nat)) :=
  let us := l.routers.zipIdx.map fun r =>
    let d := routerDie r.1
    let nth := ((l.routers.take r.2).filter fun x => routerDie x = d).length
    ((freeRouters m d)[nth]?).map fun b => (d, b)
  if us.any Option.isNone then none else some (us.filterMap id)

/-- The Pending launches of a home die that were submitted before a launch (R175). -/
def pendingBefore (m : Mod) (key : Nat) (l : Launch) : List (Nat × Launch) :=
  ((m.cdie (key / 64)).launches.map fun x => (64 * (key / 64) + x.1, x.2)).filter fun x =>
    decide (x.2.home = x.1 ∧ x.1 ≠ key ∧ m.lstate x.1 = lPending ∧ x.2.subStamp.toNat < l.subStamp.toNat)

/-- Router units that a launch wants on a die. -/
def routersWanted (d : Nat) (l : Launch) : Nat := (l.routers.filter fun r => routerDie r = d).length

/-- Free launch slots of the scheduler `j` of a die. -/
def freeSlots (m : Mod) (d j : Nat) : Nat := ((List.range 16).filter fun i => m.lstate (64 * d + 16 * j + i) = lFree).length

/-- True where a satellite slot or router unit that a launch would take is wanted by an earlier Pending one: any free slot
of the scheduler and any free unit of the die serves, so it is their number that counts (DESIGN CHOICE, log 53). -/
def crowded (m : Mod) (key : Nat) (l : Launch) (before : List (Nat × Launch)) : Bool :=
  (List.range 8).any fun d =>
    decide (0 < routersWanted d l ∧
      (freeRouters m d).length < routersWanted d l + (before.map fun x => routersWanted d x.2).sum) ||
    decide (d ≠ key / 64 ∧ (launchDies l).contains d ∧
      freeSlots m d (key % 64 / 16) < 1 + (before.filter fun x => x.1 % 64 / 16 = key % 64 / 16 ∧
        (launchDies x.2).contains d).length)

/-- True where a Pending launch may take its resources now (R175): its dies run, no active launch holds its sori, queues
or counters, and no earlier Pending launch of its die wants what it would take. -/
def mayTake (m : Mod) (key : Nat) (l : Launch) : Bool :=
  let before := pendingBefore m key l
  (launchDies l).all m.dieRuns &&
  (l.gqs.all fun q => m.dieRuns q.1 && ((m.cdie q.1).queues.get? q.2.1).isNone) &&
  ((activeHomes m).all fun k => match m.launch? k with
    | some x => !((launchSori l).any fun g => (heldSori m k x).contains g) && !overlaps (rangeOf m key) (rangeOf m k)
    | none => true) &&
  (before.all fun x => !clash m key l x.1 x.2) && !crowded m key l before

/-- True where a sorus holds a stage's code (R177). -/
def residentHas (m : Mod) (digest : BitVec 384) (s : Machine.Stage) (g : Nat) : Bool :=
  decide ((m.cdie (g / 25)).resident.get? (g % 25) = some ⟨digest, s.codeOff, s.codeLen, s.entry⟩)

/-- The sori of a launch that need their code, with their stage. -/
def needCode (m : Mod) (l : Launch) : List (Nat × Machine.Stage) :=
  (l.stages.map fun s => (((List.range 25).filter fun i => s.sori.getLsbD i).map (25 * s.die + ·)).filterMap fun g =>
    if residentHas m l.digest s g then none else some (g, s)).flatten

/-- A router unit takes a binding of a launch with its expert map, read once (R140, R141). -/
def takeRouter (key : Nat) (r : Router) (unit : Nat × Nat) (bytes : List Byte) : Act :=
  let map : List (BitVec 16) := (List.range 256).map fun e => BitVec.ofNat 16 (leNat ((bytes.drop (2 * e)).take 2))
  let x : Router := { r with launch := key, experts := map }
  modCDie unit.1 fun c => { c with routers := c.routers.put unit.2 x }

/-- Reads the expert maps of a launch's bindings in turn, and gives each to its unit; a map that is lost is zero, so that
none of its experts is valid (DESIGN CHOICE, log 53). -/
def takeRouters (m0 : Mod) (key : Nat) (l : List (Router × (Nat × Nat))) : Act :=
  forEach l fun r => homeRead r.1.emap 512 (some (m0.lchamber key)) 0 .good fun st bs =>
    takeRouter key r.1 r.2 (if st = stOk then bs else [])

/-- A Pending launch takes all its resources at once and loads (R175–R177), once the reads of its expert maps are
admitted: satellites are copied, routers take their expert maps (R141), sori that need code are asked to wake. -/
def execLaunchResources (d : Fin 8) (i : Fin 64) (s : State) : Result := done (.look fun m =>
  let key := 64 * d.val + i.val
  match m.launch? key with
  | none => .nop
  | some l =>
    let maps := l.routers.map fun r => (r.emap, 512)
    if m.lstate key ≠ lPending ∨ l.home ≠ key ∨ !mayTake m key l ∨ !unitsMay m (m.lchamber key) maps d then .nop
    else match satelliteSlots m key l, routerUnits m l with
      | some sats, some units => acts [
          setLState key lLoading,
          modLaunch key fun l => { l with satellites := sats },
          .look fun m => forEach sats fun k => acts [
            forEach (List.range 16) (fun w => setLWord k w (if w = 0 then m.lword key 0 ||| 16 else m.lword key w)),
            .look fun m => match m.launch? key with
              | none => .nop
              | some l => modCDie (k / 64) fun c => { c with launches := c.launches.put (k % 64) l }],
          unitsAdmit (m.lchamber key) maps d,
          takeRouters m key (l.routers.zip units),
          forEach l.gqs (fun q =>
            let x : GQueue := { q.2.2 with launch := key }
            modCDie q.1 fun c => { c with queues := c.queues.put q.2.1 x }),
          forEach (needCode m l) fun g => onlyIf (asleep m g.1) (wakeReq g.1 m.now)]
      | _, _ => .nop) s

/-! ### Loading and running (R165, R177, R178) -/

/-- Writes a stage's code to every thallus of a sorus, with its residency record. -/
def loadSorus (digest : BitVec 384) (bundle : List Byte) (g : Nat) (s : Machine.Stage) : Act := acts [
  forEach (thalliOf g) (fun t => modThallus t fun th => { th with
    istore := (List.range s.codeLen).filterMap fun i =>
      let w := wordAt bundle (s.codeOff + 8 * i)
      if w = 0 then none else some (i, w) }),
  modCDie (g / 25) fun c => { c with resident := c.resident.put (g % 25) ⟨digest, s.codeOff, s.codeLen, s.entry⟩ }]

/-- The launch runs (R165, R178): credits, then its stages start where their sori run. One that binds a gathering queue on a die
whose router unit is stopped has its stages faulted (R288). -/
def runLaunch (key : Nat) : Act := .look fun m =>
  match m.launch? key with
  | none => .nop
  | some l => acts [
      forEach l.sqs (fun q => arrive q.ccnt (q.nslot + 1)),
      forEach (entriesOf m key) (fun k => acts [setLState k lRunning,
        modLaunch k fun l => { l with ran := m.now }]),
      forEach (entriesOf m key) fun k => forEach l.stages.zipIdx fun s =>
        onlyIf (decide (s.1.die = k / 64)) (forEach ((List.range 25).filter fun i => s.1.sori.getLsbD i) fun i =>
          startSorus k s.2 (25 * s.1.die + i)),
      onlyIf (!l.gqs.isEmpty && (entriesOf m key).any fun k => (m.cdie (k / 64)).routerStopped)
        (forEach (List.range l.stages.length) fun st => stageFault key st 0)]

/-- Loading ends (R176, R177): every sorus that needs code is awake and its die's PLL runs; the bundle is read with the
outcome `e` and hashed. -/
def execLaunchLoadDone (d : Fin 8) (i : Fin 64) (e : Ecc) (s : State) : Result := done (.look fun m =>
  let key := 64 * d.val + i.val
  match m.launch? key with
  | none => .nop
  | some l =>
    let need := needCode m l
    let bundle := (bitsOf (m.lword key 8) 0 52, bitsOf (m.lword key 9) 0 21)
    if m.lstate key ≠ lLoading ∨ l.home ≠ key ∨ l.orphan ∨ l.stopping then .nop
    else if need.any fun g => asleep m g.1 || decide (m.fld (CP_COMPUTE (g.1 / 25)) CP_COMPUTE_PLL ≠ 2) then
      forEach need fun g => acts [onlyIf (asleep m g.1) (wakeReq g.1 m.now), wakePll (g.1 / 25)]
    else if need.isEmpty then runLaunch key
    else if !unitsMay m (m.lchamber key) [bundle] d then .nop
    else acts [unitsAdmit (m.lchamber key) [bundle] d,
      homeRead bundle.1 bundle.2 (some (m.lchamber key)) 0 e fun st bs =>
        if st ≠ stOk then refuseLaunch key 8
        else if Config.sha384 bs ≠ l.digest then refuseLaunch key 4
        else acts [forEach need (fun g => loadSorus l.digest bs g.1 g.2), runLaunch key]]) s

/-- The due time of a stage by its expected input (R178). -/
def inputDue (m : Mod) (l : Launch) (s : Machine.Stage) : Nat :=
  max l.ran.toNat (l.ran.toNat + s.firstInput - m.fld (CD_LAUNCH_CFG s.die) CD_LAUNCH_CFG_PREWAKE_NS)

/-- The due times of the stages on a die that have not been asked to wake. -/
def dueTimes (m : Mod) (d : Nat) : List Nat :=
  ((m.cdie d).launches.map fun l => if m.lstate (64 * d + l.1) = lRunning ∧ !l.2.stopping then
    ((l.2.stages.filter fun s => s.die = d ∧ !s.asked).map fun s => inputDue m l.2 s) else []).flatten

/-- The due time of a stage's pre-wake and its advance: 20 µs for a stopped PLL, which the first due wake of the die has
(R178), and 4 µs for deep off (R434). -/
def stageDue (m : Mod) (l : Launch) (s : Machine.Stage) : Nat × Nat :=
  let due := inputDue m l s
  let first := (dueTimes m s.die).all fun x => decide (due ≤ x)
  let deep := (List.range 25).any fun i => s.sori.getLsbD i && m.flag (CP_SORUS (25 * s.die + i)) CP_SORUS_DEEP
  (due, (if m.fld (CP_COMPUTE s.die) CP_COMPUTE_PLL = 0 ∧ first then 20000 else 0) + (if deep then 4000 else 0))

/-- A sorus that a wake request would wake: power-gated, and not asked for. -/
def unasked (m : Mod) (g : Nat) : Bool :=
  decide (m.domain g = 0) && !(m.cdie (g / 25)).wakeReqs.any (·.1 = g % 25)

/-- A stage's wake is due (R178): by its expected input, or by its wake counter. -/
def execStageWakeDue (d : Fin 8) (i : Fin 64) (st : Fin 64) (s : State) : Result := done (.look fun m =>
  let key := 64 * d.val + i.val
  match m.launch? key with
  | none => .nop
  | some l =>
    match l.stages[st.val]? with
    | none => .nop
    | some x =>
      let due := stageDue m l x
      let timed := decide (due.1 ≤ m.now.toNat + due.2)
      let counted := x.wakeCntEn && m.met x.wakeCnt (BitVec.ofNat 64 x.wakeTarget)
      let sori := ((List.range 25).filter fun i => x.sori.getLsbD i).map (25 * d.val + ·)
      if m.lstate key ≠ lRunning ∨ x.die ≠ d.val ∨ x.asked ∨ l.stopping ∨ !(timed || counted) then .nop
      else acts [
        modLaunch key (fun l => { l with stages := setAt l.stages st.val { x with asked := true } }),
        forEach (sori.filter (asleep m)) fun g => acts [
          onlyIf (timed && unasked m g) (bumpWrap (CD_WAKE_STAT d) CD_WAKE_STAT_PREWAKES 1),
          wakeReq g (if timed then BitVec.ofNat 64 (due.1 - due.2) else m.now)]]) s

/-! ### Ending (R180, R181, R185) -/

/-- True where a stage has nothing left to run: its thalli are idle, asleep or stopped, and it has started on every
sorus unless it is faulted or its launch stops. -/
def stageOver (m : Mod) (key : Nat) (l : Launch) (n : Nat) (s : Machine.Stage) : Bool :=
  (decide (s.started = s.sori) || l.stopping || bitOf (m.lword key 15) n) &&
  ((List.range 25).all fun i => !s.started.getLsbD i || (thalliOf (25 * s.die + i)).all fun t =>
    !decide ((m.thallus t).launch = some key) || !decide (m.thState t = thRunning ∨ m.thState t = thWaiting))

/-- The stages of an entry's own die. -/
def ownOver (m : Mod) (key : Nat) : Bool :=
  match m.launch? key with
  | none => true
  | some l => l.stages.zipIdx.all fun s => decide (s.1.die ≠ key / 64) || stageOver m key l s.2 s.1

/-- The queue entries of a launch are cancelled and go back to their pools, with one record (R180 step 1). -/
def cancelEntries (key d0 : Nat) : Act := .look fun m =>
  let on : Nat → Nat := fun d => ((m.cdie d).queues.filter fun q => q.2.launch = key).foldl
    (fun a q => a + q.2.pend.length) 0
  let total := (List.range 8).foldl (fun a d => a + on d) 0
  acts [
    forEach (List.range 8) (fun d => acts [returnEntries d (on d),
      modCDie d fun c => { c with queues := c.queues.map fun q =>
        if q.2.launch = key then (q.1, { q.2 with pend := [] }) else q }]),
    onlyIf (decide (0 < total)) (record (qDie d0) 0x0205 clsTransient .plain (some (m.lchamber key))
      (dpCompute 1 d0 0 0 0) (mpSteward d0) (detail [(32, 4, total), (40, 8, (m.lword key 1).toNat)]))]

/-- Counters bound by a launch (R180 step 2), as its entry holds them; a stage's WAKE_CNT is one of them (DESIGN CHOICE,
log 53). -/
def launchCounters (l : Launch) : List Nat :=
  (((l.stages.filter fun s => s.wakeCntEn).map fun s => s.wakeCnt) ++
    (l.routers.map fun r => [r.trig, r.doneCnt]).flatten ++ (l.gqs.map fun q => q.2.2.cnt) ++
    (l.sqs.map fun q => [q.dcnt, q.ccnt]).flatten).dedup

/-- True where a thallus of a launch has stopped at its deadline. -/
def deadlineRaised (m : Mod) (key : Nat) : Bool :=
  m.thalli.any fun e => (entriesOf m key).any (fun k => e.2.launch = some k) &&
    decide (m.thState e.1 = thStopped ∧ m.fld (thReg e.1) CD_THALLUS_STATE_EXCEPTION = exDeadline)

/-- The status of a launch at its end (R180). -/
def endStatus (m : Mod) (key : Nat) (l : Launch) : Nat :=
  if l.cancel = some csDeadline ∨ ((l.exc = exDeadline ∨ deadlineRaised m key) ∧ m.passed (m.lword key 13)) then csDeadline
  else if l.cancel = some csCancelled then csCancelled
  else if m.lword key 15 ≠ 0 then csFaulted
  else csDone

/-- DETAIL of a launch at its end (R180, R183): the code of the first faulted stage, and bit 7 where data was left. -/
def endDetail (m : Mod) (key : Nat) (l : Launch) : Nat :=
  (if m.lword key 15 ≠ 0 then l.exc else 0) + (if l.sqs.any fun q => m.counter q.dcnt ≠ 0 then 0x80 else 0)

/-- Steps 1 to 3 of R180. A counter whose memory-side die does not run is frozen (R27). -/
def letGo (key : Nat) (l : Launch) : Act := .look fun m =>
  let done' := bitsOf (m.lword key 12) 32 12
  let doneEn := bitOf (m.lword key 12) 44
  acts [
    cancelEntries l.home (key / 64),
    forEach ((launchCounters l).filter fun c => !(doneEn && decide (c = done')) && m.dieRuns (memDie (counterDie c)))
      (fun c => .look fun m => .upd (.consume c (m.counter c).toNat)),
    releaseBindings l.home]

/-- Ending (R180). -/
def endLaunch (key : Nat) : Act := .look fun m =>
  match m.launch? key with
  | none => .nop
  | some l => acts [
      forEach (entriesOf m key) (fun k => setLState k lEnding),
      letGo key l,
      onlyIf (bitOf (m.lword key 12) 44) (arrive (bitsOf (m.lword key 12) 32 12) 1),
      finishLaunch key (endStatus m key l) (endDetail m key l)]

/-- What a lost home entry kept for its launch, its stage queues and its gathering bindings, is kept by the lowest of the
satellites that are left (R184, R185; log 91). -/
def rehome (old : Nat) (l : Launch) (left : List Nat) : Act :=
  match left.foldl (fun a k => some (match a with | none => k | some x => min x k)) (none : Option Nat) with
  | none => .nop
  | some new => acts [
      forEach left (fun k => modLaunch k fun x => { x with
        home := new, orphan := true, satellites := left.filter (· ≠ new), sqs := l.sqs, cancel := l.cancel.or x.cancel }),
      forEach (List.range 8) fun d => modCDie d fun c => { c with
        routers := c.routers.map fun r => if r.2.launch = old then (r.1, { r.2 with
          launch := new
          batch := r.2.batch.map fun b => { b with sends := b.sends.map fun g => { g with launch := new } } }) else r
        queues := c.queues.map fun q => if q.2.launch = old then (q.1, { q.2 with
          launch := new, pend := q.2.pend.map fun g => { g with launch := new } }) else q }]

/-- The Ending of a satellite whose home entry is lost (R185): no arrival and no completion, but a record. What the launch
shares goes with the last of its entries (log 91). -/
def endOrphan (key : Nat) : Act := .look fun m =>
  match m.launch? key with
  | none => .nop
  | some l =>
    let left := (entriesOf m key).filter fun k => k ≠ key ∧ (m.launch? k).isSome
    acts [
      setLState key lEnding,
      onlyIf left.isEmpty (letGo key l),
      record (qDie (key / 64)) 0x0204 clsLasting .plain (some (m.lchamber key)) (dpCompute 1 (key / 64) 0 0 0)
        (mpSteward (key / 64)) (detail [(32, 8, (m.lword key 1).toNat), (40, 8, (m.lword key 15).toNat),
          (48, 1, endStatus m key l), (49, 1, endDetail m key l)]),
      onlyIf (decide (l.home = key)) (rehome key l left),
      freeEntry key]

/-- Every stage thallus of a launch is idle or stopped (R176, R180); a cancelled launch that loads ends too, and so does an
orphan that loads, which nothing will start. -/
def execLaunchEnding (d : Fin 8) (i : Fin 64) (s : State) : Result := done (.look fun m =>
  let key := 64 * d.val + i.val
  match m.launch? key with
  | none => .nop
  | some l =>
    let st := m.lstate key
    if l.orphan then onlyIf (decide (st = lLoading) || decide (st = lRunning) && ownOver m key) (endOrphan key)
    else if l.home = key then
      onlyIf ((decide (st = lRunning) && (entriesOf m key).all fun k => ownOver m k && m.dieRuns (k / 64) ||
          !m.dieRuns (k / 64)) || (decide (st = lLoading) && l.stopping)) (endLaunch key)
    else .nop) s

/-- DEADLINE passes (R181): a Pending launch completes; in a Running one, stages that have not started are faulted. -/
def execLaunchDeadline (d : Fin 8) (i : Fin 64) (s : State) : Result := done (.look fun m =>
  let key := 64 * d.val + i.val
  match m.launch? key with
  | none => .nop
  | some l =>
    if (l.home ≠ key ∧ !l.orphan) ∨ !m.passed (m.lword key 13) then .nop
    else if m.lstate key = lPending then finishLaunch key csDeadline 0
    else if m.lstate key = lRunning then acts [
      noteCancel key csDeadline,
      forEach (entriesOf m key) fun k => .look fun m =>
        match m.launch? k with
        | none => .nop
        | some x => forEach (x.stages.zipIdx.filter fun s => s.1.die = k / 64 ∧ s.1.started ≠ s.1.sori) fun s =>
            forEach (entriesOf m key) fun k2 => .look fun m =>
              setLWord k2 15 (m.lword k2 15 ||| BitVec.ofNat 64 (2 ^ s.2))]
    else .nop) s

end Sys2Proof.Machine
end

