-- ==== Sys2Proof/Machine/Lanes.lean ====
section
/-! DEFINITION. Physical lanes of a port (R364–R368, R381–R392): maps, spares, lane moves, calibration, comb-line moves
and feed handover (11_optical_ports_and_laser_feeds.md). -/

namespace Sys2Proof.Machine

/-! ### Modes, maps and spares (R21, R365, R283) -/

/-- The mode of an I/O die (R21): 0 matched, 1 lineage, 2 open. -/
def ioMode (m : Mod) (i : Nat) : Nat := m.fld MOD_DIE_MODE MOD_DIE_MODE_IO_MODE / 4 ^ i % 4

/-- Spare lanes per port of an I/O die: an open die has those agreed (R506). -/
def nSpares (m : Mod) (i : Nat) : Nat :=
  if ioMode m i = 0 then 2 else if ioMode m i = 1 then 0
  else min 2 (bitsOf (m.link (40 + i)).agreed (8 * 17) 8)

def noLane : Nat := 0x1F
def mapReg (tx : Bool) (p l : Nat) : Nat :=
  if tx then (if l < 8 then PT_TXMAP_LO p else PT_TXMAP_HI p) else (if l < 8 then PT_RXMAP_LO p else PT_RXMAP_HI p)
def mapFld (l : Nat) : Fld := ⟨8 * (l % 8), 5⟩
/-- The physical lane of a logical lane (R365). -/
def Mod.laneOf (m : Mod) (tx : Bool) (p l : Nat) : Nat := m.fld (mapReg tx p l) (mapFld l)
def setLane (tx : Bool) (p l x : Nat) : Act := setF (mapReg tx p l) (mapFld l) x
/-- The logical lane that a physical lane carries. -/
def Mod.logicalOn (m : Mod) (tx : Bool) (p x : Nat) : Option Nat := (List.range 16).find? fun l => m.laneOf tx p l = x

def useFld (x : Nat) : Fld := if x = 16 then PT_SPARE_USE16 else PT_SPARE_USE17
def logFld (x : Nat) : Fld := if x = 16 then PT_SPARE_LOGICAL16 else PT_SPARE_LOGICAL17
def feedFld (x : Nat) : Fld := if x = 16 then PT_SPARE_FEED16 else PT_SPARE_FEED17
/-- USE of a transmit spare: 0 free, 1 calibration, 2 moved, 3 retired lane, 4 training, 5 unusable, 6 shuttle. -/
def Mod.spareUse (m : Mod) (p x : Nat) : Nat := m.fld (PT_SPARE p) (useFld x)
def setSpare (p x use l : Nat) : Act := acts [
  setF (PT_SPARE p) (useFld x) use,
  setF (PT_SPARE p) (logFld x) (if use = 1 ∨ use = 2 ∨ use = 3 ∨ use = 6 then l else 0)]

def laneReg (tx : Bool) (p x : Nat) : Nat := if tx then PT_TX_LANE p x else PT_RX_LANE p x
def lockFld : Fld := PT_TX_LANE_LOCK
def levelFld : Fld := PT_TX_LANE_LEVEL
def activeFeed (m : Mod) (i : Nat) : Nat := 2 * i + m.fld (LS_DIE i) LS_DIE_ACTIVE
def lineLevel (m : Mod) (f l : Nat) : Nat := m.fld (LS_LINE f l) LS_LINE_LEVEL

/-- What R283 yields: a spare, lane 16 once its calibration is abandoned, or none. -/
inductive SparePick where
  | take (x : Nat)
  | afterCal
  | none
  deriving DecidableEq, Repr

/-- The spare a lane of a port takes (R283). A receive lane that asks for lane 16 while the neighbour calibrates over it has the
neighbour abandon that calibration (R390). -/
def pickSpare (m : Mod) (tx : Bool) (p : Nat) : SparePick :=
  let n := nSpares m (p / 8)
  let x := m.port p
  let free : Nat → Bool := fun s => decide (s < 16 + n) &&
    (if tx then decide (m.spareUse p s = 0) && !x.retiredTx.contains s
     else (m.logicalOn false p s).isNone && !x.retiredRx.contains s && !x.retraining.contains (s, false) &&
       decide (x.moveR.map (·.dst) ≠ some s))
  if free 16 ∨ (!tx ∧ x.calR) then .take 16
  else if tx ∧ 0 < n ∧ m.spareUse p 16 = 1 then .afterCal
  else if free 17 then .take 17
  else .none

/-! ### Frames (R382, R383) -/

/-- One step of CRC-8, polynomial 0x107, most significant bit first (log 20). -/
def crc8Bits : Nat → Nat → Nat
  | 0, c => c
  | n + 1, c => crc8Bits n (if c.testBit 7 then (2 * c % 0x100) ^^^ 0x07 else 2 * c)
def crc8 (bs : List Byte) : Nat := bs.foldl (fun c b => crc8Bits 8 (c ^^^ b.toNat)) 0

def frType (f : Word) : Nat := bitsOf f 0 4
def frLogical (f : Word) : Nat := bitsOf f 4 5
def frPhys (f : Word) : Nat := bitsOf f 9 5
def frCause (f : Word) : Nat := bitsOf f 14 3
def frEpoch (f : Word) : Nat := bitsOf f 32 16

/-- A frame of a port, with its CRC. -/
def mkFrame (type l x cause epoch serial : Nat) : Word :=
  let v := type + l % 32 * 2 ^ 4 + x % 32 * 2 ^ 9 + cause % 8 * 2 ^ 14 + epoch % 2 ^ 16 * 2 ^ 32 + serial % 2 ^ 8 * 2 ^ 48
  BitVec.ofNat 64 (v + crc8 (leBytes 7 v) * 2 ^ 56)

/-- A frame that is not ignored: its CRC and its epoch hold, and its TYPE is the command's. -/
def frameOk (m : Mod) (p : Nat) (type : Nat) (f : Word) : Bool :=
  decide (frType f = type ∧ bitsOf f 56 8 = crc8 (leBytes 7 (bitsOf f 0 56)) ∧
    frEpoch f = m.fld (FB_PORT_LINK p) FB_PORT_LINK_EPOCH)

def frMoveReq : Nat := 1
def frTrainStart : Nat := 2
def frTrained : Nat := 3
def frMirrorOn : Nat := 4
def frSwitched : Nat := 5
def frCalStart : Nat := 6
def frCalDone : Nat := 7
def frAbort : Nat := 8
def frMap : Nat := 9
def frAck : Nat := 10

/-- Sends a new frame; `slot` says whether it is repeated as the transmitter's (some true) or the receiver's (some
false), or not at all. -/
def sendFrame (p type l x cause : Nat) (slot : Option Bool) : Act := .look fun m =>
  let serial := ((m.port p).lmcSerial.toNat + 1) % 256
  let f := mkFrame type l x cause (m.fld (FB_PORT_LINK p) FB_PORT_LINK_EPOCH) serial
  acts [
    modPort p (fun y => { y with
      lmcSerial := BitVec.ofNat 8 serial
      lmcTx := if slot = some true then some ⟨f, 1⟩ else y.lmcTx
      lmcRx := if slot = some false then some ⟨f, 1⟩ else y.lmcRx }),
    emit (.lmc p f)]

/-- The feed that a transmit lane's selector names. -/
def laneFeed (m : Mod) (p x : Nat) : Nat := 2 * (p / 8) + m.fld (PT_TX_LANE p x) PT_TX_LANE_FEED

/-- A record about a lane of a port names its feed and comb line (R26, R282, R515): a transmit lane's the feed of its selector, a
receive lane's the active feed of its die (DESIGN CHOICE, log 94). -/
def laneRecordG (p : Nat) (tx : Bool) (l code cls : Nat) (g : Grade) (fs : List (Nat × Nat × Nat)) : Act := .look fun m =>
  record (qPort p) code cls g none (dpLane m p l)
    (mpath 3 mgmtDie 3 (if tx then laneFeed m p l else activeFeed m (p / 8)) l) (detail fs)
def laneRecord (p : Nat) (tx : Bool) (l code cls : Nat) (fs : List (Nat × Nat × Nat)) : Act :=
  laneRecordG p tx l code cls .plain fs

/-! ### Starting and queueing moves (R384, R385) -/

/-- Shows a move in `PT_MOVE`. -/
def showMove (p : Nat) (mv : Move) : Act := acts [
  setF (PT_MOVE p) PT_MOVE_STEP mv.step, setF (PT_MOVE p) PT_MOVE_DIR (if mv.tx then 0 else 1),
  setF (PT_MOVE p) PT_MOVE_LOGICAL mv.logical, setF (PT_MOVE p) PT_MOVE_FROM mv.src,
  setF (PT_MOVE p) PT_MOVE_TO mv.dst, setF (PT_MOVE p) PT_MOVE_CAUSE mv.cause]

def setMove (p : Nat) (tx : Bool) (mv : Option Move) : Act := acts [
  modPort p (fun x => if tx then { x with move := mv } else { x with moveR := mv }),
  (match mv with
   | some v => showMove p v
   | none => setF (PT_MOVE p) PT_MOVE_STEP 0)]

/-- A move begins now: the transmitter drives the training pattern, the receiver asks for it. -/
def beginMove (p : Nat) (mv : Move) : Act :=
  if mv.tx then acts [
    setMove p true (some { mv with step := 2 }),
    onlyIf (decide (16 ≤ mv.dst)) (setSpare p mv.dst 4 0),
    sendFrame p frTrainStart mv.logical mv.dst mv.cause (some true)]
  else acts [
    setMove p false (some { mv with step := 1 }),
    sendFrame p frMoveReq mv.logical mv.dst mv.cause (some false)]

/-- The first of a list of moves by stamp. -/
def firstMove (l : List Move) : Option Move :=
  l.foldl (fun a x => some (match a with | none => x | some y => if x.stamp.toNat < y.stamp.toNat then x else y)) none

/-- The port cannot move in a direction now. -/
def moving (m : Mod) (tx : Bool) (p : Nat) : Bool := if tx then (m.port p).move.isSome else (m.port p).moveR.isSome

/-- Stops a calibration that a move needs lane 16 from (R390): the settings are restored, then the lane moves back. -/
def abandonCal (p : Nat) : Act := .look fun m =>
  match m.calPhase with
  | some (q, l, ph) =>
    if q ≠ p ∨ ph = 5 ∨ ph = 6 ∨ ph = 8 then .nop
    else acts [
      .upd (.calPhase (some (p, l, if ph = 0 then 8 else 6))),
      setF (PT_CAL p) PT_CAL_ABANDONED 1,
      laneRecord p true l 0x0B07 clsTransient []]
  | none => .nop

/-- A wanted move: begun where the direction is free and a lane can be had, else queued; `dst` 0x1F asks for the spare
of R283. A lane for which no spare can be had stays where it is (R380); a suspect one's move waits for a spare to free
(R283). -/
def wantMove (p : Nat) (mv : Move) : Act := .look fun m =>
  let queue : Act := modPort p fun x => { x with queuedMoves := x.queuedMoves ++ [mv] }
  if moving m mv.tx p then queue
  else if mv.dst ≠ noLane then beginMove p mv
  else match pickSpare m mv.tx p with
    | .take x => beginMove p { mv with dst := x }
    | .afterCal => acts [queue, abandonCal p]
    | .none => onlyIf (decide (mv.cause = 0)) queue

/-- The logical lanes that a port's spares carry for retired lanes enter its service record (R473). -/
def keepSpares (p : Nat) : Act := .look fun m => modTrust fun t => { t with
  svcSpare := t.svcSpare.put p (([16, 17].filter fun s => m.spareUse p s = 3).map fun s => (s, m.fld (PT_SPARE p) (logFld s))) }

/-- The next waiting move of a direction that can be made (R385); one off a lane that its logical lane has left is dropped. -/
def nextMove (p : Nat) (tx : Bool) : Act := .look fun m =>
  if moving m tx p then .nop
  else
    let waits : Move → Bool := fun q =>
      decide (q.dst = noLane ∧ (pickSpare m tx p = .afterCal ∨ pickSpare m tx p = .none)) ||
      decide (tx = true ∧ q.dst = 16 ∧ m.spareUse p 16 = 1)
    match firstMove ((m.port p).queuedMoves.filter fun q => decide (q.tx = tx) && !waits q) with
    | none => .nop
    | some mv =>
      let mine : Move := { mv with src := m.laneOf tx p mv.logical }
      acts [
        modPort p (fun x => { x with queuedMoves := x.queuedMoves.filter fun q => q ≠ mv }),
        onlyIf (decide (mine.src ≠ mine.dst ∧ (mv.dst = noLane → mine.src = mv.src))) (wantMove p mine)]

/-- A move of a logical lane off the physical lane it rides, to the spare of R283. -/
def moveOff (p : Nat) (tx : Bool) (x cause : Nat) : Act := .look fun m =>
  match m.logicalOn tx p x with
  | none => .nop
  | some l => wantMove p { tx := tx, logical := l, src := x, dst := noLane, cause := cause, step := 0
                           retried := false, stamp := m.now }

/-- A move of a logical lane to a named physical lane. -/
def moveTo (p : Nat) (tx : Bool) (l x cause : Nat) : Act := .look fun m =>
  wantMove p { tx := tx, logical := l, src := m.laneOf tx p l, dst := x, cause := cause, step := 0
               retried := false, stamp := m.now }

/-! ### Comb-line moves (R387) and feed handover (R391–R393) -/

/-- A lane's selector is switched to a feed of its die and relocks (R364, R392). -/
def selectFeed (p x feed : Nat) : Act := acts [
  setF (PT_TX_LANE p x) PT_TX_LANE_FEED (feed % 2),
  setF (PT_TX_LANE p x) lockFld 1,
  onlyIf (decide (16 ≤ x)) (setF (PT_SPARE p) (feedFld x) (feed % 2))]

/-- A feed to which a die may hand over (R391). -/
def feedHealthy (m : Mod) (f : Nat) : Bool :=
  decide (m.fld (LS_FEED_STAT f) LS_FEED_STAT_STATE = 3) && m.flag (LS_FEED_STAT f) LS_FEED_STAT_FAULT_N &&
    (List.range 18).all fun l => lineLevel m f l < 2

/-- A record about a feed, by trusted firmware (R515, R518). -/
def feedRecord (f line code cls : Nat) (fs : List (Nat × Nat × Nat)) : Act :=
  record (qDie mgmtDie) code cls .plain none dpNone (mpath 3 mgmtDie 3 f line) (detail fs)

/-- The laser-enable latch of a feed (R371). -/
def setLaser (f : Nat) (on : Bool) : Act := acts [
  modPins (fun x => { x with laserEn :=
    if on then x.laserEn ||| BitVec.ofNat 16 (2 ^ f) else x.laserEn &&& ~~~(BitVec.ofNat 16 (2 ^ f)) }),
  setF (LS_FEED_STAT f) LS_FEED_STAT_EN (b01 on)]

/-- True where some lane of the die selects a feed. -/
def feedSelected (m : Mod) (f : Nat) : Bool :=
  (List.range 8).any fun q => m.portOpen (8 * (f / 2) + q) && (List.range 18).any fun x =>
    laneFeed m (8 * (f / 2) + q) x = f

/-- The commissioning store's mark of a failed feed (R398, R473). -/
def feedMark (f : Nat) (failed : Bool) : Act := modTrust fun t => { t with
  feedFailed := (t.feedFailed.filter (· ≠ f)) ++ if failed then [f] else [] }

/-- LASER_EN of a feed whose fault input is low, or that is to be disabled, falls once no lane selects it (R373,
R397). -/
def dropFeed (f : Nat) : Act := .look fun m =>
  onlyIf (m.pins.laserEn.getLsbD f && !feedSelected m f &&
      (!m.flag (LS_FEED_STAT f) LS_FEED_STAT_FAULT_N || !m.flag (LS_FEED_CTL f) LS_FEED_CTL_ENABLE))
    (acts [setLaser f false, setF (LS_FEED_STAT f) LS_FEED_STAT_STATE
      (if m.flag (LS_FEED_STAT f) LS_FEED_STAT_FAULT_N then 0 else 5),
      onlyIf (!m.flag (LS_FEED_STAT f) LS_FEED_STAT_FAULT_N) (feedMark f true)])

def modHand (i : Nat) (f : Hand → Hand) : Act := modIoDie i fun d => { d with hand := d.hand.map f }

/-- A handover ends (R392, R393). -/
def handEnd (i : Nat) : Act := .look fun m =>
  match (m.iodie i).hand with
  | none => .nop
  | some h => acts [
      modIoDie i (fun d => { d with hand := none }),
      setF (LS_DIE i) LS_DIE_ACTIVE (h.feed % 2),
      setF (LS_DIE i) LS_DIE_HANDOVER (if h.left then 4 else 2),
      bumpWrap (LS_DIE i) LS_DIE_HANDOVERS 1,
      dropFeed (2 * i + (1 - h.feed % 2))]

/-- The shuttle of the port at the head: its first lane still on the old feed moves to a spare; a port done gives way to
the next. `fuel` bounds the ports passed over at once. -/
def handStep (i : Nat) : Nat → Act
  | 0 => .nop
  | fuel + 1 => .look fun m =>
    match (m.iodie i).hand with
    | none => .nop
    | some h =>
      match h.ports with
      | [] => handEnd i
      | p :: rest =>
        match h.unwind, h.spares, h.shuttle with
        | l :: _, _, _ => acts [setF (LS_DIE i) LS_DIE_LANE l, selectFeed p l h.feed]
        | [], _ :: _, _ => forEach h.spares fun x => selectFeed p x h.feed
        | [], [], x :: _ => acts [setF (LS_DIE i) LS_DIE_LANE x, moveOff p true x 4]
        | [], [], [] => acts [
            modHand i (fun h => { h with ports := rest }),
            .look fun m => match rest with
              | [] => handEnd i
              | q :: _ =>
                acts [setF (LS_DIE i) LS_DIE_PORT (q % 8),
                  if !m.portOpen q then acts [
                    forEach (List.range 18) (fun x => acts [setF (PT_TX_LANE q x) PT_TX_LANE_FEED (h.feed % 2),
                      onlyIf (decide (16 ≤ x)) (setF (PT_SPARE q) (feedFld x) (h.feed % 2))]),
                    handStep i fuel]
                  else
                    let moved := [16, 17].filter fun x => m.spareUse q x = 2
                    let free := [16, 17].filter fun x => m.spareUse q x = 0 ∨ m.spareUse q x = 2
                    if free.isEmpty then acts [modHand i (fun h => { h with left := true }), handStep i fuel]
                    else acts [
                      modHand i (fun h => { h with
                        unwind := moved.map fun x => m.fld (PT_SPARE q) (logFld x)
                        spares := free
                        shuttle := (List.range 18).filter fun x =>
                          laneFeed m q x ≠ h.feed ∧ (m.logicalOn true q x).isSome ∧ !moved.contains x }),
                      handStep i fuel]]]

/-- The handover of a die goes on: a move of cause 4 on a port has ended. -/
def handMoved (p : Nat) (mv : Move) : Act := .look fun m =>
  match (m.iodie (p / 8)).hand with
  | none => .nop
  | some h =>
    if h.ports.head? ≠ some p then .nop
    else match h.unwind, h.shuttle with
      | l :: ls, _ => onlyIf (decide (mv.dst = l)) (acts [modHand (p / 8) (fun h => { h with unwind := ls }),
          handStep (p / 8) 9])
      | [], x :: xs =>
        if mv.dst = x then acts [modHand (p / 8) (fun h => { h with shuttle := xs }), handStep (p / 8) 9]
        else selectFeed p x h.feed
      | [], [] => .nop

/-- A selector of the port being handed over has relocked (R392). -/
def handRelocked (p x : Nat) : Act := .look fun m =>
  match (m.iodie (p / 8)).hand with
  | none => .nop
  | some h =>
    if h.ports.head? ≠ some p then .nop
    else match h.unwind, h.spares, h.shuttle with
      | l :: _, _, _ => onlyIf (decide (l = x)) (moveTo p true l l 4)
      | [], _ :: _, _ =>
        let rest := h.spares.filter (· ≠ x)
        acts [modHand (p / 8) (fun h => { h with spares := rest }), onlyIf rest.isEmpty (handStep (p / 8) 9)]
      | [], [], y :: _ => onlyIf (decide (y = x)) (match [16, 17].find? fun s => m.spareUse p s = 6 with
          | some s => match m.logicalOn true p s with
            | some l => moveTo p true l x 4
            | none => .nop
          | none => .nop)
      | [], [], [] => .nop

/-- A die hands its ports over to its other feed, or waits for it to be healthy (R391). Comb-line moves still to make
are left to the handover (R395). A lineage die, whose ports have no spare, is only marked: its ports reset in turn
(R368, `lineageHand`). -/
def handStart (i : Nat) (feed : Nat) : Act := .look fun m =>
  if (m.iodie i).hand.isSome ∨ feed = activeFeed m i then .nop
  else if !feedHealthy m feed then
    onlyIf (decide (m.fld (LS_DIE i) LS_DIE_HANDOVER ≠ 3)) (acts [
      setF (LS_DIE i) LS_DIE_HANDOVER 3,
      feedRecord feed 0 0x0B08 clsLasting []])
  else if ioMode m i = 1 then acts [
    modIoDie i fun d => { d with comb := [], hand := some { feed := feed, ports := [], unwind := [], spares := []
                                                            shuttle := [], left := false } },
    setF (LS_DIE i) LS_DIE_HANDOVER 1]
  else acts [
    forEach (List.range 8) (fun q => abandonCal (8 * i + q)),
    setF (LS_DIE i) LS_DIE_HANDOVER 1,
    modIoDie i fun d => { d with
      comb := []
      hand := some { feed := feed, ports := 64 :: (List.range 8).map (8 * i + ·), unwind := [], spares := []
                     shuttle := [], left := false } },
    handStep i 9]

/-- The epoch of the port being handed over has closed: the handover resumes at the next port (R395). -/
def handSkip (p : Nat) : Act := .look fun m =>
  match (m.iodie (p / 8)).hand with
  | none => .nop
  | some h => onlyIf (decide (h.ports.head? = some p)) (acts [
      modHand (p / 8) (fun h => { h with unwind := [], spares := [], shuttle := [] }),
      handStep (p / 8) 9])

/-- The comb-line moves of a die go on, a port at a time (R387); a port for which no spare can be had calls for a
handover (R391). -/
def combStep (i : Nat) : Nat → Act
  | 0 => .nop
  | fuel + 1 => .look fun m =>
    match (m.iodie i).comb with
    | [] => .nop
    | (l, p) :: rest =>
      let skip : Act := acts [modIoDie i (fun d => { d with comb := rest }), combStep i fuel]
      let rides := decide (l < 16 ∧ m.laneOf true p l = l ∧ laneFeed m p l = activeFeed m i) && m.portOpen p
      if !rides then skip
      else if moving m true p then .nop
      else match pickSpare m true p with
        | .take x => moveTo p true l x 1
        | .afterCal => abandonCal p
        | .none => acts [skip, handStart i (2 * i + (1 - activeFeed m i % 2))]

/-- A port of the die is free to go on with its comb-line move. -/
def combNext (p : Nat) : Act := combStep (p / 8) 64

/-! ### Completed and abandoned moves (R383, R384) -/

def Mod.calPort (m : Mod) : Option Nat := m.calPhase.map (·.1)

/-- A calibration ends: passed, abandoned or failed. -/
def endCal (p : Nat) (pass : Bool) : Act := acts [
  .upd (.calPhase none),
  setF LS_CAL LS_CAL_ACTIVE 0,
  setF (PT_CAL p) PT_CAL_START 0,
  onlyIf pass (bumpWrap (PT_CAL p) PT_CAL_PASSES 1)]

/-- The transmitter stops driving the old lane and updates its map (R384); the spare's use follows the cause. -/
def endTxMove (p : Nat) (mv : Move) : Act := .look fun m =>
  let x := m.port p
  let use := if x.retiredTx.contains mv.logical then 3 else if mv.cause = 3 then 1 else if mv.cause = 4 then 6 else 2
  acts [
    setMove p true none,
    modPort p (fun x => { x with lmcTx := none }),
    setLane true p mv.logical mv.dst,
    bumpWrap (PT_MOVE p) PT_MOVE_MOVES 1,
    onlyIf (decide (16 ≤ mv.src)) (setSpare p mv.src
      (if x.retiredTx.contains mv.src ∨ 2 ≤ lineLevel m (laneFeed m p mv.src) mv.src then 5 else 0) 0),
    onlyIf (decide (16 ≤ mv.dst)) (setSpare p mv.dst use mv.logical),
    onlyIf (decide (use = 3)) (keepSpares p),
    laneRecord p true mv.dst (if mv.cause = 0 then 0x0702 else 0x0B00) clsTransient
      [(32, 1, mv.logical), (33, 1, mv.src), (34, 1, mv.dst), (35, 1, mv.cause)],
    onlyIf (decide (mv.cause = 5)) (modPort p fun x => { x with suspTx := x.suspTx.filter (· ≠ mv.dst) }),
    (match m.calPhase with
     | some (q, l, ph) =>
       if q ≠ p ∨ l ≠ mv.logical then .nop
       else if mv.cause = 3 ∧ ph = 0 then
         acts [.upd (.calPhase (some (p, l, 1))), sendFrame p frCalStart l l 3 (some true)]
       else if mv.cause = 3 then acts [.upd (.calPhase (some (p, l, 6)))]
       else if mv.cause = 5 then endCal p (decide (ph = 5))
       else .nop
     | none => .nop),
    onlyIf (decide (mv.cause = 4)) (handMoved p mv),
    nextMove p true,
    combNext p]

/-- The receiver has switched and its SWITCHED is acknowledged: its move is over. -/
def endRxMove (p : Nat) (mv : Move) : Act := acts [
  setMove p false none,
  modPort p (fun x => { x with
    lmcRx := none
    suspRx := if mv.cause = 5 then x.suspRx.filter (· ≠ mv.dst) else x.suspRx
    calR := if mv.dst = 16 then decide (mv.cause = 3) else x.calR && decide (mv.src ≠ 16) }),
  bumpWrap (PT_MOVE p) PT_MOVE_MOVES 1,
  nextMove p false]

/-- A move is abandoned (R383): the spare is free again, and the move is tried once more; a second time the spare is
retrained. `again` is false where the other side ends it. A calibration whose move is not retried ends with it. -/
def abandonMove (p : Nat) (mv : Move) (abort again : Bool) : Act := .look fun m =>
  let ofCal := mv.tx && (match m.calPhase with
    | some (q, l, ph) => decide (q = p ∧ l = mv.logical ∧ (mv.cause = 3 ∨ mv.cause = 5)) &&
        (!again || mv.retried || decide (ph = 8))
    | none => false)
  acts [
  onlyIf abort (sendFrame p frAbort mv.logical mv.dst mv.cause none),
  setMove p mv.tx none,
  modPort p (fun x => if mv.tx then { x with lmcTx := none } else { x with lmcRx := none }),
  onlyIf (mv.tx && decide (16 ≤ mv.dst)) (setSpare p mv.dst 0 0),
  onlyIf abort (laneRecord p mv.tx mv.dst 0x0B02 clsTransient
    [(32, 1, mv.logical), (33, 1, mv.src), (34, 1, mv.dst), (35, 1, mv.cause)]),
  if ofCal then acts [setF (PT_CAL p) PT_CAL_ABANDONED 1, endCal p false]
  else if !again then .nop
  else if !mv.retried then
    modPort p fun x =>
      let mv' : Move := { mv with retried := true, step := 0, dst := if 16 ≤ mv.dst then noLane else mv.dst }
      { x with queuedMoves := mv' :: x.queuedMoves }
  else onlyIf (decide (16 ≤ mv.dst)) (acts [
    onlyIf mv.tx (setSpare p mv.dst 4 0),
    modPort p fun x => { x with retraining := x.retraining ++ [(mv.dst, mv.tx)] }]),
  nextMove p mv.tx,
  combNext p]

/-- Everything under way on a port's lanes is abandoned as its epoch closes (R395): maps already switched stand. -/
def dropMoves (p : Nat) : Act := .look fun m => acts [
  modPort p (fun x => { x with move := none, moveR := none, queuedMoves := [], lmcTx := none, lmcRx := none
                               retraining := [] }),
  setF (PT_MOVE p) PT_MOVE_STEP 0,
  onlyIf (decide (m.calPort = some p)) (acts [
    endCal p false, setF (PT_CAL p) PT_CAL_ABANDONED 1,
    (match m.calPhase with
     | some (_, l, _) => laneRecord p true l 0x0B07 clsTransient []
     | none => .nop)]),
  handSkip p]

/-- The maps and spares of a port as its epoch opens (R366): a retired lane rides the spare that holds it, a lane whose
line of the active feed is at or beyond the swap threshold rides a spare. A half-width port keeps its half (R284). -/
def openMaps (p : Nat) : Act := .look fun m =>
  let x := m.port p
  let n := nSpares m (p / 8)
  let holds : Nat → Option Nat := fun l => [16, 17].find? fun s =>
    m.spareUse p s = 3 ∧ m.fld (PT_SPARE p) (logFld s) = l
  let off : Nat → Bool := fun l => m.flag (FB_PORT_LINK p) FB_PORT_LINK_HALF &&
    decide (l / 8 ≠ m.fld (FB_PORT_LINK p) FB_PORT_LINK_UPPER)
  let usable := [16, 17].filter fun s => s < 16 + n ∧ m.spareUse p s ≠ 3 ∧ !x.retiredTx.contains s ∧
    lineLevel m (activeFeed m (p / 8)) s < 2
  let faded := (List.range 16).filter fun l => 2 ≤ lineLevel m (laneFeed m p l) l ∧ !x.retiredTx.contains l
  let pairs := faded.zip usable
  acts [
    forEach [16, 17] (fun s => onlyIf (decide (m.spareUse p s ≠ 3)) (acts [
      setSpare p s (if n ≤ s - 16 ∨ x.retiredTx.contains s ∨ 2 ≤ lineLevel m (activeFeed m (p / 8)) s then 5 else 0) 0,
      (match pairs.find? fun q => q.2 = s with
       | some q => setSpare p s 2 q.1
       | none => .nop)])),
    forEach (List.range 16) (fun l => setLane true p l (if off l then noLane
      else match holds l with
        | some s => s
        | none => ((pairs.find? fun q => q.1 = l).map (·.2)).getD l)),
    forEach (List.range 16) fun l => setLane false p l (if off l then noLane
      else if x.retiredRx.contains l then (if 16 ≤ m.laneOf false p l then m.laneOf false p l else l) else l)]

/-- The transmitter announces its map, one frame a logical lane (R366, R382). -/
def sendMap (p : Nat) : Act := forEach (List.range 16) fun l => .look fun m =>
  sendFrame p frMap l (m.laneOf true p l) 0 none

end Sys2Proof.Machine
end

