-- ==== Sys2Proof/Machine/Links.lean ====
section
/-! DEFINITION. Link epochs, port resets, routing tables, notices and chamber states: what several events of the fabric
share (R290–R297, R309–R319, 08 and 09), with the rings that follow a chamber's state (R485) and the watch lines of a
Volosh port (R409, R410). -/

namespace Sys2Proof.Machine

/-! ### Rings and chamber states (R318, R417, R485) -/

/-- Serial order of 32-bit sequence numbers (R460): `a` lies above `b`. -/
def serialAbove (a b : BitVec 32) : Bool := decide (1 ≤ (a - b).toNat ∧ (a - b).toNat < 2 ^ 31)

/-- A ring starts watching at its START_SEQ, unless a binding has sealed at or above it (R417). -/
def startRing (d r : Nat) : Act := .look fun m =>
  let start : BitVec 32 := BitVec.ofNat 32 (m.fld (CD_RING_CTL d r) CD_RING_CTL_START_SEQ)
  let x := m.ring d r
  let under : Option (BitVec 32) → Bool := fun o => match o with
    | none => true
    | some v => serialAbove start v
  if bound m (ringChamber m d r) && !(under x.sealedIn && under x.sealedOut) then
    acts [setF (CD_RING_CTL d r) CD_RING_CTL_RESET 0,
      record (qDie d) 0x0C02 clsLasting .plain (some (ringChamber m d r)) (dpCompute 1 d 0 0 0) (mpSteward d)
        (detail [(32, 1, r)])]
  else acts [
    setF (CD_RING_CTL d r) CD_RING_CTL_RESET 0,
    modRing d r (fun x => { x with cseq := start, reading := false, reread := false }),
    setF (CD_RING_STATE d r) CD_RING_STATE_EXPECT start.toNat,
    setF (CD_RING_STATE d r) CD_RING_STATE_STATE 1]

/-- The rings that the image defines for a chamber, as (die, ring). -/
def ringsOf (m : Mod) (k : Nat) : List (Nat × Nat) :=
  ((List.range 8).map fun d => (m.regs.filterMap fun e =>
    if CD_RING_CTL d 0 ≤ e.1 ∧ e.1 < CD_RING_CTL d 256 ∧ (e.1 - CD_RING_CTL d 0) % 0x20 = 0 then
      some (d, (e.1 - CD_RING_CTL d 0) / 0x20) else none).filter fun x =>
        m.flag (CD_RING_CTL x.1 x.2) CD_RING_CTL_ENABLE && decide (ringChamber m x.1 x.2 = k)).flatten

def chHeld : Nat := 0
def chReady : Nat := 1
def chDegraded : Nat := 2
def chRefused : Nat := 3

/-- The stacks a chamber owns. -/
def stacksOf (m : Mod) (k : Nat) : List Nat := (List.range 32).filter fun s => stackOwner m s = some k

/-- True where the rings of a chamber may be watched (R485). -/
def ringsAllowed (m : Mod) (k : Nat) : Bool :=
  decide ((m.chamber k).st = chReady ∨ (m.chamber k).st = chDegraded) && (stacksOf m k).all (stackServes m)

/-- The rings of a chamber start or stop watching (R485). -/
def serveRings (k : Nat) : Act := .look fun m =>
  forEach (ringsOf m k) fun x =>
    let st := m.fld (CD_RING_STATE x.1 x.2) CD_RING_STATE_STATE
    if ringsAllowed m k && decide (st = 0) && m.dieRuns x.1 then startRing x.1 x.2
    else if !ringsAllowed m k && decide (st = 1) then setF (CD_RING_STATE x.1 x.2) CD_RING_STATE_STATE 0
    else .nop

/-- The rings of the chamber that owns a stack. -/
def serveStack (s : Nat) : Act := .look fun m =>
  match stackOwner m s with
  | some k => serveRings k
  | none => .nop

/-- True where the routing tables hold a route to a module (R318). -/
def reachable (m : Mod) (id : Nat) : Bool :=
  let g := galleryOf id
  if id = m.selfId then true
  else if 289 ≤ g then (List.range 64).any fun p => m.planKind p = 5 ∧ (m.port p).peer = some (BitVec.ofNat 14 id) ∧
    m.portUp p
  else if g = galleryOf m.selfId then !(galleryPorts m (slotOf id)).isEmpty
  else !(m.fabric.passage.getD g []).isEmpty

/-- The member modules of a chamber (R317, R469): the own module and those of the ranges. -/
def memberIds (m : Mod) (k : Nat) : List Nat :=
  let rs := (m.chamber k).members.filter fun w => bitOf w 28
  let ids := (rs.map fun w =>
    ((List.range (bitsOf w 9 9 + 1 - bitsOf w 0 9)).map fun g =>
      (List.range (bitsOf w 23 5 + 1 - bitsOf w 18 5)).map fun s =>
        32 * (bitsOf w 0 9 + g) + (bitsOf w 18 5 + s)).flatten).flatten
  (m.selfId :: ids).dedup

/-- A chamber's state changes, with its record (R318, R554). -/
def setChamber (k st : Nat) : Act := .look fun m =>
  let c := m.chamber k
  if c.st = st then .nop
  else
    let n := ((memberIds m k).filter (reachable m)).length
    acts [
      modChamber k (fun c => { c with st := st }),
      record (qDie mgmtDie) 0x0903 (if st = chDegraded ∨ st = chRefused then clsLasting else clsTransient)
        (if st = chRefused then .critical else .plain) (some k) dpNone mpTfw
        (detail [(32, 1, k), (33, 1, c.st), (34, 1, st), (36, 2, c.tag.toNat), (40, 2, n), (42, 2, c.minMembers)]),
      serveRings k]

/-- The state decision of R318 as reachability and time now stand. A chamber of a module in maintenance mode, or being
cleared, stays Held. -/
def decideChamber (k : Nat) : Act := .look fun m =>
  let c := m.chamber k
  if !c.valid ∨ c.clearing ∨ !m.fabric.started then .nop
  else
    let ids := memberIds m k
    let n := (ids.filter (reachable m)).length
    let full := decide (n = ids.length)
    let enough := c.startPolicy && decide (c.minMembers ≤ n)
    if c.st = chHeld then
      (if m.trust.maint then .nop
       else if full then setChamber k chReady
       else if !m.fabric.discPassed then .nop
       else if enough then setChamber k chDegraded
       else setChamber k chRefused)
    else if c.st = chReady then onlyIf (!full) (setChamber k chDegraded)
    else if full then setChamber k chReady
    else onlyIf (decide (c.st = chRefused) && enough) (setChamber k chDegraded)

def decideChambers : Act := forEach (List.range 8) decideChamber

/-! ### Routing tables and notices (R314, R315) -/

/-- The admitted ports of a peer pair, for each slot of the own gallery. -/
def galleryTable (m : Mod) : SMap (List Nat) :=
  (List.range 32).filterMap fun s =>
    let ps := (List.range 64).filter fun p => (m.planKind p = 1 ∨ m.planKind p = 2) ∧ m.portUp p ∧
      (m.port p).peer = some (BitVec.ofNat 14 (32 * galleryOf m.selfId + s))
    if ps.isEmpty then none else some (s, ps)

/-- The galleries that the module's up passage ports reach, with the port. -/
def ownPassages (m : Mod) : List (Nat × Nat) :=
  (List.range 64).filterMap fun p =>
    if m.planKind p = 3 ∧ m.portUp p then (m.port p).peer.map fun id => (galleryOf id.toNat, p) else none

/-- The holders of passages to each gallery, by slot and then port (R314): all of them with STANDBY_PASSAGES, else the
first. The port of another member's passage is not this module's to know and is given as 0. -/
def passageTable (m : Mod) (gal : SMap (List Nat)) : SMap (List (Nat × Nat)) :=
  let own := ownPassages m
  let me := slotOf m.selfId
  (List.range 289).filterMap fun g =>
    let mine := ((own.filter fun x => x.1 = g).map fun x => (me, x.2))
    let others := (m.fabric.reach.filter fun r => r.2.getLsbD g ∧ (gal.get? r.1).isSome).map fun r => (r.1, 0)
    let all := (others.filter fun x => x.1 < me) ++ mine ++ others.filter fun x => me < x.1
    let kept := if m.trust.image.standby then all else all.take 1
    if kept.isEmpty then none else some (g, kept)

/-- TIME_DIST of the module. -/
def timeDist (m : Mod) : Nat := m.fld TM_STATUS TM_STATUS_DIST

/-- The data of a ROUTE_NOTICE (R315). -/
def noticeData (m : Mod) (serial : Nat) : List Byte :=
  let reach := maskOf ((ownPassages m).map (·.1)).dedup
  leBytes 8 (m.selfId + serial % 2 ^ 32 * 2 ^ 16) ++ leBytes 40 reach ++ leBytes 8 (timeDist m)

/-- The ports on which notices go: every up port of kind 1 or 2. -/
def noticePorts (m : Mod) : List Nat :=
  (List.range 64).filter fun p => (m.planKind p = 1 ∨ m.planKind p = 2) ∧ m.portUp p

/-- One notice to every member (R314, R315). -/
def sendNotices : Act := .look fun m =>
  let serial := m.fabric.serial.toNat + 1
  acts [
    modFabric fun f => { f with serial := f.serial + 1 },
    forEach (noticePorts m) fun p => requestVc3 p 0x83 0 (noticeData m serial)]

/-- The tables are filled anew and the chambers decided; with `announce` the members are told (R314). -/
def rebuildRoutes (announce : Bool) : Act := acts [
  .look fun m =>
    let gal := galleryTable m
    modFabric fun f => { f with gallery := gal, passage := passageTable m gal },
  onlyIf announce sendNotices,
  decideChambers]

/-! ### Volosh ports (R400, R409, R410) -/

/-- Which Volosh port a port is (R399). -/
def voloshIndex (m : Mod) (p : Nat) : Option Nat :=
  if m.flag VL_PORTS VL_PORTS_PORT0_VALID ∧ m.fld VL_PORTS VL_PORTS_PORT0 = p then some 0
  else if m.flag VL_PORTS VL_PORTS_PORT1_VALID ∧ m.fld VL_PORTS VL_PORTS_PORT1 = p then some 1 else none
def voloshFld (i : Nat) : Fld := if i = 0 then VL_PORTS_STATE0 else VL_PORTS_STATE1
def voloshState (m : Mod) (i : Nat) : Nat := m.fld VL_PORTS (voloshFld i)

/-- The agent that watches a line is woken and re-reads it with RD_SHARED (R409). -/
def wakeWatch (off : Nat) (w : Nat × Nat) : Act := .look fun m => acts [
  bumpWrap VL_STAT VL_STAT_WAKES 1,
  if w.1 < 8 then onlyIf (ringServed m w.1 w.2 && decide (watchOff m w.1 w.2 = off)) (readWatch w.1 w.2)
  else onlyIf (bound m (w.1 - 8)) (watchLine off w)]

/-- A written line is written back, and so leaves the module (R406, R408). -/
def writeBackLine (off : Nat) (l : VLine) : Act := acts [
  modVolosh (fun v => { v with lines := v.lines.del off }),
  vRequest opWb off l.data none,
  lineCounts]

/-- The lines and requests of a lost Volosh port move to the other one, where that is up (R410). -/
def voloshMove (i : Nat) : Act := .look fun m =>
  if voloshState m (1 - i) ≠ 2 then .nop
  else
    let on : Nat → Bool := fun off => decide (off / 2 ^ 12 % 2 = i)
    let lost := m.fld VL_PORTS (if i = 0 then VL_PORTS_PORT0 else VL_PORTS_PORT1)
    let rs := m.volosh.reqs.filter fun r => r.port = some lost
    let moved : VReq → VReq := fun r => if r.port = some lost then { r with port := some (voloshPort m r.off) } else r
    acts [
      forEach rs (fun r => emit (vPacket m r.opc 0 0 r.tag r.off (vRlen r.opc) r.data)),
      modVolosh (fun v => { v with reqs := v.reqs.map moved }),
      bumpSat VL_LINES VL_LINES_REISSUED rs.length,
      forEach (m.volosh.lines.filter fun l => on l.1) (fun l => match l.2.watch with
        | some w => wakeWatch l.1 w
        | none => .nop),
      forEach (m.volosh.lines.filter fun l => on l.1 ∧ l.2.owned ∧ l.2.written) fun l => writeBackLine l.1 l.2]

/-! ### Closing an epoch (R292) -/

/-- A packet's flits at an output queue that come after the last flit that ends a packet of the same input are those of
a packet not complete: they are taken out. -/
def dropIncomplete (pid : Nat) (l : List OutFlit) : List OutFlit :=
  (l.reverse.foldl (fun (a : List OutFlit × Bool) f =>
    if f.pid = pid then (if a.2 || flLast f.flit then (f :: a.1, true) else a) else (f :: a.1, a.2)) ([], false)).1

/-- The requester at an output arbiter of what enters by (port, VC). -/
def pidOf (p j : Nat) : Nat := 1 + 8 * p + j

/-- The abort flit that completes a packet downstream (R268). -/
def abortFlit (h : Header) (vc pid src : Nat) : OutFlit :=
  ⟨mkFlit 0 0 3 true h.net vc false, pid, src, none, h.stamp, h.chamber⟩

/-- The packet that (port, VC) was receiving is cut short (R268, R292): what waits of it is discarded, and what has gone
downstream is completed by an abort flit. -/
def cutPacket (p j : Nat) (x : Partial) : Act :=
  match x.goes with
  | .out q vc => acts [
      modPort q (fun y => { y with outq := dropIncomplete (pidOf p j) y.outq }),
      .look fun m => onlyIf (decide ((m.port q).owner.get? ((if x.hdr.net then 4 else 0) + vc) = some (pidOf p j)))
        (enqueue q (abortFlit x.hdr vc (pidOf p j) (p % 8)))]
  | _ => .nop

/-- Cells of (port, VC) that flits waiting at output queues hold. -/
def cellsWaiting (m : Mod) (p j : Nat) : Nat :=
  m.ports.foldl (fun a q => a + (q.2.outq.filter fun f => f.cell = some (p, j)).length) 0

/-- The cause of R554 for what a closing epoch retires: 7 at the end of a withdrawal, else 4. -/
def closeCause (m : Mod) : Nat := if m.fabric.withdrawing then 7 else 4

/-- The credits and cells of (port, VC) at the close (R292): outstanding grants and cells of discarded packets are retired, and
a record gives the unspent credits as sender. Those are units of the neighbour's pool, of which no count is here (R285): their
record names the port's own index of that VC (DESIGN CHOICE, log 95). -/
def retireCredits (p j : Nat) : Act := .look fun m =>
  let x := m.port p
  let kept := cellsWaiting m p j
  let lost := x.unused j + (x.occupied.getD j 0 - kept)
  acts [
    modPort p (fun y => { y with occupied := y.occupied.put j kept }),
    modPool (linkPool p j) (fun q => { q with retired := q.retired + lost }),
    retireRecord (qPort p) (linkPool p j) (closeCause m) lost,
    retireRecord (qPort p) (linkPool p j) (closeCause m) (x.credit j),
    giveBack p j lost]

/-- A port at the close of its epoch: what belongs to the epoch is gone. -/
def Port.close (x : Port) : Port :=
  { x with
    expect := 0
    txSeq := 0
    retryBuf := []
    dropping := false
    raw := none
    fails := 0
    ctlHeard := false
    granted := []
    spent := []
    rxGranted := []
    rxGot := []
    asm := []
    outq := []
    owner := []
    stage := 0
    peerStage := 0
    attempts := 0
    peer := none
    verdictOut := 0
    verdictIn := none
    nonce := 0
    peerNonce := []
    peerLocked := false
    peerDist := 255
    calR := false }

/-- An epoch closes (R292): `st` is the state the port takes, `cls` the class of the record. -/
def closeEpoch (p st cls : Nat) : Act := .look fun m =>
  if !m.portOpen p then setLink p st
  else acts [
    forEach (m.port p).outq (fun f => freeOpt f.cell),
    forEach (List.range 64) (fun q => modPort q fun y => { y with asm := y.asm.map fun e =>
      match e.2.goes with
      | .out o _ => if o = p then (e.1, { e.2 with goes := .dropped }) else e
      | _ => e }),
    .look fun m => forEach (m.port p).asm fun e => cutPacket p e.1 e.2,
    modPort p (fun x => { x with outq := [] }),
    setLink p st,
    forEach (List.range 8) (fun j => retireCredits p j),
    .look fun m =>
      let n := (m.port p).retryBuf.length
      acts [modPool (retryPool p) fun q => { q with retired := q.retired + n }, retireRecord (qPort p) (retryPool p) (closeCause m) n],
    modPort p Port.close,
    dropMoves p,
    bumpWrap (FB_PORT_LINK p) FB_PORT_LINK_CLOSES 1,
    portRecord p 0x0706 cls .plain [],
    scoreEvent (scPort p) 50,
    .look fun m => match voloshIndex m p with
      | some i => acts [setF VL_PORTS (voloshFld i) 0, voloshMove i]
      | none => rebuildRoutes true]

/-- A port reset (R281, R489): the epoch closes, the arbiter's pointer is 0 again (R35) and every lane trains; the record names
its cause (R554). -/
def portReset (p cause : Nat) : Act := .look fun m => acts [
  modPort p (fun x => { x with ptr := 0 }),
  closeEpoch p lkTraining (if cause = 3 then clsTransient else clsLasting),
  portRecord p 0x0705 (if cause = 3 then clsTransient else clsLasting) .plain
    [(32, 1, p), (33, 1, 0), (34, 1, cause), (36, 2, m.fld (FB_PORT_LINK p) FB_PORT_LINK_EPOCH + 1)],
  scoreEvent (scPort p) 100]

/-- A port fail-stop (R284, R288). -/
def failStop (p cause : Nat) : Act := acts [
  closeEpoch p lkStopped clsLasting,
  portRecord p 0x0705 clsLasting .critical [(32, 1, p), (33, 1, 1), (34, 1, cause)]]

/-! ### Retiring lanes (R282–R284) -/

/-- Bits SUSPECT and RETIRED of a port (R296). -/
def laneBits (p : Nat) : Act := .look fun m =>
  let x := m.port p
  acts [setF (FB_PORT_LANE p) FB_PORT_LANE_SUSPECT (maskOf (x.suspTx ++ x.suspRx)),
    setF (FB_PORT_LANE p) FB_PORT_LANE_RETIRED (maskOf (x.retiredTx ++ x.retiredRx))]

/-- The port goes to half width, on the half whose physical lanes all work, or is fail-stopped (R284). -/
def halfWidth (p : Nat) : Act := .look fun m =>
  let x := m.port p
  let works : Nat → Bool := fun l =>
    !(x.retiredTx.contains (m.laneOf true p l)) && !(x.retiredRx.contains (m.laneOf false p l)) &&
      decide (m.laneOf true p l ≠ noLane ∧ m.laneOf false p l ≠ noLane)
  let half : Nat → Bool := fun h => (List.range 8).all fun l => works (8 * h + l)
  let go : Nat → Act := fun h => acts [
    setF (FB_PORT_LINK p) FB_PORT_LINK_HALF 1,
    setF (FB_PORT_LINK p) FB_PORT_LINK_UPPER h,
    forEach (List.range 8) (fun l => acts [setLane true p (8 * (1 - h) + l) noLane,
      setLane false p (8 * (1 - h) + l) noLane]),
    portRecord p 0x0704 clsLasting .plain [(32, 1, p), (33, 1, h)],
    scoreEvent (scPort p) 1000]
  if half 0 then go 0 else if half 1 then go 1 else failStop p 1

/-- A lane is retired (R282, R284, R389): a lane on a spare stays there, another takes the spare of R283, and where none
can be had the port goes to half width. A spare that is retired carries nothing more. -/
def retireLane (p : Nat) (tx : Bool) (x : Nat) : Act := .look fun m =>
  let y := m.port p
  if (if tx then y.retiredTx else y.retiredRx).contains x then .nop
  else acts [
    modPort p (fun y => if tx then { y with retiredTx := y.retiredTx.concat x, suspTx := y.suspTx.filter (· ≠ x) }
      else { y with retiredRx := y.retiredRx.concat x, suspRx := y.suspRx.filter (· ≠ x) }),
    laneBits p,
    laneRecord p tx x (if 16 ≤ x then 0x0B03 else 0x0703) clsLasting [(32, 1, p), (33, 1, x), (34, 1, b01 tx)],
    scoreEvent (scLane p tx x) 65535,
    modTrust (fun t => if tx then { t with svcRetiredTx := t.svcRetiredTx.put p (y.retiredTx.concat x) }
      else { t with svcRetiredRx := t.svcRetiredRx.put p (y.retiredRx.concat x) }),
    .look fun m => match m.logicalOn tx p x with
      | none => acts [
          onlyIf (tx && decide (16 ≤ x)) (setSpare p x 5 0),
          onlyIf tx (match [16, 17].find? fun s => m.laneOf true p x = s with
            | some s => acts [setSpare p s 3 x, keepSpares p]
            | none => .nop)]
      | some _ =>
        if pickSpare m tx p = .none then halfWidth p
        else moveOff p tx x 0]

/-- A receive lane becomes suspect (R282): its traffic is moved to a spare and the lane retrained, where a spare can be
had. -/
def suspectLane (p : Nat) (tx : Bool) (x : Nat) : Act := .look fun m =>
  let y := m.port p
  if (if tx then y.suspTx else y.suspRx).contains x ∨ (if tx then y.retiredTx else y.retiredRx).contains x then .nop
  else acts [
    modPort p (fun y => if tx then { y with suspTx := y.suspTx.concat x } else { y with suspRx := y.suspRx.concat x }),
    laneBits p,
    laneRecord p tx x 0x0702 clsTransient [(32, 1, p), (33, 1, x), (34, 1, b01 tx)],
    scoreEvent (scLane p tx x) 100,
    moveOff p tx x 0]

end Sys2Proof.Machine
end

