-- ==== Sys2Proof/Machine/Clear.lean ====
section
/-! DEFINITION. Sorus resets, launches stopped at once, bindings ended and chamber clears (R193, R425, R488, R490). -/

namespace Sys2Proof.Machine

/-! ### Sorus reset (R488) -/

/-- A sorus is power-gated and zeroed; a wake granted meanwhile is granted again after it (R509). -/
def resetSorus (g : Nat) : Act := .look fun m => acts [
  forEach (thalliOf g) (fun t => acts [
    modThallus t Thallus.lose, setThState t thAsleep, setF (thReg t) CD_THALLUS_STATE_EXCEPTION 0,
    setF (thReg t) CD_THALLUS_STATE_CHAMBER_VALID 0,
    .upd (.zero (tileAddr t 0) tileBytes)]),
  .look fun m => .upd (.replies (m.replies.filter fun r => gsorusOf r.t ≠ g)),
  setF (sorusReg g) CD_SORUS_STATE_DOMAIN 1,
  modCDie (g / 25) fun c => { c with
    resident := c.resident.del (g % 25)
    timers := c.timers.del (g % 25)
    wakeReqs := if c.waking.contains (g % 25) then c.wakeReqs ++ [(g % 25, m.now)] else c.wakeReqs
    waking := c.waking.filter (· ≠ g % 25)
    resetting := if c.resetting.contains (g % 25) then c.resetting else c.resetting ++ [g % 25] }]

/-- A reset of a sorus is refused where a launch that is not Free holds it in a stage not marked faulted, or its die
does not run (R488). -/
def sorusResetRefused (m : Mod) (g : Nat) : Bool :=
  decide (200 ≤ g) || !m.dieRuns (g / 25) ||
  (m.cdie (g / 25)).launches.any fun l => decide (m.lstate (64 * (g / 25) + l.1) ≠ lFree) &&
    l.2.stages.zipIdx.any fun s => decide (s.1.die = g / 25) && s.1.sori.getLsbD (g % 25) &&
      !bitOf (m.lword (64 * (g / 25) + l.1) 15) s.2

/-- The zeroing wake of a reset ends: the sorus is in deep off. -/
def execSorusResetDone (g : Fin 200) (s : State) : Result := done (.look fun m =>
  onlyIf ((m.cdie (g / 25)).resetting.contains (g % 25)) (acts [
    modCDie (g / 25) (fun c => { c with resetting := c.resetting.filter (· ≠ g % 25) }),
    setF (sorusReg g) CD_SORUS_STATE_DOMAIN 0,
    setF (CP_SORUS g) CP_SORUS_DEEP 1,
    onlyIf (decide (m.fld DD_RESET DD_RESET_SORUS = g.val)) (setF DD_RESET DD_RESET_SORUS_GO 0),
    bumpWrap (CP_SORUS g) CP_SORUS_DEEP_ENTRIES 1])) s

/-! ### Launches and bindings ended from outside (R182, R425, R490) -/

/-- A launch is cancelled and ended at once: its thalli stop with code 6 and it completes with CANCELLED (R182). -/
def killLaunch (key : Nat) : Act := .look fun m =>
  let st := m.lstate key
  if st = lChecking ∨ st = lPending then finishLaunch key csCancelled 0
  else if st = lLoading ∨ st = lRunning then acts [
    noteCancel key csCancelled,
    stopLaunch key,
    forEach (entriesOf m key) (fun k => forEach (m.thalli.filter fun e => e.2.launch = some k) fun e =>
      raise e.1 exStopped 0 0 0 0),
    endLaunch key]
  else .nop

/-- The home entries of a chamber's launches. -/
def launchesOf (m : Mod) (k : Nat) : List Nat :=
  ((List.range 8).map fun d => ((m.cdie d).launches.filter fun l =>
    decide (l.2.home = 64 * d + l.1 ∧ !l.2.orphan) && decide (m.lchamber (64 * d + l.1) = k)).map fun l => 64 * d + l.1).flatten

/-- The satellite entries of a chamber's launches whose home is lost. -/
def orphansOf (m : Mod) (k : Nat) : List Nat :=
  ((List.range 8).map fun d => ((m.cdie d).launches.filter fun l =>
    l.2.orphan && decide (m.lchamber (64 * d + l.1) = k)).map
      fun l => 64 * d + l.1).flatten

/-- Every launch of a chamber is cancelled and Free. -/
def killLaunches (k : Nat) : Act := .look fun m => acts [
  forEach (launchesOf m k) killLaunch,
  forEach (orphansOf m k) fun key => acts [
    forEach (m.thalli.filter fun e => e.2.launch = some key) (fun e => raise e.1 exStopped 0 0 0 0),
    endOrphan key]]

/-- A binding ends (R425): its keys are erased, what was in progress is abandoned, its rings stop. -/
def dropBinding (k cause : Nat) : Act := .look fun m =>
  if confState m k ≠ 3 ∧ (m.chamber k).bindWanted.isNone then .nop
  else acts [
    modChamber k (fun c => { c with
      bindWanted := none, secret := 0, kIn := 0, kOut := 0, sIn := 0, sOut := 0
      inCtr := 0, outCtr := 0, inProd := 0, inCons := 0, outProd := 0, outCons := 0
      mslots := [], exporting := none }),
    setF (VL_CONF_STATE k) VL_CONF_STATE_STATE 4,
    setF (VL_CONF_STATE k) VL_CONF_STATE_SESSION_ID 0,
    bumpSat (VL_CONF_STATE k) VL_CONF_STATE_ENDS 1,
    setF (VL_CONF_CNT k) VL_CONF_CNT_IN_CTR 0,
    setF (VL_CONF_CNT k) VL_CONF_CNT_OUT_CTR 0,
    forEach (ringsOf m k) (fun x => acts [
      setF (CD_RING_STATE x.1 x.2) CD_RING_STATE_STATE 2,
      modRing x.1 x.2 fun r => { r with
        accepted := [], reading := false, reread := false, sealedIn := none, sealedOut := none, nIn := 0, nOut := 0 }]),
    record (qDie mgmtDie) 0x0C04 clsLasting .plain (some k) dpNone mpTfw (detail [(32, 1, k), (33, 1, cause)])]

/-! ### The clear (R193, R490) -/

/-- Accesses held at the home for a stack end with UNAVAILABLE. -/
def failHeld (stack : Nat) : Act := .look fun m =>
  let here : Access → Bool := fun a => decide (accessAt a / 2 ^ 36 = stack ∨ (copyTo a).map (· / 2 ^ 36) = some stack)
  let d := m.mdie (stack / 8)
  let s := m.stk stack
  let all := (d.held ++ d.jnlHeld).filter here ++ s.retry ++ s.repeating ++ s.heldRow
  acts [
    modMDie (stack / 8) (fun d => { d with
      held := d.held.filter fun a => !here a
      jnlHeld := d.jnlHeld.filter fun a => !here a }),
    modStk stack (fun s => { s with retry := [], repeating := [], heldRow := [] }),
    forEach all fun a => answer a stUnavailable [] (accessAt a)]

/-- Zeroes a stack but for its retired pages. -/
def zeroStack (stack : Nat) : Act := .look fun m =>
  let retired : SMap Nat := (retiredPages m stack).foldl (fun a p => a.put p.2 0) []
  let ends := retired.foldl (fun (a : Nat × List (Nat × Nat)) p =>
    (2 ^ 21 * (p.1 + 1), a.2 ++ [(a.1, 2 ^ 21 * p.1)])) (0, [])
  acts [
    modStk stack (fun x => { x with unkept := false }),
    forEach (ends.2 ++ [(ends.1, stackBytes)]) fun r => .upd (.zero (stack * 2 ^ 36 + r.1) (r.2 - r.1))]

/-- The clear of one stack begins (R193); while a remap copy or margining runs on it, it waits for that to end. -/
def clearStack (stack : Nat) : Act := .look fun m =>
  if !(m.stk stack).remaps.isEmpty ∨ (m.stk stack).action ≠ 0 then modStk stack fun s => { s with clearWanted := true }
  else acts [
    failHeld stack,
    sumpFlush stack,
    dropLines stack,
    modStk stack (fun s => { s with clearWanted := false, lost := [], dropped := [] }),
    setF (stackReg stack) MS_STACK_STATE_STATE 7,
    stackCounts stack,
    zeroStack stack]

/-- The work that a clear of a stack waited for has ended. A stack that left service meanwhile has been zeroed by its
margining, or will be before it returns (R220, R223). -/
def clearNow (stack : Nat) : Act := .look fun m =>
  if !(m.stk stack).clearWanted then .nop
  else if stackState m stack = 1 ∨ stackState m stack = 2 then clearStack stack
  else modStk stack fun s => { s with clearWanted := false }

/-- A counter is removed with record at a chamber's clear; one that a ledger fault stopped returns (R288, R490). -/
def clearCounter (c : Nat) : Act := .look fun m =>
  onlyIf (m.dieRuns (memDie (counterDie c))) (acts [
    retireCounter c 2,
    onlyIf (m.cntFrozen.contains c) (acts [.upd (.freshCounter c), .upd (.cntFrozen (m.cntFrozen.filter (· ≠ c)))])])

/-- Ends a shadow role of a chamber, abandoned (R524). -/
def abandonShadow (k : Option Nat) : Act := .look fun m =>
  match m.shadow with
  | none => .nop
  | some x => onlyIf (decide (k = none ∨ k = some x.chamber)) (acts [
      .upd (.shadow none),
      setF ER_SHADOW_STAT ER_SHADOW_STAT_RESULT 3,
      record (qDie mgmtDie) 0x1002 clsTransient .plain (some x.chamber) dpNone mpTfw
        (detail [(32, 1, m.fld ER_SHADOW_STAT ER_SHADOW_STAT_ROLE), (33, 1, 3),
          (34, 1, m.fld ER_SHADOW_STAT ER_SHADOW_STAT_RUN),
          (36, 4, m.fld ER_SHADOW_STAT ER_SHADOW_STAT_COMPARED), (40, 8, x.source.toNat), (48, 8, x.lastStep)]),
      setF ER_SHADOW_STAT ER_SHADOW_STAT_ROLE 0])

/-- The sori of a chamber (R317). -/
def soriOf (m : Mod) (k : Nat) : List Nat := (List.range 200).filter fun g => sorusIn m k g

/-- The steps of a chamber clear after its launches have ended. -/
def clearParts (k : Nat) : Act := .look fun m =>
  let c := m.chamber k
  let running := (List.range 4).filter fun d => m.dieRuns (memDie d)
  acts [
    .upd (.windows (m.windows.filter fun w => w.1 / 256 ≠ k)),
    .upd (.winNext (m.winNext.filter fun w => w.1 / 256 ≠ k)),
    forEach (((List.range c.cntNum).map (c.cntFirst + ·)).filter fun n =>
      m.counter n ≠ 0 ∨ m.cntFrozen.contains n) clearCounter,
    forEach running (fun d => retireLevel d k 2),
    abandonShadow (some k),
    forEach ((soriOf m k).filter fun g => m.dieRuns (g / 25)) resetSorus,
    forEach ((stacksOf m k).filter fun s => m.dieRuns (memDie (s / 8)) ∧
      (stackState m s = 1 ∨ stackState m s = 2 ∨ stackState m s = 4)) clearStack]

/-- A chamber clear, in the order of R490. A stack on a die that does not run is zeroed as it rejoins. -/
def clearChamber (k : Nat) : Act := acts [
  modChamber k (fun c => { c with clearing := true, cleared := false, clears := c.clears + 1 }),
  setChamber k chHeld,
  killLaunches k,
  dropBinding k 0,
  clearParts k]

/-- A binding ends for a cause of R425: its launches are cancelled after its keys are gone, and the chamber is cleared. -/
def endBinding (k cause : Nat) : Act := .look fun m =>
  if confState m k ≠ 3 ∧ (m.chamber k).bindWanted.isNone then .nop
  else acts [dropBinding k cause, clearChamber k]

/-- True where a chamber clear has nothing left to wait for. -/
def clearOver (m : Mod) (k : Nat) : Bool :=
  (m.chamber k).clearing && ((stacksOf m k).all fun s => !(m.stk s).clearWanted) &&
  (soriOf m k).all fun g => !(m.cdie (g / 25)).resetting.contains (g % 25)

/-- The zeroing of a chamber's stacks ends: they are in service, or degraded (R217). -/
def stacksCleared (k : Nat) : Act := .look fun m =>
  forEach ((stacksOf m k).filter fun s => stackState m s = 7) fun s =>
    setF (stackReg s) MS_STACK_STATE_STATE (if 123 ≤ (retiredPages m s).length then 2 else 1)

end Sys2Proof.Machine
end

