-- ==== Sys2Proof/Machine/Inputs.lean ====
section
/-! DEFINITION. The sampled inputs (R445–R447): accepted levels, edges, storms. Inputs are numbered as `CP_INPUT`: 0
MOD_RESET_N, 1 PWR_GOOD, 2 TIME_PPS, 3 + f LASER_FAULT_N[f]. -/

namespace Sys2Proof.Machine

/-- The span within which edges make a storm. -/
def stormNs : Nat := 1000000

/-- Edges of an input are accepted now; more than 64 within 1 ms mask it (R446). -/
def acceptEdges (n count : Nat) (level : Bool) : Act := .look fun m =>
  let now := m.now.toNat
  let es := (m.rst.edges.getD n []).filter fun t => decide (now < t + stormNs)
  let es' := es ++ List.replicate count now
  acts [
    setF (CP_INPUT n) CP_INPUT_LEVEL (if level then 1 else 0),
    bumpWrap (CP_INPUT n) CP_INPUT_EDGES count,
    modRst (fun r => { r with edges := r.edges.put n es' }),
    onlyIf (decide (64 < es'.length)) (acts [
      setF (CP_INPUT n) CP_INPUT_MASKED 1,
      bumpSat (CP_INPUT n) CP_INPUT_STORMS 1,
      record (qDie mgmtDie) 0x0D03 clsTransient .plain none dpNone mpTfw (detail [(32, 1, n)])])]

/-- A new level of an input that is not masked is accepted, and acted on once (R447). -/
def acceptLevel (n : Nat) (level : Bool) (a : Act) : Act := .look fun m =>
  if m.flag (CP_INPUT n) CP_INPUT_MASKED ∨ m.flag (CP_INPUT n) CP_INPUT_LEVEL = level then .nop
  else acts [acceptEdges n 1 level, a]

/-- A rising edge of TIME_PPS; the falling edge before it, which no command names, is counted with it (log 25). -/
def acceptRise (n : Nat) (a : Act) : Act := .look fun m =>
  if m.flag (CP_INPUT n) CP_INPUT_MASKED then .nop
  else acts [acceptEdges n (if m.flag (CP_INPUT n) CP_INPUT_LEVEL then 2 else 1) true, a]

end Sys2Proof.Machine
end

