-- ==== Sys2Proof/Machine/Tile.lean ====
section
/-! DEFINITION. The tile class (R63, R65, R76–R78, R106–R109). -/

namespace Sys2Proof.Machine

/-! ### Fields of format T (R93) -/

def tDsrc (w : Word) : Nat := bitsOf w 10 2
def tType (w : Word) : Nat := bitsOf w 17 3
def tSparse (w : Word) : Nat := bitsOf w 20 2
def tRa (w : Word) : Nat := bitsOf w 22 5
def tRb (w : Word) : Nat := bitsOf w 27 5
def tRc (w : Word) : Nat := bitsOf w 32 5
def tRe (w : Word) : Nat := bitsOf w 37 5
/-- Rows of a tile move: NROWS + 1. -/
def tRows (w : Word) : Nat := bitsOf w 42 8 + 1

/-! ### TFILL (R63, R65, R80, R128) -/

/-- Bytes of a dense stationary tile of a type (R80). -/
def tileSize (ty : Nat) : Nat := 32 * matBits ty

/-- The bank that a fill reads: 256 elements in column order, the metadata, the scales, and the tag (R104). -/
def readBank (m : Mod) (t ty sparse a md sc : Nat) : Bank :=
  let bs := m.tileBytes t a (tileSize ty)
  { tag := some (ty, sparse)
    vals := (List.range 256).map fun j => BitVec.ofNat 16 (elemOf bs (matBits ty) j)
    mdata := if sparse = 0 then []
      else (List.range 16).map fun n => BitVec.ofNat 32 (leNat (m.tileBytes t (md + 4 * n) 4))
    scales := if ty = 2 then m.tileBytes t sc 16 else [] }

def tfillBody : Body :=
  issue [(12, 2), (17, 3), (20, 2), (22, 5), (27, 5), (32, 5)] (fun w => [tRa w, tRb w, tRc w]) fun m th t e w =>
    let ty := tType w
    let a := (th.sget (tRa w)).toNat
    let md := (th.sget (tRb w)).toNat
    let sc := (th.sget (tRc w)).toNat
    if 6 ≤ ty ∨ tSparse w = 3 ∨ (tRb w ≠ 0 ∧ tSparse w = 0) ∨ (tRc w ≠ 0 ∧ ty ≠ 2) then fault t exIllegal w 0
    else if a % tileSize ty ≠ 0 ∨ tileBytes ≤ a then fault t exAddress w (BitVec.ofNat 64 a)
    else if tSparse w ≠ 0 ∧ (md % 64 ≠ 0 ∨ tileBytes ≤ md) then fault t exAddress w (BitVec.ofNat 64 md)
    else if ty = 2 ∧ (sc % 16 ≠ 0 ∨ tileBytes ≤ sc) then fault t exAddress w (BitVec.ofNat 64 sc)
    else if (th.frond (fUnit w)).fill.isSome then hold t w
    else ownTile t e w a (commit t fun x =>
      x.setFrond (fUnit w) { x.frond (fUnit w) with fill := some (readBank m t ty (tSparse w) a md sc) })

/-! ### TDRAIN (R76–R78, R107) -/

/-- The accumulators that a drain reads: frond numbers, in the order of its elements. -/
def drainFronds (w : Word) : List Nat :=
  if tDsrc w = 0 then [fUnit w] else if tDsrc w = 1 then [2 * fUnit w, 2 * fUnit w + 1] else [1, 3]

/-- Bytes of one output row (R78). -/
def drainRow (ty : Nat) : Nat := if ty = 6 then 64 else if ty = 4 ∨ ty = 5 then 32 else 16

/-- Illegal forms of a drain (R94, R107, R78). -/
def drainIllegal (w : Word) (e : Int) : Bool :=
  decide (tDsrc w = 3 ∨ tType w = 7 ∨ (tDsrc w = 0 ∧ tType w = 2) ∨ (tDsrc w ≠ 0 ∧ tType w ≠ 2) ∨
    (tDsrc w = 1 ∧ 2 ≤ fUnit w) ∨ (tDsrc w = 2 ∧ fUnit w ≠ 0) ∨ e < -127 ∨ 127 < e)

/-- One element in the output type, with the overflow that `CD_NUMERIC` selects for FP8 (R78). -/
def drainElem (m : Mod) (t ty : Nat) (v : FVal) : Nat :=
  match ty with
  | 0 => e4m3.encode (if m.flag (CD_NUMERIC (dieOf t)) CD_NUMERIC_E4M3_OVF then .nan else .sat) v
  | 1 => e5m2.encode (if m.flag (CD_NUMERIC (dieOf t)) CD_NUMERIC_E5M2_OVF then .inf else .sat) v
  | 3 => ofSigned 8 (v.toIntSat (-128) 127)
  | 4 => rnd bf16 v
  | 5 => rnd fp16 v
  | _ => rnd fp32 v

/-- The exponent of a row's largest magnitude, floor(log2(max |x|)), or none where every element is zero. -/
def rowTop (vs : List FVal) : Option Int :=
  vs.foldl (fun a v => match v with
    | .fin _ mant exp =>
      if mant = 0 then a
      else
        let k := (Nat.log2 mant : Int) + exp
        match a with
        | none => some k
        | some x => some (max x k)
    | _ => a) none

/-- An FP4 row: its scale byte and its 32 codes (R78). -/
def fp4Row (vs : List FVal) : Nat × List Nat :=
  if vs.any fun v => match v with | .fin _ _ _ => false | _ => true then (0xFF, vs.map fun _ => 0)
  else match rowTop vs with
    | none => (0, vs.map fun v => e2m1.encode .sat v)
    | some k =>
      let x := k - 2
      ((max 0 (min 254 (x + 127))).toNat, vs.map fun v => e2m1.encode .sat (v.scale (-x)))

/-- The elements of row `i` that a drain reads, scaled by 2^e before rounding. -/
def drainVals (th : Thallus) (t : Nat) (w : Word) (e : Int) (i : Nat) : List FVal :=
  ((drainFronds w).map fun f => (List.range 16).map fun n =>
    let x := th.accGet t (accAt f (fAcc w) i n)
    (if th.accIsInt f (fAcc w) then FVal.ofInt (toSigned 32 x) else fp32.decode x).scale e).flatten

def tdrainBody : Body :=
  issue [(10, 2), (12, 2), (14, 2), (16, 1), (17, 3), (22, 5), (27, 5), (32, 5), (37, 5)]
    (fun w => [tRa w, tRb w, tRc w, tRe w]) fun m th t _ w =>
    let e := (th.sget (tRe w)).toInt
    let a := (th.sget (tRa w)).toNat
    let step := (th.sget (tRb w)).toNat
    let sc := (th.sget (tRc w)).toNat
    let ty := tType w
    let fs := drainFronds w
    if drainIllegal w e then fault t exIllegal w 0
    else if fs.any fun f => (th.frond f).draining || (th.frond f).incomplete.any (· % 4 = fAcc w) then hold t w
    else if fs.any fun f => th.accIsInt f (fAcc w) != decide (ty = 3) then fault t exIllegal w 0
    else if step % 16 ≠ 0 ∨ step < drainRow ty ∨ tileBytes < a + 15 * step + drainRow ty then
      fault t exAddress w (BitVec.ofNat 64 a)
    else if ty = 2 ∧ tileBytes < sc + 16 then fault t exAddress w (BitVec.ofNat 64 sc)
    else acts [
      forEach (List.range 16) (fun i =>
        let vs := drainVals th t w e i
        if ty = 2 then
          let r := fp4Row vs
          acts [.upd (.mem (tileAddr t (a + i * step)) ((List.range 16).map fun j =>
              BitVec.ofNat 8 (r.2.getD (2 * j) 0 + 16 * r.2.getD (2 * j + 1) 0))),
            .upd (.mem (tileAddr t (sc + i)) [BitVec.ofNat 8 r.1])]
        else .upd (.mem (tileAddr t (a + i * step))
          ((vs.map fun v => leBytes (drainRow ty / 16) (drainElem m t ty v)).flatten))),
      commit t fun x =>
        let x := fs.foldl (fun x f => x.setFrond f { x.frond f with draining := true }) x
        if bitOf w 16 then
          { x with acc := fs.foldl (fun acc f => (List.range 256).foldl (fun acc j =>
              acc.put ((f * 4 + fAcc w) * 256 + j) 0) acc) x.acc }
        else x]

/-! ### Row moves (R106, R108) -/

/-- An offset register that names `n` rows of 128 B: aligned and populated. -/
def rowsOk (a : Word) (n : Nat) : Bool := decide (a.toNat % 128 = 0 ∧ a.toNat + 128 * n ≤ tileBytes)

/-- TMOVE copies rows one after another in ascending order (R108). -/
def tmoveBody : Body :=
  issue [(22, 5), (27, 5), (42, 8)] (fun w => [tRa w, tRb w]) fun _ th t e w =>
    let a := th.sget (tRa w)
    let b := th.sget (tRb w)
    if !rowsOk a (tRows w) then fault t exAddress w a
    else if !rowsOk b (tRows w) then fault t exAddress w b
    else ownTile t e w a.toNat (acts [
      forEach (List.range (tRows w)) (fun i => .look fun m =>
        .upd (.mem (tileAddr t (b.toNat + 128 * i)) (m.tileBytes t (a.toNat + 128 * i) 128))),
      commit t id])

def tzeroBody : Body :=
  issue [(22, 5), (42, 8)] (fun w => [tRa w]) fun _ th t _ w =>
    let a := th.sget (tRa w)
    if !rowsOk a (tRows w) then fault t exAddress w a
    else acts [.upd (.zero (tileAddr t a.toNat) (128 * tRows w)), commit t id]

/-- A row sent to device memory by TSTRM: one atomic write, posted, with the default hint (R109). -/
def strmAccess (m : Mod) (t : Nat) (pc w : Word) (addr : Nat) (row : List Byte) : Access :=
  { org := .thallus t, kind := .write row, addr := addr, size := row.length, hint := 0,
    chamber := (m.thChamber t).getD 8, cnt := none, stat := false, tag := 0, pc := pc, word := w, stamp := m.now,
    rd := 0, run := (m.thallus t).starts }

/-- TSTRM (R109): a tile-store address or a misaligned one is an address fault; the rows leave in ascending order. -/
def tstrmBody : Body :=
  issue [(22, 5), (27, 5), (42, 8)] (fun w => [tRa w, tRb w]) fun m th t e w =>
    let a := th.sget (tRa w)
    let b := th.sget (tRb w)
    if !rowsOk a (tRows w) then fault t exAddress w a
    else if b.toNat % 128 ≠ 0 then fault t exAddress w b
    else match locate b.toNat with
      | .tile _ _ => fault t exAddress w b
      | _ =>
        match rangeCheck m t b (128 * tRows w) with
        | some x => fault t x w b
        | none => ownTile t e w a.toNat (acts [
            .look fun m => .upd (.flight (m.flight ++ (List.range (tRows w)).map fun i =>
              strmAccess m t th.pc w (b.toNat + 128 * i) (m.tileBytes t (a.toNat + 128 * i) 128))),
            commit t id])

/-- TROWST: bit j of p[PRED] governs byte j of the row. -/
def trowstBody : Body :=
  issue [(22, 5), (37, 5), (50, 3)] (fun w => [tRa w]) fun _ th t _ w =>
    let a := th.sget (tRa w)
    let p := th.pget (bitsOf w 50 3)
    if !rowsOk a 1 then fault t exAddress w a
    else .look fun m =>
      let old := m.tileBytes t a.toNat 128
      let new := bytesOfRowT (th.vget (tRe w))
      acts [.upd (.mem (tileAddr t a.toNat) ((List.range 128).map fun j =>
        if p.getLsbD j then new.getD j 0 else old.getD j 0)), commit t id]
where
  /-- The 128 bytes of a vector register. -/
  bytesOfRowT (v : BitVec 1024) : List Byte := leBytes 128 v.toNat

end Sys2Proof.Machine
end

