-- ==== Sys2Proof/Machine/Transfer.lean ====
section
/-! DEFINITION. The transfer class (R110–R114): XCOPY, XLD, XST and XAMO, local and remote; the outstanding requests
of the module, the injection limiter (R362) and the gateway engine (R341–R345). -/

namespace Sys2Proof.Machine

/-! ### Direct operations -/

/-- Outstanding remote requests of a thallus to a module (R112). -/
def outstanding (m : Mod) (t module : Nat) : Nat :=
  (m.reqs.filter fun r => r.org = .thallus t ∧ r.hdr.dst.toNat = module).length

/-- A direct operation on a fabric address (R112, R331, R340, R341): `op` is LOAD, STORE or ATOMIC; `rd` is none for a
store. -/
def remoteDirect (t : Nat) (w : Word) (op size : Nat) (addr : Word) (data : List Byte) (opinfo : Nat)
    (rd : Option Nat) : Act := .look fun m =>
  let th := m.thallus t
  let module := faModule addr
  let cross := decide (galleryOf module ≠ galleryOf m.selfId)
  let storage := decide (289 ≤ galleryOf module)
  let i := dieOf t
  let k := chamberOf m t
  let tag := nextTag m t
  let st := if ioClosed m i then stUnavailable
    else if storage ∨ (cross ∧ op = 3) then stNeedsTransfer else stOk
  let gw := decide (cross ∧ (op = 1 ∨ (op = 2 ∧ !xOrd w)))
  if 64 ≤ outstanding m t module then hold t w
  else acts [
    commit t (fun x => { x with
      tagSerial := nextSerial m t + 1
      waitRd := match rd with | some r => x.waitRd ++ [(r, tag)] | none => x.waitRd }),
    if st ≠ stOk then
      (match rd with
       | some r => queueReply ⟨t, tag, BitVec.ofNat 5 r, st, 0, addr, xStat w, th.pc, w⟩
       | none => postedFailure t th.starts (xStat w) th.pc w st addr)
    else acts [
      addReq { tag := tag, org := .thallus t, hdr := reqHeader m addr k op (xOrd w) tag data.length opinfo, data := data
               rd := BitVec.ofNat 5 (rd.getD 0), size := size, stat := xStat w, pc := th.pc, word := w, run := th.starts
               stamp := m.now, chamber := k, io := i, sent := false, gateway := gw, retried := false },
      onlyIf gw (if op = 1 then fetchBlock i k addr (xOrd w) tag else aggregate i k addr size (leNat data) tag)]]

/-- The access a thallus sends to a local home. -/
def localAccess (m : Mod) (t : Nat) (w : Word) (kind : AKind) (addr size : Nat) (hint : Nat) : Access :=
  let th := m.thallus t
  { org := .thallus t, kind := kind, addr := addr, size := size, hint := hint, chamber := chamberOf m t, cnt := none
    stat := xStat w, tag := nextTag m t, pc := th.pc, word := w, stamp := m.now, rd := BitVec.ofNat 5 (fRd w)
    run := th.starts }

/-- A local access leaves; a read's rd waits for its reply. -/
def sendLocal (t : Nat) (a : Access) (waits : Bool) : Act := .look fun m => acts [
  .upd (.flight (m.flight ++ [a])),
  commit t fun x => { x with
    tagSerial := nextSerial m t + 1
    waitRd := if waits then x.waitRd ++ [(a.rd.toNat, a.tag)] else x.waitRd }]

/-- XLD (R110–R112). -/
def xldBody : Body :=
  issue [useRd, useRa, (30, 2), (39, 1), (40, 2), (42, 1)] (fun w => [fRd w, fRa w]) fun m th t _ w =>
    let a := th.sget (fRa w)
    let n := xSize w
    if a.toNat % n ≠ 0 then fault t exAddress w a
    else if bitOf a 63 then remoteDirect t w 1 n a [] n (some (fRd w))
    else match rangeCheck m t a n with
      | some x => fault t x w a
      | none => sendLocal t (localAccess m t w .read a.toNat n (xHint w)) true

/-- XST (R110, R111): posted. -/
def xstBody : Body :=
  issue [useRa, useRb, (30, 2), (39, 1), (40, 2), (42, 1)] (fun w => [fRa w, fRb w]) fun m th t _ w =>
    let a := th.sget (fRa w)
    let n := xSize w
    let data := leBytes n (th.sget (fRb w)).toNat
    if a.toNat % n ≠ 0 then fault t exAddress w a
    else if bitOf a 63 then remoteDirect t w 2 n a data 0 none
    else match rangeCheck m t a n with
      | some x => fault t x w a
      | none => sendLocal t (localAccess m t w (.write data) a.toNat n (xHint w)) false

/-- XAMO (R110, R111, R248). -/
def xamoBody : Body :=
  issue [useRd, useRa, useRb, useRc, (32, 4), (36, 3), (39, 1), (42, 1)]
    (fun w => [fRd w, fRa w, fRb w, fRc w]) fun m th t _ w =>
    let a := th.sget (fRa w)
    let n := atypeBytes (xAtype w)
    let x := th.sget (fRb w)
    let cmp := th.sget (fRc w)
    if !amoLegal (xAop w) (xAtype w) then fault t exIllegal w 0
    else if a.toNat % n ≠ 0 then fault t exAddress w a
    else if bitOf a 63 then
      remoteDirect t w 3 n a (leBytes 8 x.toNat ++ (if xAop w = 7 then leBytes 8 cmp.toNat else []))
        (xAop w * 2 ^ 16 + xAtype w * 2 ^ 20) (some (fRd w))
    else match rangeCheck m t a n with
      | some e => fault t e w a
      | none => sendLocal t (localAccess m t w (.amo (xAop w) (xAtype w) x cmp) a.toNat n (xHint w)) true

/-- XCOPY (R110, R113): refused at issue if a range or its counter fails its checks; else posted. -/
def xcopyBody : Body :=
  issue [useRa, useRb, useRc, (40, 2), (42, 1), (43, 12), (55, 1)] (fun w => [fRa w, fRb w, fRc w]) fun m th t _ w =>
    let src := th.sget (fRa w)
    let dst := th.sget (fRb w)
    let n := (th.sget (fRc w)).toNat
    if 2 ^ 32 ≤ n then fault t exPermission w src
    else if bitOf src 63 ∨ (rangeCheck m t src n).isSome then fault t exPermission w src
    else if bitOf dst 63 ∨ (rangeCheck m t dst n).isSome then fault t exPermission w dst
    else if xCen w ∧ (counterCheck m th (BitVec.ofNat 64 (xCnt w))).isSome then
      fault t exPermission w (BitVec.ofNat 64 (xCnt w))
    else if n = 0 then commit t id
    else sendLocal t { localAccess m t w (.copy dst.toNat 0 []) src.toNat n (xHint w) with
      org := .copy t, cnt := if xCen w then some (xCnt w) else none } false

end Sys2Proof.Machine
end

