-- ==== Sys2Proof/Machine/Desc.lean ====
section
/-! DEFINITION. Transfer descriptors (R347–R358, R163, R164, R131–R139): their checks, their segments and packets,
unpacking, and completion records. -/

namespace Sys2Proof.Machine

/-! ### Unpacking (R131–R138) -/

/-- Bytes of packed elements of `b` bits (R80). -/
def packEls (b : Nat) (l : List Nat) : List Byte :=
  if b = 4 then (chunks 2 1024 l).map fun p => BitVec.ofNat 8 (p.getD 0 0 % 16 + 16 * (p.getD 1 0 % 16))
  else (l.map fun v => leBytes (b / 8) v).flatten

/-- Bytes of a block's values, after its presence map (form 0), or of the whole block (R132). How a form 1 descriptor
tells a 1:4 stream from a 2:4 one is open, as OFORM has only dense and 2:4: OFORM 0 is taken as 1:4 (DESIGN CHOICE,
log 90). -/
def blockBytes (form ety oform present : Nat) : Nat :=
  match form with
  | 0 => (present * matBits ety + 7) / 8
  | 1 => if oform = 1 then 2 * tileSize ety + 128 else tileSize ety + 64
  | _ => 128 * matBits ety

/-- The 1,024 element codes of a form 0 block, none where absent. -/
def bitmapCodes (map b : Nat) (bs : List Byte) : List (Option Nat) :=
  ((List.range 1024).foldl (fun (a : Nat × List (Option Nat)) e =>
    if map.testBit e then (a.1 + 1, some (elemOf bs b a.1) :: a.2) else (a.1, none :: a.2)) (0, [])).2.reverse

/-- An element code of an output without arithmetic: a NaN is written as the default NaN (R553). -/
def quietCode (ty c : Nat) : Nat :=
  match matType ty with
  | .flt f => if (matType ty).value c = .nan then f.encode .sat .nan else c
  | .int _ => c

/-- One element in the output type (R138). -/
def unpackElem (ety oty : Nat) (scaled : Bool) (scale : Nat) : Option Nat → Nat
  | none => 0
  | some c =>
    if !scaled then quietCode ety c
    else if oty = 2 then (if scale = 0xFF then 0 else c)
    else
      let v : FVal := if scale = 0xFF then .nan else ((matType ety).value c).scale ((scale : Int) - 127)
      if oty = 4 then rnd bf16 v else e4m3.encode .sat v

/-- The pair of positions stored for a group of four (R137), or none where more than two are present. -/
def pairOf (present : List Nat) : Option (Nat × Nat) :=
  match present with
  | [] => some (0, 1)
  | [a] => if a = 0 then some (0, 1) else some (0, a)
  | [a, b] => some (a, b)
  | _ => none

/-- The 2:4 form of a bitmap block: values and metadata, or none where the block violates the form (R137). -/
def pack24 (ety : Nat) (codes : List (Option Nat)) : Option (List Byte × List Byte) :=
  let code : Nat → Nat → Option Nat := fun k n => (codes.getD (64 * n + k) none)
  let pairs : List (Option (Nat × Nat)) := (List.range 256).map fun i =>
    pairOf ((List.range 4).filter fun x => (code (4 * (i % 16) + x) (i / 16)).isSome)
  if pairs.any Option.isNone then none
  else
    let pair : Nat → Nat → Nat × Nat := fun n g => ((pairs.getD (16 * n + g) none).getD (0, 1))
    let tile : Nat → List Nat := fun j => ((List.range 16).map fun n => ((List.range 8).map fun g =>
      let p := pair n (8 * j + g)
      [(code (4 * (8 * j + g) + p.1) n).getD 0, (code (4 * (8 * j + g) + p.2) n).getD 0]).flatten).flatten
    let meta_ : Nat → List Byte := fun j => ((List.range 16).map fun n => leBytes 4
      ((List.range 8).foldl (fun a g =>
        let p := pair n (8 * j + g)
        a + p.1 * 4 ^ (2 * g) + p.2 * 4 ^ (2 * g + 1)) 0)).flatten
    some (packEls (matBits ety) (tile 0) ++ packEls (matBits ety) (tile 1), meta_ 0 ++ meta_ 1)

/-- A dense block: four tiles in column order (R136). -/
def packDense (oty : Nat) (codes : List Nat) : List Byte :=
  ((List.range 4).map fun j => packEls (matBits oty) (((List.range 16).map fun n =>
    (List.range 16).map fun k => codes.getD (64 * n + 16 * j + k) 0).flatten)).flatten

/-- True for the forms that take scales (R133). -/
def usesScales (form ety : Nat) : Bool := decide ((form = 0 ∧ ety = 2) ∨ form = 2)

/-- What a block writes: tiles, metadata and scales; none for a violation of the 2:4 form. -/
def unpackBlock (d : Desc) (map : Nat) (bs sc : List Byte) : Option (List Byte × List Byte × List Byte) :=
  let ety := dEtype d
  if dForm d = 1 then
    let n := if dOform d = 1 then 2 * tileSize ety else tileSize ety
    some (packEls (matBits ety) ((List.range (8 * n / matBits ety)).map fun e => quietCode ety (elemOf bs (matBits ety) e)),
      bs.drop n, [])
  else
    let codes := if dForm d = 0 then bitmapCodes map (matBits ety) bs
      else (List.range 1024).map fun e => some (elemOf bs (matBits ety) e)
    if dOform d = 1 then (pack24 ety (codes.map (Option.map (quietCode ety)))).map fun p => (p.1, p.2, [])
    else
      let scaled := usesScales (dForm d) ety
      let out := codes.zipIdx.map fun c =>
        unpackElem ety (dOtype d) scaled (sc.getD (16 * (c.2 % 64 / 32) + c.2 / 64) 0).toNat c.1
      some (packDense (dOtype d) out, [], if dOtype d = 2 then sc else [])

/-- Output bytes of one block: tiles, metadata, scales. -/
def outSizes (d : Desc) : Nat × Nat × Nat :=
  if dForm d = 1 ∧ dOform d = 0 then (tileSize (dEtype d), 64, 0)
  else if dOform d = 1 then (2 * tileSize (dEtype d), 128, 0)
  else (4 * tileSize (dOtype d), 0, if dOtype d = 2 then 32 else 0)

/-- The combinations of R137 and R132. -/
def unpackCombo (d : Desc) : Bool :=
  let e := dEtype d
  let o := dOtype d
  match dForm d with
  | 0 => if e = 2 then decide ((o = 2 ∨ o = 0) ∧ dOform d = 0) else decide (e < 6 ∧ o = e)
  | 1 => decide (e < 6 ∧ e ≠ 2 ∧ o = e)
  | 2 => decide (dOform d = 0 ∧ ((e = 2 ∧ (o = 2 ∨ o = 0)) ∨ ((e = 0 ∨ e = 1) ∧ (o = 4 ∨ o = 0))))
  | _ => false

/-- An output region lies in one tile store, aligned. -/
def outRegion (m : Mod) (t : Nat) (a n al : Nat) : Bool :=
  match locate a with
  | .tile _ _ => a % al = 0 && (rangeCheck m t (BitVec.ofNat 64 a) n).isNone
  | _ => false

/-- The checks of an UNPACK (R135–R137, R350). Its engine reads only its own stack (R134), so the scales lie there too
(log 89). -/
def unpackOk (m : Mod) (t : Nat) (d : Desc) : Bool :=
  let n := dNblk d
  let z := outSizes d
  let al := tileSize (dOtype d)
  unpackCombo d && decide (1 ≤ n ∧ n ≤ 4096 ∧ 1 ≤ dSrcBytes d ∧ dSrcBytes d ≤ 2 ^ 24) &&
  decide ((dSrc d).toNat % 64 = 0) &&
  (match locate (dSrc d).toNat with
   | .stack _ _ => (xferCheck m t (dSrc d)).isNone
   | _ => false) &&
  (!usesScales (dForm d) (dEtype d) || (decide ((dAux d).toNat % 32 = 0 ∧
    (dAux d).toNat / 2 ^ 36 = (dSrc d).toNat / 2 ^ 36) && (rangeCheck m t (dAux d) (32 * n)).isNone)) &&
  outRegion m t (dDst d).toNat (n * z.1) al &&
  (z.2.1 = 0 || (outRegion m t (dMdst d) (n * z.2.1) 64 && decide (dMdst d / 2 ^ 21 = (dDst d).toNat / 2 ^ 21))) &&
  (z.2.2 = 0 || (outRegion m t (dSdst d) (n * z.2.2) 16 && decide (dSdst d / 2 ^ 21 = (dDst d).toNat / 2 ^ 21)))

/-! ### The checks of R350 -/

/-- True where a descriptor passes the checks made as it issues (R350). The module sends only copies to a storage endpoint
(R331), so an array with one as its destination is refused (DEDUCED, log 40). -/
def descOk (m : Mod) (t : Nat) (d : Desc) : Bool :=
  let op := dOp d
  let lg := dSegLog d
  let src := dSrc d
  decide (op < 5) && !descReserved d &&
  decide (lg = 0 ∨ (if op = opUnpack then 1 ≤ lg ∧ lg ≤ 12 else 12 ≤ lg ∧ lg ≤ 39)) &&
  decide (1 ≤ nseg d ∧ nseg d ≤ 64) &&
  (!dScen d || (counterCheck m (m.thallus t) (BitVec.ofNat 64 (dScnt d))).isNone) &&
  (match op with
   | 0 => !(bitOf src 63 && bitOf (dDst d) 63) && (bitOf src 63 || (rangeCheck m t src (dLen d)).isNone) &&
       destOk m t (dDst d) (dLen d) (dCen d) (dDcnt d)
   | 1 => !bitOf src 63 && (rangeCheck m t src (dLen d)).isNone && decide ((dAux d).toNat % 16 = 0) &&
       !bitOf (dAux d) 63 && (rangeCheck m t (dAux d) (16 * dNdst d)).isNone
   | 2 => !bitOf src 63 && decide (dAop d < 6) && amoLegal (dAop d) (dAtype d) &&
       decide (dLen d % atypeBytes (dAtype d) = 0 ∧ src.toNat % atypeBytes (dAtype d) = 0 ∧
         (dDst d).toNat % atypeBytes (dAtype d) = 0) &&
       (rangeCheck m t src (dLen d)).isNone && destOk m t (dDst d) (dLen d) (dCen d) (dDcnt d) &&
       !(bitOf (dDst d) 63 && decide (289 ≤ galleryOf (faModule (dDst d))))
   | 3 => !bitOf src 63 && (rangeCheck m t src (dLen d)).isNone && decide (dLen d % 128 = 0) &&
       (match locate src.toNat with
        | .tile t' _ => decide (t' = t)
        | _ => false) &&
       (match queueAt m t (dQidx d) with
        | some q => decide (q.prod = t ∧ dLen d ≤ q.slotBytes)
        | none => false)
   | _ => unpackOk m t d &&
       (!dCen d || (counterCheck m (m.thallus t) (BitVec.ofNat 64 (dDcnt d))).isNone))

/-- XDESC (R110, R112, R350): a descriptor that is refused takes no place of the 32; what is left of it is its record. -/
def xdescBody : Body :=
  issue [useRd, useRa] (fun w => [fRd w, fRa w]) fun _ th t e w =>
    let a := th.sget (fRa w)
    if a.toNat % 64 ≠ 0 ∨ !tileOk a.toNat 64 then fault t exAddress w a
    else if 32 ≤ (th.queue.filter fun x => !x.refused).length then hold t w
    else ownTile t e w a.toNat (.look fun m =>
      let d : Desc := BitVec.ofNat 512 (leNat (m.tileBytes t a.toNat 64))
      let seq := th.nextSeq
      let retire := commit t fun x => { x.sset (fRd w) (BitVec.ofNat 64 seq) with nextSeq := seq + 1 }
      let crec := dCrec d
      let n := if descOk m t d then nseg d else max 1 (min 64 (nseg d))
      let fresh : SegSt → Bool → Xfer := fun s r => ⟨seq, d, List.replicate n s, false, 0, false, 0, [], r⟩
      let queue : Xfer → Act := fun y => modThallus t fun x => { x with queue := x.queue ++ [y] }
      if crec ≠ 0 ∧ (crec % 32 ≠ 0 ∨ (rangeCheck m t (BitVec.ofNat 64 crec) 32).isSome) then
        acts [retire, crecFailure t stDenied crec]
      else if descOk m t d then acts [retire, queue (fresh .idle false)]
      else if crec = 0 then acts [retire, completeXfer t (fresh (.failed stDenied) true) .good]
      else acts [retire, queue (fresh (.failed stDenied) true)])

/-! ### UNPACK (R134–R139) -/

/-- An UNPACK that stops (R139, R355): the segment and every later one fail. -/
def stopUnpack (t seq j st : Nat) (formStop : Bool) (addr : Nat) : Act := .look fun m => acts [
  modXfer t seq fun x => { x with
    stopped := x.stopped || formStop
    segs := x.segs.zipIdx.map fun s => if j ≤ s.2 then .failed st else s.1 },
  onlyIf formStop (record (qDie (dieOf t)) 0x0303 clsLasting .plain (m.thChamber t)
    (dpCompute 3 (dieOf t) (sorusOf t) (coreOf t) 0) (mpSorus (gsorusOf t)) (detail [(32, 8, addr)]))]

/-- The requester index of the unpack engine of a stack (R36). -/
def unpackIdx (s : Nat) : Nat := 12 + s % 8

/-- One range of the stream or the scales, read at its home and charged (R203). -/
def unpackRead (m : Mod) (t : Nat) (a n : Nat) (hint : Nat) (e : Ecc) (k : Nat → List Byte → Act) : Act :=
  if n = 0 then k stOk []
  else acts [
    unitAdmit (chamberOf m t) a (burstsOf a n).length (unpackIdx (a / 2 ^ 36)),
    homeRead a n (chOf (chamberOf m t)) hint e k]

/-- The output of block `i`: tiles, metadata, scales. -/
def unpackWrite (m : Mod) (t : Nat) (d : Desc) (i : Nat) (o : List Byte × List Byte × List Byte) (k : Nat → Act) : Act :=
  let z := outSizes d
  let ch := chOf (chamberOf m t)
  homeWrite ((dDst d).toNat + i * z.1) o.1 ch 0 .good fun s1 =>
  if s1 ≠ stOk then k s1
  else homeWrite (if z.2.1 = 0 then (dDst d).toNat else dMdst d + i * z.2.1) o.2.1 ch 0 .good fun s2 =>
  if s2 ≠ stOk then k s2
  else homeWrite (if z.2.2 = 0 then (dDst d).toNat else dSdst d + i * z.2.2) o.2.2 ch 0 .good k

/-- Where block `i` starts in its stream: after the blocks before it (R131). -/
def blockPos (x : Xfer) (i : Nat) : Nat :=
  if dForm x.desc = 0 then x.slot else i * blockBytes (dForm x.desc) (dEtype x.desc) (dOform x.desc) 0

/-- Bytes of the presence map at the head of a block (R132). -/
def mapBytes (d : Desc) : Nat := if dForm d = 0 then 128 else 0

/-- Bytes of the scales of a block (R133). -/
def scaleBytes (d : Desc) : Nat := if usesScales (dForm d) (dEtype d) then 32 else 0

/-- A block is over: the stream goes on behind it, and behind the last of a segment the segment has ended. In form 0 a
segment that has failed is still read through by its maps, as they tell where the next one starts (R131, R139; log 89). -/
def blockOver (t seq j i : Nat) (x : Xfer) (st size next : Nat) : Act :=
  let r := segRange x.desc j
  let worst := match x.segs[j]? with
    | some (.part _ w) => if w = stOk then st else w
    | _ => st
  acts [
    modXfer t seq fun y => { y with slot := next, delivered := y.delivered + size },
    setSeg t seq j (
      if worst ≠ stOk ∧ dForm x.desc ≠ 0 then .failed worst
      else if i + 1 < r.1 + r.2 then .part (i + 1 - r.1) worst
      else if worst = stOk then .ok else .failed worst)]

/-- The read of a block that an error strikes: 0 the map, 1 the values, 2 the scales (log 63). -/
def struckRead (m : Mod) (d : Desc) : Nat :=
  let l := (if mapBytes d = 0 then [] else [0]) ++ [1] ++ (if scaleBytes d = 0 then [] else [2])
  l.getD (struckBurst m 0 (32 * l.length)) 1

/-- Block `i` of segment `j`: its reads, its output, and its count once all of it has been written (R136–R139). -/
def unpackOne (t seq j i : Nat) (x : Xfer) (skip : Bool) (e : Ecc) : Act := .look fun m =>
  let d := x.desc
  let base := (dSrc d).toNat
  let pos := blockPos x i
  let head := mapBytes d
  let hit := struckRead m d
  let err : Nat → Ecc := fun k => if e = .good then .good else if skip ∨ k = hit then e else .good
  let stopHere : Act := stopUnpack t seq j stDenied true (base + pos)
  if dSrcBytes d < pos + head then stopHere
  else unpackRead m t (base + pos) head (dHint d) (err 0) fun st mapBs =>
    if st ≠ stOk then stopUnpack t seq j st false (base + pos)
    else
      let map := leNat mapBs
      let n := blockBytes (dForm d) (dEtype d) (dOform d) (popCount 1024 map)
      let next := pos + head + n
      if dSrcBytes d < next then stopHere
      else if skip then blockOver t seq j i x stOk 0 next
      else unpackRead m t (base + pos + head) n (dHint d) (err 1) fun st bs =>
        if st ≠ stOk then blockOver t seq j i x st 0 next
        else unpackRead m t ((dAux d).toNat + 32 * i) (scaleBytes d) (dHint d) (err 2) fun st sc =>
          if st ≠ stOk then blockOver t seq j i x st 0 next
          else match unpackBlock d map bs sc with
            | none => stopHere
            | some o => unpackWrite m t d i o fun st => .look fun m =>
                let size := o.1.length + o.2.1.length + o.2.2.length
                let cnt := if dCen d then some (dDcnt d) else none
                if st ≠ stOk then blockOver t seq j i x st 0 next
                else if counterRefused m cnt then blockOver t seq j i x stUnavailable 0 next
                else acts [
                  (match cnt with
                   | some c => arrive c (if dCunit d then 1 else size)
                   | none => .nop),
                  blockOver t seq j i x stOk size next]

/-! ### The steps of the transfer engine -/

/-- The lowest segment of a descriptor of an operation that is not yet under way. -/
def nextSeg (m : Mod) (t seq op : Nat) : Option (Xfer × Nat) :=
  match m.xfer t seq with
  | none => none
  | some x => if dOp x.desc ≠ op then none else (x.segs.findIdx? fun s => s = .idle).map fun j => (x, j)

/-- The next segment of a COPY starts (R348, R349). -/
def startCopy (t seq : Nat) : Act := .look fun m =>
  match nextSeg m t seq opCopy with
  | none => .nop
  | some (_, j) => moveSegment t seq j

/-- The next segment of an AMO_ARRAY starts (R352). -/
def startArray (t seq : Nat) : Act := .look fun m =>
  match nextSeg m t seq opArray with
  | none => .nop
  | some (_, j) => moveSegment t seq j

def segInFlight : SegSt → Bool
  | .waiting .. => true
  | .mark _ => true
  | _ => false

/-- The next destination of a FANOUT (R358), with at most 8 in flight: its table entry is read. -/
def startFanout (t seq : Nat) : Act := .look fun m =>
  match nextSeg m t seq opFanout with
  | none => .nop
  | some (x, j) =>
    if 8 ≤ (x.segs.filter segInFlight).length then .nop
    else acts [
      setSeg t seq j (.waiting 1 false stOk),
      segAccess t seq j .entry .read ((dAux x.desc).toNat + 16 * j) 16 0 none]

/-- An earlier QSEND of the thallus on the same queue that has not ended: sends go in order (R163). -/
def earlierSend (m : Mod) (t seq : Nat) (x : Xfer) : Bool :=
  (m.thallus t).queue.any fun y => decide (y.seq < seq ∧ dOp y.desc = opQsend ∧ dQidx y.desc = dQidx x.desc) &&
    !y.segs.all segEnded

/-- The memory-side die whose crossbar a stage queue's path takes does not run (R163, R492). -/
def pathDown (m : Mod) (q : StageQueue) : Bool :=
  decide (dieOf q.prod ≠ dieOf q.cons) && !m.dieRuns (memDie (dieOf q.cons / 2))

/-- A QSEND (R163, R164): denied above NSLOT + 1 unmatched sends, UNAVAILABLE on a closed queue; else it takes its slot
and its bytes leave for it. -/
def startQsend (t seq : Nat) : Act := .look fun m =>
  match nextSeg m t seq opQsend, (m.thallus t).launch with
  | some (x, j), some key =>
    (match queueAt m t (dQidx x.desc) with
     | none => setSeg t seq j (.failed stDenied)
     | some q =>
       let n := q.nslot + 1
       if earlierSend m t seq x then .nop
       else if q.closed ∨ pathDown m q then setSeg t seq j (.failed stUnavailable)
       else if n < q.unmatched + 1 then acts [
         record (qDie (dieOf t)) 0x0203 clsLasting .plain (m.thChamber t)
           (dpCompute 3 (dieOf t) (sorusOf t) (coreOf t) 0) (mpSorus (gsorusOf t)) (detail [(32, 2, dQidx x.desc)]),
         setSeg t seq j (.failed stDenied)]
       else acts [
         modQueue key (dQidx x.desc) fun q => { q with sent := q.sent + 1, unmatched := q.unmatched + 1 },
         setSeg t seq j (.waiting 1 false stOk),
         segAccess t seq j .move (.copy (tileAddr q.cons (q.slotOff + q.sent % n * q.slotBytes)) 0 []) (dSrc x.desc).toNat
           (dLen x.desc) (dHint x.desc) none])
  | _, _ => .nop

/-- The segment of an UNPACK that is under way, or the next, with the block to be done and whether it only reads on. -/
def nextBlock (m : Mod) (t seq : Nat) : Option (Xfer × Nat × Nat × Bool) :=
  match m.xfer t seq with
  | none => none
  | some x => if dOp x.desc ≠ opUnpack then none else
      ((x.segs.zipIdx.find? fun s => !segEnded s.1).map fun s =>
        match s.1 with
        | .part n w => (x, s.2, (segRange x.desc s.2).1 + n, decide (w ≠ stOk))
        | _ => (x, s.2, (segRange x.desc s.2).1, false))

/-- True where the reads of a block may be made now: the stack's die admits them, and nothing holds them back. -/
def blockMay (m : Mod) (t : Nat) (x : Xfer) (i : Nat) : Bool :=
  let d := x.desc
  let at_ := (dSrc d).toNat + blockPos x i
  let head := mapBytes d
  let n := blockBytes (dForm d) (dEtype d) (dOform d) (popCount 1024 (leNat (memRead m.mem at_ head)))
  let sc := (dAux d).toNat + 32 * i
  unitsMay m (chamberOf m t) [(at_, head + n), (sc, scaleBytes d)] (unpackIdx (at_ / 2 ^ 36))

/-- The next block of an UNPACK; it waits where its destination tile store sleeps, and for admission. -/
def startUnpack (t seq : Nat) (e : Ecc) : Act := .look fun m =>
  match nextBlock m t seq with
  | none => .nop
  | some (x, j, i, skip) =>
    match sleeper m (dDst x.desc).toNat with
    | some g => tileArrival g
    | none => onlyIf (blockMay m t x i) (unpackOne t seq j i x skip e)

/-- Every segment of a descriptor has ended: its record is written, an access like any other, and it leaves the queue
(R112, R354, R355). -/
def finishXfer (t seq : Nat) (e : Ecc) : Act := .look fun m =>
  match m.xfer t seq with
  | none => .nop
  | some x =>
    let crec := dCrec x.desc
    let gone : Act := acts [
      modThallus t fun th => { th with queue := th.queue.filter fun y => y.seq ≠ seq },
      completeXfer t x e]
    if !x.segs.all segEnded then .nop
    else if crec = 0 then gone
    else match sleeper m crec with
      | some g => tileArrival g
      | none => onlyIf (unitMay m (chamberOf m t) crec 32 1 (dieOf t)) (acts [
          unitAdmit (chamberOf m t) crec 1 (dieOf t), gone])

end Sys2Proof.Machine
end

