-- ==== Sys2Proof/Machine/Remote.lean ====
section
/-! DEFINITION. Remote memory operations (10_remote_memory_operations.md): arriving requests and their checks, replies,
timeouts, aggregation buffers, and the descriptor commands. -/

namespace Sys2Proof.Machine

/-! ### Packets that have reached the module -/

/-- Takes a packet out of a list of waiting packets, once. -/
def eraseOne (pk : Packet) : List Packet → List Packet
  | [] => []
  | x :: l => if x = pk then l else x :: eraseOne pk l

/-- A packet is taken: what of it waits at an I/O die goes. -/
def takeFrom (i : Nat) (pk : Packet) : Act := modIoDie i fun d => { d with inbox := eraseOne pk d.inbox }

/-- The first I/O die at which a packet waits. -/
def inboxOf (m : Mod) (pk : Packet) : Option Nat := (List.range 8).find? fun i => (m.iodie i).inbox.contains pk

def takeAny (pk : Packet) : Act := .look fun m => match inboxOf m pk with
  | some i => takeFrom i pk
  | none => .nop

/-- A command that carries a packet: one with more data than a packet can hold cannot be sent (R262). -/
def packetCmd (pk : Packet) (a : Act) (s : State) : Result :=
  if 4096 < pk.data.length then .fault .oversizePacket else done a s

/-! ### Ingress (R332, R333) -/

/-- The local chamber that a request's tag names. -/
def chamberOfTag (m : Mod) (tag : BitVec 16) : Option Nat :=
  (List.range 8).find? fun k => (m.chamber k).valid && decide ((m.chamber k).tag = tag)

def wBase (w : Win) : Nat := bitsOf w.w0 0 52
def wValid (w : Win) : Bool := bitOf w.w0 52
def wSize (w : Win) : Nat := bitsOf w.w1 0 41
def wCntBase (w : Win) : Nat := bitsOf w.w3 0 12
def wCntNum (w : Win) : Nat := bitsOf w.w3 12 13

/-- OPINFO fields (R337). -/
def oDcnt (h : Header) : Nat := bitsOf h.opinfo 0 12
def oCen (h : Header) : Bool := bitOf h.opinfo 12
def oMark (h : Header) : Bool := bitOf h.opinfo 14
def oArray (h : Header) : Bool := bitOf h.opinfo 15
def oAop (h : Header) : Nat := bitsOf h.opinfo 16 4
def oAtype (h : Header) : Nat := bitsOf h.opinfo 20 3

/-- True for a packet whose only effect is an arrival (R337). -/
def isMark (h : Header) : Bool := decide (h.op = 4) && oMark h || decide (h.op = 3) && oArray h && oMark h

/-- The permission bit of word 0 that an operation needs. -/
def permBit (op : Nat) : Nat := if op = 1 ∨ op = 5 ∨ op = 6 then 53 else if op = 3 then 55 else 54

/-- Bytes that a request touches from its OFFSET, and the alignment it must have. -/
def touched (pk : Packet) : Nat × Nat :=
  let h := pk.hdr
  let n := pk.data.length
  match h.op.toNat with
  | 1 => (bitsOf h.opinfo 0 4, bitsOf h.opinfo 0 4)
  | 2 => (n, n)
  | 3 => if oArray h then (n, atypeBytes (oAtype h)) else (atypeBytes (oAtype h), atypeBytes (oAtype h))
  | 5 => (bitsOf h.opinfo 0 13, 1)
  | 6 => (256, 256)
  | 7 => (0, 2 ^ 41)
  | _ => (n, 1)

/-- A request whose LEN and OPINFO are those that R337 gives its operation. -/
def formOk (pk : Packet) : Bool :=
  let h := pk.hdr
  let n := pk.data.length
  let size : Nat → Bool := fun k => decide (k = 1 ∨ k = 2 ∨ k = 4 ∨ k = 8)
  decide (h.len.toNat = n) && (match h.op.toNat with
  | 1 => decide (n = 0) && size (bitsOf h.opinfo 0 4)
  | 2 => size n
  | 3 =>
    if oMark h ∧ oArray h then decide (n = 0)
    else if oArray h then decide (oAop h < 6) && amoLegal (oAop h) (oAtype h) && decide (n % atypeBytes (oAtype h) = 0)
    else amoLegal (oAop h) (oAtype h) && decide (n = if oAop h = 7 then 16 else 8)
  | 4 => !oMark h || decide (n = 0)
  | 5 => decide (n = 0 ∧ 1 ≤ bitsOf h.opinfo 0 13 ∧ bitsOf h.opinfo 0 13 ≤ 4096)
  | 6 => decide (n = 0)
  | 7 => decide (n % 16 = 0)
  | _ => true)

/-- The first row of R333 from 2 to 7 by which a request is refused; `k` is its chamber. -/
def refuseRow (m : Mod) (pk : Packet) : Option Nat × Nat × Win :=
  let h := pk.hdr
  match chamberOfTag m h.chamber with
  | none => (some 2, 8, Win.init)
  | some k =>
    let w := m.window k (faWindow h.addr)
    let t := touched pk
    let off := faOffset h.addr
    let row : Option Nat :=
      if !wValid w then some 2
      else if BitVec.ofNat 16 (bitsOf w.w1 48 16) ≠ h.chamber then some 3
      else if galleryOf h.src.toNat < bitsOf w.w2 0 9 ∨ bitsOf w.w2 9 9 < galleryOf h.src.toNat ∨
          slotOf h.src.toNat < bitsOf w.w2 18 5 ∨ bitsOf w.w2 23 5 < slotOf h.src.toNat then some 4
      else if !bitOf w.w0 (permBit h.op.toNat) then some 5
      else if !isMark h ∧ (!formOk pk ∨ wSize w < off + t.1 ∨ off % t.2 ≠ 0) then some 6
      else if (oCen h ∨ isMark h) ∧ (h.op = 4 ∨ (h.op = 3 ∧ oArray h)) ∧ wCntNum w ≤ oDcnt h then some 7
      else none
    (row, k, w)

/-- The record of a refused request (R333). -/
def denyIn (pk : Packet) (k row : Nat) : Act := .look fun m => acts [
  bumpSat RM_STAT RM_STAT_DENIED_IN 1,
  record (qDie mgmtDie) 0x0A01 clsLasting .plain (chOf k) (dpFabric 1 m.selfId 0 0 0) mpTfw
    (detail [(32, 1, faWindow pk.hdr.addr), (34, 2, pk.hdr.src.toNat), (36, 4, pk.hdr.tag.toNat), (40, 1, row)])]

/-- A record of an AGG_STORE: word, mask, data. One that lies outside the window is given a word that no home holds. -/
def aggRecord (size : Nat) (bs : List Byte) : Nat × BitVec 8 × Word :=
  let w := bitsOf (wordAt bs 0) 0 38
  (if size < 8 * w + 8 then 2 ^ 60 else w, BitVec.ofNat 8 (bitsOf (wordAt bs 0) 40 8), wordAt bs 8)

/-- What a request does at its home. -/
def requestKind (pk : Packet) (w : Win) : AKind :=
  let h := pk.hdr
  match h.op.toNat with
  | 2 => .write pk.data
  | 3 =>
    if oArray h then .amoArray (oAop h) (oAtype h) pk.data none
    else .amo (oAop h) (oAtype h) (wordAt pk.data 0) (wordAt pk.data 8)
  | 4 => .write pk.data
  | 7 => .agg ((chunks 16 256 pk.data).map (aggRecord (wSize w))) 0 0 stOk
  | _ => .read

/-- The stack behind an address is not in service (R333 row 8). -/
def targetDown (m : Mod) (a : Nat) : Bool :=
  match locate a with
  | .stack s _ => !stackServes m s
  | .tile t _ => !m.dieRuns (dieOf t)
  | _ => false

/-- The time at which a request was stamped, by the signed 24-bit difference (R34). -/
def stampTime (m : Mod) (stamp : BitVec 24) : Word :=
  let age := (m.now.toNat + 2 ^ 24 - stamp.toNat) % 2 ^ 24
  BitVec.ofNat 64 (if age < 2 ^ 23 then m.now.toNat - age else m.now.toNat + (2 ^ 24 - age))

/-- A request arrives at I/O die `i` of its destination (R333): checked, and performed at its home, which answers. -/
def ingress (i : Nat) (pk : Packet) (e : Ecc) : Act := .look fun m =>
  let h := pk.hdr
  let reply : Nat → Act := fun st => sendReply i h (h.op.toNat + 0x40) st []
  if h.dst.toNat ≠ m.selfId ∨ h.net ∨ !m.dieRuns (ioDie i) then .nop
  else acts [takeFrom i pk,
    if tooOld m h then staleDrop
    else match refuseRow m pk with
      | (some row, k, _) => acts [denyIn pk k row, reply stDenied]
      | (none, k, w) =>
        let addr := wBase w + faOffset h.addr
        if isMark h then
          if counterRefused m (some (wCntBase w + oDcnt h)) then reply stUnavailable
          else acts [arrive (wCntBase w + oDcnt h) 1, reply stOk]
        else if targetDown m addr then reply stUnavailable
        else arriveAccess {
          org := .fabric i h
          kind := requestKind pk w
          addr := addr
          size := if h.op = 7 then 0 else (touched pk).1
          hint := 0
          chamber := k
          cnt := if oCen h ∧ (h.op = 4 ∨ (h.op = 3 ∧ oArray h)) then some (wCntBase w + oDcnt h) else none
          stat := true
          tag := h.tag
          pc := 0
          word := 0
          stamp := stampTime m h.stamp
          rd := 0
          run := 0 } e]

/-- A request command of one operation. -/
def requestCmd (op : Nat) (i : Nat) (pk : Packet) (e : Ecc) (s : State) : Result :=
  packetCmd pk (onlyIf (decide (pk.hdr.op.toNat = op)) (ingress i pk e)) s

def execLoad (i : Fin 8) (pk : Packet) (e : Ecc) (s : State) : Result := requestCmd 1 i pk e s
def execStore (i : Fin 8) (pk : Packet) (e : Ecc) (s : State) : Result := requestCmd 2 i pk e s
def execAtomic (i : Fin 8) (pk : Packet) (e : Ecc) (s : State) : Result := requestCmd 3 i pk e s
def execCopyWrite (i : Fin 8) (pk : Packet) (e : Ecc) (s : State) : Result := requestCmd 4 i pk e s
def execCopyRead (i : Fin 8) (pk : Packet) (e : Ecc) (s : State) : Result := requestCmd 5 i pk e s
def execBlockFetch (i : Fin 8) (pk : Packet) (e : Ecc) (s : State) : Result := requestCmd 6 i pk e s
def execAggStore (i : Fin 8) (pk : Packet) (e : Ecc) (s : State) : Result := requestCmd 7 i pk e s

/-! ### Answers at the sender (R338, R339, R342, R345, R356) -/

/-- A packet of a descriptor is sent once more, with a tag of its own (R356). -/
def resend (t seq : Nat) (r : Req) : Act := .look fun m =>
  let tag := nextTag m t
  acts [modThallus t (fun x => { x with tagSerial := nextSerial m t + 1 }),
    modXfer t seq (fun y => { y with retried := true }),
    addReq { r with tag := tag, hdr := { r.hdr with tag := tag }, sent := false, retried := true, stamp := m.now }]

/-- Bytes of a fabric copy read arrive: they leave for the local destination, where they are written and counted. -/
def copyReadDone (t seq j : Nat) (x : Xfer) (r : Req) (bs : List Byte) : Act :=
  let off := (r.hdr.addr - (dSrc x.desc + BitVec.ofNat 64 (segRange x.desc j).1)).toNat
  segAccess t seq j .move (.write bs) ((segDest x j).toNat + off) bs.length (dHint x.desc) (segBytesCnt x j)

/-- A request of a thallus or of a descriptor ends with a status and the reply's data. -/
def endRequest (r : Req) (st : Nat) (bs : List Byte) : Act := .look fun m =>
  match r.org with
  | .thallus t =>
    let st' := if r.hdr.op = 3 ∧ st = stTimeout then stUnknown else st
    if r.hdr.op = 2 then onlyIf (decide (st' ≠ stOk)) (postedFailure t r.run r.stat r.pc r.word st' r.hdr.addr)
    else queueReply ⟨t, r.tag, r.rd, st', if st' = stOk then BitVec.ofNat 64 (leNat bs) else 0, r.hdr.addr, r.stat, r.pc,
      r.word⟩
  | .xfer t seq j _ =>
    if (m.thallus t).starts ≠ r.run then .nop
    else match m.xfer t seq with
      | none => .nop
      | some x =>
        let c := segCounter x j
        if st ≠ stOk ∧ !r.retried ∧ segRetries (dOp x.desc) (c.1 && decide (r.hdr.op ≠ 5)) (dCunit x.desc) (isMark r.hdr) st then resend t seq r
        else if st ≠ stOk then
          segPacketDone t seq j (if dOp x.desc = opArray ∧ st = stTimeout then stUnknown else st) 0
        else if r.hdr.op = 5 then copyReadDone t seq j x r bs
        else segPacketDone t seq j stOk r.data.length
  | _ => .nop

/-- The thallus requests that a tag names end. -/
def endTags (tags : List (BitVec 32)) (f : Req → Act) : Act := forEach tags fun tg => .look fun m =>
  match m.reqs.find? fun r => r.tag = tg with
  | none => .nop
  | some r => acts [endReqs (fun x => x.tag = tg), f r]

/-- The fetch or buffer of a gateway engine ends: its bytes are handed out, or its records' statuses (R342, R345). -/
def endGateway (i : Nat) (r : Req) (st : Nat) (bs : List Byte) : Act := .look fun m =>
  let d := m.iodie i
  match d.fetches.find? (fun f => f.sent && decide (f.tag = r.tag)), d.bufs.find? (fun b => decide (b.tag = some r.tag)) with
  | some f, _ => acts [
      modIoDie i (fun d => { d with fetches := d.fetches.filter fun x => !(x.sent && decide (x.tag = r.tag)) }),
      modPool (gatewayPool i) (fun p => { p with returned := p.returned + 4 }),
      endTags f.waiters (fun q => endRequest q st ((bs.drop (q.hdr.addr.toNat % 256)).take q.size)),
      .look fun m => match (m.iodie i).fetches.findIdx? fun x => !x.sent with
        | some n => sendFetch i n
        | none => .nop]
  | none, some b =>
    let whole := bs.isEmpty && decide (st ≠ stOk)
    let mask := leNat bs
    acts [
      modIoDie i (fun d => { d with bufs := d.bufs.filter fun x => x.tag ≠ some r.tag }),
      forEach b.recs.zipIdx fun x => endTags x.1.2.2.2 fun q =>
        endRequest q (if whole ∨ (st ≠ stOk ∧ mask.testBit x.2) then st else stOk) []]
  | none, none => .nop

/-- An outstanding request ends (R338, R339). -/
def finishReq (r : Req) (st : Nat) (bs : List Byte) : Act := acts [
  endReqs (fun x => x.tag = r.tag),
  (match r.org with
   | .gateway i => endGateway i r st bs
   | _ => endRequest r st bs),
  pumpIo r.io]

/-- A reply reaches the module; one that nothing waits for is discarded (R339). -/
def arriveReply (pk : Packet) : Act := .look fun m =>
  let st := pk.hdr.status.toNat
  match m.reqs.find? fun r => decide (r.tag = pk.hdr.tag) && r.sent with
  | none => takeAny pk
  | some r =>
    if pk.hdr.src.toNat ≠ m.selfId then .nop
    else acts [takeAny pk, finishReq r st pk.data]

def execRemoteReply (pk : Packet) (s : State) : Result :=
  packetCmd pk (onlyIf (pk.hdr.net && decide (0x41 ≤ pk.hdr.op.toNat ∧ pk.hdr.op.toNat ≤ 0x47)) (arriveReply pk)) s

/-- STATUS_ONLY from a router or a gateway engine (R272). -/
def execStatusOnly (pk : Packet) (s : State) : Result :=
  packetCmd pk (onlyIf (pk.hdr.net && decide (pk.hdr.op = 0x4F)) (arriveReply pk)) s

/-- TIMEOUT_US has passed since a request's injection stamp (R339); what waits at a gateway engine counts its wait
(R342). -/
def execRequestTimeout (tag : BitVec 32) (s : State) : Result := done (.look fun m =>
  match m.reqs.find? fun r => r.tag = tag with
  | none => .nop
  | some r =>
    onlyIf (decide ((r.sent ∨ r.gateway) ∧ r.stamp.toNat + 1000 * m.fld RM_CFG RM_CFG_TIMEOUT_US ≤ m.now.toNat))
      (acts [bumpSat RM_STAT RM_STAT_TIMEOUTS 1, finishReq r stTimeout []])) s

/-! ### Aggregation buffers (R344) -/

/-- True where a thallus that contributed to a buffer waits in FENCE.F or END. -/
def fencedBuffer (m : Mod) (b : AggBuf) : Bool :=
  b.recs.any fun r => r.2.2.2.any fun tg => m.reqs.any fun q => decide (q.tag = tg) && (match q.org with
    | .thallus t => decide ((m.thallus t).block = some .fenceF ∨ (m.thallus t).block = some .ending)
    | _ => false)

/-- An event of R344 has occurred for a buffer; a full table's is met as a store comes. -/
def bufferDue (m : Mod) (b : AggBuf) : Bool :=
  decide (256 ≤ b.recs.length ∨ b.since.toNat + 2000 ≤ m.now.toNat) || fencedBuffer m b

def execAggBufferSend (i : Fin 8) (n : Nat) (s : State) : Result := done (.look fun m =>
  match (m.iodie i).bufs[n]? with
  | none => .nop
  | some b => onlyIf (bufferDue m b && m.dieRuns (ioDie i)) (sendBuffer i n)) s

/-! ### Descriptor commands (R347–R358) -/

/-- A descriptor's work goes on while its die runs. -/
def onDie (t : Nat) (a : Act) : Act := .look fun m => onlyIf (m.dieRuns (dieOf t)) a

/-! The reads of a descriptor but an UNPACK are accesses, and the ECC outcome of one comes with the HOME_ACCESS that makes it.
These four commands read nothing themselves, so the outcome they carry strikes nothing (log 63). -/

def execDescCopy (t : Fin 1200) (seq : BitVec 64) (_e : Ecc) (s : State) : Result :=
  done (onDie t (startCopy t seq.toNat)) s
def execDescFanout (t : Fin 1200) (seq : BitVec 64) (_e : Ecc) (s : State) : Result :=
  done (onDie t (startFanout t seq.toNat)) s
def execDescAmoArray (t : Fin 1200) (seq : BitVec 64) (_e : Ecc) (s : State) : Result :=
  done (onDie t (startArray t seq.toNat)) s
def execDescQsend (t : Fin 1200) (seq : BitVec 64) (_e : Ecc) (s : State) : Result :=
  done (onDie t (startQsend t seq.toNat)) s
def execDescUnpack (t : Fin 1200) (seq : BitVec 64) (e : Ecc) (s : State) : Result :=
  done (onDie t (startUnpack t seq.toNat e)) s
def execTransferComplete (t : Fin 1200) (seq : BitVec 64) (e : Ecc) (s : State) : Result :=
  done (onDie t (finishXfer t seq.toNat e)) s

end Sys2Proof.Machine
end

