-- ==== Sys2Proof/Machine/Scalar.lean ====
section
/-! DEFINITION. The scalar class (R95–R98): each body is the meaning of an instruction at issue. -/

namespace Sys2Proof.Machine

/-! ### Operand forms -/

/-- rd = ra op rb (SR). -/
def formRR (op : Word → Word → Word) : Body :=
  issue [useRd, useRa, useRb] (fun w => [fRd w, fRa w, fRb w]) fun _ th t _ w =>
    commit t fun x => x.sset (fRd w) (op (th.sget (fRa w)) (th.sget (fRb w)))

/-- rd = ra op IMM (SI). -/
def formRI (op : Word → Word → Word) : Body :=
  issue [useRd, useRa, useImm] (fun w => [fRd w, fRa w]) fun _ th t _ w =>
    commit t fun x => x.sset (fRd w) (op (th.sget (fRa w)) (fImm w))

/-- Shift of ra by IMM[5:0] (SI). -/
def formShiftI (op : Word → Nat → Word) : Body :=
  issue [useRd, useRa, (20, 6)] (fun w => [fRd w, fRa w]) fun _ th t _ w =>
    commit t fun x => x.sset (fRd w) (op (th.sget (fRa w)) (bitsOf w 20 6))

/-- rd = op ra; RB must be 0 (SR). -/
def formR (op : Word → Word) : Body :=
  issue [useRd, useRa] (fun w => [fRd w, fRa w]) fun _ th t _ w =>
    commit t fun x => x.sset (fRd w) (op (th.sget (fRa w)))

/-- A conditional branch (SB): RA in [14:10], RB in [19:15]. -/
def formBranch (cond : Word → Word → Bool) : Body :=
  issue [(10, 5), (15, 5), (20, 20)] (fun w => [bitsOf w 10 5, bitsOf w 15 5]) fun _ th t _ w =>
    if cond (th.sget (bitsOf w 10 5)) (th.sget (bitsOf w 15 5)) then branch t (th.pc + fOff w * 8) id
    else commit t id

/-- The value 1 or 0 of a comparison. -/
def boolWord (b : Bool) : Word := if b then 1 else 0

/-! ### Arithmetic (R95, R96) -/

def addBody : Body := formRR fun a b => a + b
def subBody : Body := formRR fun a b => a - b
def andBody : Body := formRR fun a b => a &&& b
def orBody : Body := formRR fun a b => a ||| b
def xorBody : Body := formRR fun a b => a ^^^ b
def sllBody : Body := formRR fun a b => a <<< (bitsOf b 0 6)
def srlBody : Body := formRR fun a b => a >>> (bitsOf b 0 6)
def sraBody : Body := formRR fun a b => a.sshiftRight (bitsOf b 0 6)
def mulBody : Body := formRR fun a b => a * b
def mulhuBody : Body := formRR fun a b => BitVec.ofNat 64 (a.toNat * b.toNat / 2 ^ 64)
/-- A divisor of zero gives all ones (R96). -/
def divuBody : Body := formRR fun a b => if b = 0 then BitVec.allOnes 64 else a / b
/-- A divisor of zero gives ra (R96). -/
def remuBody : Body := formRR fun a b => if b = 0 then a else a % b
def sltBody : Body := formRR fun a b => boolWord (a.slt b)
def sltuBody : Body := formRR fun a b => boolWord (a.ult b)
def minBody : Body := formRR fun a b => if b.slt a then b else a
def maxBody : Body := formRR fun a b => if a.slt b then b else a
def addiBody : Body := formRI fun a i => a + i
def andiBody : Body := formRI fun a i => a &&& i
def oriBody : Body := formRI fun a i => a ||| i
def xoriBody : Body := formRI fun a i => a ^^^ i
def slliBody : Body := formShiftI fun a n => a <<< n
def srliBody : Body := formShiftI fun a n => a >>> n
def sraiBody : Body := formShiftI fun a n => a.sshiftRight n
/-- LI: RA must be 0. -/
def liBody : Body :=
  issue [useRd, useImm] (fun w => [fRd w]) fun _ _ t _ w => commit t fun x => x.sset (fRd w) (fImm w)
/-- LIH: IMM[19:0] goes to bits [63:44], the rest is ra[43:0]. -/
def lihBody : Body :=
  issue [useRd, useRa, (20, 20)] (fun w => [fRd w, fRa w]) fun _ th t _ w =>
    commit t fun x => x.sset (fRd w) (putBits (th.sget (fRa w)) 44 20 (bitsOf w 20 20))
def sltiBody : Body := formRI fun a i => boolWord (a.slt i)
def clzBody : Body := formR fun a => BitVec.ofNat 64 (if a = 0 then 64 else 63 - Nat.log2 a.toNat)
def popcBody : Body := formR fun a => BitVec.ofNat 64 (popCount 64 a.toNat)

/-! ### Loads and stores (R54–R56, R98) -/

/-- The value that a load of `n` bytes leaves in rd. -/
def extendLoad (n : Nat) (signed : Bool) (v : Nat) : Word :=
  if signed then BitVec.ofNat 64 (ofSigned 64 (toSigned (8 * n) v)) else BitVec.ofNat 64 (v % 2 ^ (8 * n))

/-- Bytes of a line that an access covers. -/
def lineGet (l : NLine) (off n : Nat) : Nat := leNat ((List.range n).map fun i => l.data.getD (off + i) 0)
def linePut (l : NLine) (off : Nat) (bs : List Byte) : NLine :=
  { l with
    data := (List.range 64).map fun i =>
      if off ≤ i ∧ i < off + bs.length then bs.getD (i - off) 0 else l.data.getD i 0
    dirty := l.dirty ||| BitVec.ofNat 64 ((2 ^ bs.length - 1) * 2 ^ off) }

/-- A load or store that hits a near-cache line: the data moves and the replacement bits follow (R54). -/
def nearAccess (t way a n : Nat) (signed : Bool) (rd : Nat) (store : Option Word) : Act := .look fun m =>
  let th := m.thallus t
  let key := 4 * nearSet a + way
  match th.near.get? key with
  | none => .nop
  | some l =>
    let bits := plruTouch (th.plru.getD (nearSet a) 0) way
    commit t fun x =>
      let x := { x with plru := x.plru.put (nearSet a) bits }
      match store with
      | none => x.sset rd (extendLoad n signed (lineGet l (a % 64) n))
      | some v => { x with near := x.near.put key (linePut l (a % 64) (leBytes n v.toNat)) }

/-- A scalar access: naturally aligned or an address fault (R98), checked (R91); its own tile store directly (R56);
device memory through the near cache, where a miss waits for its refill. -/
def scalarAccess (n : Nat) (signed : Bool) (store : Bool) : Body :=
  issue [useRd, useRa, useImm] (fun w => [fRd w, fRa w]) fun m th t e w =>
    let addr := th.sget (fRa w) + fImm w
    let a := addr.toNat
    let sv : Option Word := if store then some (th.sget (fRd w)) else none
    if a % n ≠ 0 then fault t exAddress w addr
    else match scalarCheck m t addr with
      | some x => fault t x w addr
      | none =>
        match locate a with
        | .tile _ off =>
          if store then acts [.upd (.mem a (leBytes n (th.sget (fRd w)).toNat)), commit t id]
          else ownTile t e w off (.look fun m =>
            commit t fun x => x.sset (fRd w) (extendLoad n signed (leNat (memRead m.mem a n))))
        | _ =>
          match nearFind th a with
          | some way => nearAccess t way a n signed (fRd w) sv
          | none => modThallus t fun x =>
              { x with block := some (.miss a n signed (BitVec.ofNat 5 (fRd w)) sv x.pc w) }

def lbBody : Body := scalarAccess 1 true false
def lbuBody : Body := scalarAccess 1 false false
def lhBody : Body := scalarAccess 2 true false
def lhuBody : Body := scalarAccess 2 false false
def lwBody : Body := scalarAccess 4 true false
def lwuBody : Body := scalarAccess 4 false false
def ldBody : Body := scalarAccess 8 false false
def sbBody : Body := scalarAccess 1 false true
def shBody : Body := scalarAccess 2 false true
def swBody : Body := scalarAccess 4 false true
def sdBody : Body := scalarAccess 8 false true

/-- The refill of a missed line ends (R54, R98): the line fills its way, after a dirty victim is written back, and the
load or store completes; a refill with another status raises a precise exception. The exceptions that fell due
meanwhile are raised at this boundary (R122). -/
def refill (t : Nat) (e : Ecc) : Act := .look fun m =>
  let due := (m.thallus t).due
  match (m.thallus t).block with
  | some (.miss a n signed rd store pc w) =>
    homeRead (a / 64 * 64) 64 (m.thChamber t) 0 e fun st bs =>
      if st ≠ stOk then acts [
        modThallus t (fun x => { x with block := none, due := [] }),
        raise t (statusException st) pc w st (BitVec.ofNat 64 a), raiseDue t due]
      else .look fun m =>
        let th := m.thallus t
        let way := nearVictim th a
        let key := 4 * nearSet a + way
        acts [
          (match th.near.get? key with
           | some v => writeBack t key v
           | none => .nop),
          modThallus t (fun x => { x with block := none, due := [], near := x.near.put key ⟨nearTag a, 0, bs⟩ }),
          nearAccess t way a n signed rd.toNat store,
          raiseDue t due]
  | _ => .nop

/-! ### Branches (R97) -/

def beqBody : Body := formBranch fun a b => decide (a = b)
def bneBody : Body := formBranch fun a b => decide (a ≠ b)
def bltBody : Body := formBranch fun a b => a.slt b
def bgeBody : Body := formBranch fun a b => !a.slt b
def bltuBody : Body := formBranch fun a b => a.ult b
def bgeuBody : Body := formBranch fun a b => !a.ult b
def bbsBody : Body := formBranch fun a b => a.getLsbD (bitsOf b 0 6)
def bbcBody : Body := formBranch fun a b => !a.getLsbD (bitsOf b 0 6)

/-- JAL: RD in [14:10]; RB must be 0. -/
def jalBody : Body :=
  issue [(10, 5), (20, 20)] (fun w => [fRd w]) fun _ th t _ w =>
    branch t (th.pc + fOff w * 8) fun x => x.sset (fRd w) (th.pc + 8)

/-- JR: the target is ra as it was before rd is written. -/
def jrBody : Body :=
  issue [useRd, useRa] (fun w => [fRd w, fRa w]) fun _ th t _ w =>
    branch t (th.sget (fRa w)) fun x => x.sset (fRd w) (th.pc + 8)

/-! ### Context registers and the end of a stage (R90, R120) -/

/-- SRD: an index above 10 is illegal; CTX_STRATUM reads the stratum counter; reading CTX_XERR clears it and
CTX_XERR_ADDR. -/
def srdBody : Body :=
  issue [useRd, (20, 4)] (fun w => [fRd w]) fun m th t _ w =>
    let i := bitsOf w 20 4
    if 10 < i then fault t exIllegal w (BitVec.ofNat 64 i)
    else if i = 7 then commit t fun x => x.sset (fRd w) m.now
    else if i = 9 then commit t fun x =>
      { x.sset (fRd w) (th.ctx.getD 9 0) with ctx := (x.ctx.put 9 0).put 10 0 }
    else commit t fun x => x.sset (fRd w) (th.ctx.getD i 0)

/-- END waits for everything before it; its report is an event of its own. -/
def endBody : Body :=
  issue [] (fun _ => []) fun _ _ t _ _ => modThallus t fun x => { x with block := some .ending }

def nopBody : Body := issue [] (fun _ => []) fun _ _ t _ _ => commit t id

end Sys2Proof.Machine
end

