-- ==== Sys2Proof/Machine/Vector.lean ====
section
/-! DEFINITION. The vector class (R99–R102, R555). -/

namespace Sys2Proof.Machine

/-! ### Lanes -/

def lanesOf (w : Nat) : Nat := 1024 / w
def lane (v : BitVec 1024) (w j : Nat) : Nat := bitsOf v (w * j) w

/-- The register whose lanes, from lane 0 up, are listed. -/
def ofLanes (w : Nat) (l : List Nat) : BitVec 1024 :=
  BitVec.ofNat 1024 (l.foldr (fun x a => x % 2 ^ w + 2 ^ w * a) 0)

/-- The active lanes take `f`, the others keep their value (R99). -/
def mapLanes (w : Nat) (p : BitVec 128) (old : BitVec 1024) (f : Nat → Nat) : BitVec 1024 :=
  ofLanes w ((List.range (lanesOf w)).map fun j => if p.getLsbD j then f j else lane old w j)

def useType : Nat × Nat := (33, 3)
def usePred : Nat × Nat := (30, 3)

/-- Types a row of R99 allows. -/
def anyType (ty : Nat) : Bool := decide (ty ≤ 5)
def fpType (ty : Nat) : Bool := decide (ty ≤ 2)
def intType (ty : Nat) : Bool := decide (3 ≤ ty ∧ ty ≤ 5)

/-- The frame of a V instruction over one type: illegal types, then `k` with the element type, the predicate and the
thallus. -/
def vForm (fs : List (Nat × Nat)) (regs : Word → List Nat) (ok : Nat → Bool)
    (k : Mod → Thallus → Nat → Env → Word → ElTy → BitVec 128 → Act) : Body :=
  issue fs regs fun m th t e w =>
    if !ok (fType w) then fault t exIllegal w 0
    else k m th t e w (vecType (fType w)) (th.pget (fPred w))

/-- vd = va op vb on active lanes. -/
def vBinary (ok : Nat → Bool) (op : ElTy → Nat → Nat → Nat) : Body :=
  vForm [useRd, useRa, useRb, usePred, useType] (fun _ => []) ok fun _ th t _ w ty p =>
    commit t fun x => x.vset (fRd w) (mapLanes ty.width p (x.vget (fRd w)) fun j =>
      op ty (lane (th.vget (fRa w)) ty.width j) (lane (th.vget (fRb w)) ty.width j))

/-- vd = op va on active lanes. -/
def vUnary (ok : Nat → Bool) (op : ElTy → Nat → Nat) : Body :=
  vForm [useRd, useRa, usePred, useType] (fun _ => []) ok fun _ th t _ w ty p =>
    commit t fun x => x.vset (fRd w) (mapLanes ty.width p (x.vget (fRd w)) fun j =>
      op ty (lane (th.vget (fRa w)) ty.width j))

/-- p[VD[2:0]] = va op vb: inactive lanes and the bits above the lane count are 0. -/
def vCompare (op : ElTy → Nat → Nat → Bool) : Body :=
  vForm [(10, 3), useRa, useRb, usePred, useType] (fun _ => []) anyType fun _ th t _ w ty p =>
    let bits := (List.range (lanesOf ty.width)).filter fun j =>
      p.getLsbD j && op ty (lane (th.vget (fRa w)) ty.width j) (lane (th.vget (fRb w)) ty.width j)
    commit t fun x => x.pset (bitsOf w 10 3) (BitVec.ofNat 128 (maskOf bits))

/-- Lane 0 of vd = reduction of the active lanes in ascending order, from the first; `empty` with no active lane;
the other lanes are 0. A NaN alone becomes the default NaN (R553). -/
def vReduce (op : ElTy → Nat → Nat → Nat) (empty : ElTy → Nat) : Body :=
  vForm [useRd, useRa, usePred, useType] (fun _ => []) anyType fun _ th t _ w ty p =>
    let xs := ((List.range (lanesOf ty.width)).filter fun j => p.getLsbD j).map
      fun j => lane (th.vget (fRa w)) ty.width j
    let first : Nat → Nat := fun a => match ty with
      | .flt f => rnd f (f.decode a)
      | .int _ => a
    let r := match xs with
      | [] => empty ty
      | a :: l => l.foldl (op ty) (first a)
    commit t fun x => x.vset (fRd w) (ofLanes ty.width [r])

/-! ### Arithmetic -/

def vaddBody : Body := vBinary anyType elAdd
def vsubBody : Body := vBinary anyType elSub
def vmulBody : Body := vBinary anyType elMul
/-- va × vb + vc, rounded once. -/
def vfmaBody : Body :=
  vForm [useRd, useRa, useRb, useRc, usePred, useType] (fun _ => []) fpType fun _ th t _ w ty p =>
    match ty with
    | .int _ => .nop
    | .flt f => commit t fun x => x.vset (fRd w) (mapLanes f.width p (x.vget (fRd w)) fun j =>
        fFma f (lane (th.vget (fRa w)) f.width j) (lane (th.vget (fRb w)) f.width j) (lane (th.vget (fRc w)) f.width j))
def vminBody : Body := vBinary anyType elMin
def vmaxBody : Body := vBinary anyType elMax
def vandBody : Body := vBinary intType fun _ a b => a &&& b
def vorBody : Body := vBinary intType fun _ a b => a ||| b
def vxorBody : Body := vBinary intType fun _ a b => a ^^^ b
def vshlBody : Body := vBinary intType fun ty a b => a * 2 ^ (b % ty.width) % 2 ^ ty.width
/-- VSHR is arithmetic. -/
def vshrBody : Body := vBinary intType fun ty a b => ofSigned ty.width (toSigned ty.width a / 2 ^ (b % ty.width))
def vabsBody : Body := vUnary anyType elAbs
def vnegBody : Body := vUnary anyType elNeg

/-- VSEL writes every lane: va where the predicate bit is 1, else vb. -/
def vselBody : Body :=
  vForm [useRd, useRa, useRb, usePred, useType] (fun _ => []) anyType fun _ th t _ w ty p =>
    commit t fun x => x.vset (fRd w) (mapLanes ty.width p (th.vget (fRb w)) fun j =>
      lane (th.vget (fRa w)) ty.width j)

def vcmpltBody : Body := vCompare elLt
def vcmpeqBody : Body := vCompare elEq
def vcmpleBody : Body := vCompare elLe

/-! ### Moves between register files -/

/-- Every active lane = the low bits of s[VA]. -/
def vbcastBody : Body :=
  vForm [useRd, useRa, usePred, useType] (fun w => [fRa w]) anyType fun _ th t _ w ty p =>
    commit t fun x => x.vset (fRd w) (mapLanes ty.width p (x.vget (fRd w)) fun _ =>
      bitsOf (th.sget (fRa w)) 0 ty.width)

/-- s[VD] = lane 0, sign-extended for integers, zero-extended for FP patterns. -/
def vtosBody : Body :=
  vForm [useRd, useRa, useType] (fun w => [fRd w]) anyType fun _ th t _ w ty _ =>
    let a := lane (th.vget (fRa w)) ty.width 0
    commit t fun x => x.sset (fRd w) (match ty with
      | .flt _ => BitVec.ofNat 64 a
      | .int n => BitVec.ofNat 64 (ofSigned 64 (toSigned n a)))

def vredaddBody : Body := vReduce elAdd fun _ => 0
def vredmaxBody : Body := vReduce elMax fun ty => match ty with
  | .flt f => f.encode .inf (.inf true)
  | .int w => 2 ^ (w - 1)
def vredminBody : Body := vReduce elMin fun ty => match ty with
  | .flt f => f.encode .inf (.inf false)
  | .int w => 2 ^ (w - 1) - 1

/-- PMOV: half of p[VD[2:0]] that TYPE2[0] selects = s[VA]. -/
def pmovBody : Body :=
  issue [(10, 3), useRa, (36, 1)] (fun w => [fRa w]) fun _ th t _ w =>
    let v := (th.sget (fRa w)).toNat
    commit t fun x =>
      let old := (x.pregs.getD (bitsOf w 10 3) 0).toNat
      x.pset (bitsOf w 10 3) (BitVec.ofNat 128 (if bitsOf w 36 1 = 0 then old / 2 ^ 64 * 2 ^ 64 + v
        else old % 2 ^ 64 + v * 2 ^ 64))

/-- PTOS: s[VD] = half of p[VA[2:0]]. -/
def ptosBody : Body :=
  issue [useRd, (15, 3), (36, 1)] (fun w => [fRd w]) fun _ th t _ w =>
    commit t fun x => x.sset (fRd w) (BitVec.ofNat 64 (bitsOf (th.pget (bitsOf w 15 3)) (64 * bitsOf w 36 1) 64))

def pBinary (op : BitVec 128 → BitVec 128 → BitVec 128) : Body :=
  issue [(10, 3), (15, 3), (20, 3)] (fun _ => []) fun _ th t _ w =>
    commit t fun x => x.pset (bitsOf w 10 3) (op (th.pget (bitsOf w 15 3)) (th.pget (bitsOf w 20 3)))
def pandBody : Body := pBinary fun a b => a &&& b
def porBody : Body := pBinary fun a b => a ||| b

/-! ### Approximations (R102) and conversion (R100) -/

/-- An approximation: the default NaN for a NaN (R553), the domain rules of R102, else a result within the bound (log
11). -/
def approxOf (op ty : Nat) (special : Fmt → FVal → Option Nat) : ElTy → Nat → Nat
  | .int _, a => a
  | .flt f, a =>
    let v := f.decode a
    if v.isNan then f.dnan
    else match special f v with
      | some r => r
      | none => boundedResult op f v ((Config.approx op ty (BitVec.ofNat 32 a)).toNat % 2 ^ f.width)

def vApprox (op : Nat) (special : Fmt → FVal → Option Nat) : Body := fun t e w =>
  vUnary fpType (approxOf op (fType w) special) t e w

def infPat (f : Fmt) (neg : Bool) : Nat := f.encode .inf (.inf neg)

def vexp2Body : Body := vApprox 0x20 fun _ _ => none
def vlog2Body : Body := vApprox 0x21 fun f v =>
  if v.isZero then some (infPat f true) else if v.belowZero then some f.dnan else none
def vrcpBody : Body := vApprox 0x22 fun f v => if v.isZero then some (infPat f v.negative) else none
def vrsqrtBody : Body := vApprox 0x23 fun f v =>
  if v.isZero then some (infPat f v.negative) else if v.belowZero then some f.dnan else none
def vtanhBody : Body := vApprox 0x24 fun _ _ => none
def vsigmBody : Body := vApprox 0x25 fun _ _ => none

/-- VCVT from TYPE2 to TYPE: the lower lanes of va; destination lanes without a source lane become zero; only active
destination lanes are written. -/
def vcvtBody : Body :=
  issue [useRd, useRa, usePred, useType, (36, 3)] (fun _ => []) fun _ th t _ w =>
    let dst := vecType (fType w)
    let src := vecType (fType2 w)
    commit t fun x => x.vset (fRd w) (mapLanes dst.width (th.pget (fPred w)) (x.vget (fRd w)) fun j =>
      if j < lanesOf src.width then convert src dst (lane (th.vget (fRa w)) src.width j) else 0)

/-! ### Tile-store rows (R101) -/

def useVImm : Nat × Nat := (40, 24)

/-- The 1,024-bit row that 128 bytes spell. -/
def rowOfBytes (bs : List Byte) : BitVec 1024 := BitVec.ofNat 1024 (leNat bs)
def bytesOfRow (v : BitVec 1024) : List Byte := leBytes 128 v.toNat

def vldBody : Body :=
  vForm [useRd, useRa, usePred, useType, useVImm] (fun w => [fRa w]) anyType fun _ th t e w ty p =>
    let a := th.sget (fRa w) + fVImm w
    if a.toNat % 128 ≠ 0 ∨ tileBytes ≤ a.toNat then fault t exAddress w a
    else ownTile t e w a.toNat (.look fun m =>
      let row := rowOfBytes (m.tileBytes t a.toNat 128)
      commit t fun x => x.vset (fRd w) (mapLanes ty.width p (x.vget (fRd w)) fun j => lane row ty.width j))

/-- VST writes the bytes of active lanes; the others keep the value the row holds at that write. -/
def vstBody : Body :=
  vForm [useRd, useRa, usePred, useType, useVImm] (fun w => [fRa w]) anyType fun _ th t _ w ty p =>
    let a := th.sget (fRa w) + fVImm w
    if a.toNat % 128 ≠ 0 ∨ tileBytes ≤ a.toNat then fault t exAddress w a
    else .look fun m =>
      let row := rowOfBytes (m.tileBytes t a.toNat 128)
      let new := mapLanes ty.width p row fun j => lane (th.vget (fRd w)) ty.width j
      acts [.upd (.mem (tileAddr t a.toNat) (bytesOfRow new)), commit t id]

/-- Types of a gather or scatter: 32- and 16-bit ones. -/
def gatherType (ty : Nat) : Bool := decide (ty ≤ 4)

/-- The active lanes of a gather or scatter with their element offsets: ra + IMM + vb[j] × element size. -/
def elemOffsets (th : Thallus) (w : Word) (ty : ElTy) (p : BitVec 128) : List (Nat × Word) :=
  ((List.range (lanesOf ty.width)).filter fun j => p.getLsbD j).map fun j =>
    (j, th.sget (fRa w) + fVImm w + BitVec.ofNat 64 (lane (th.vget (fRb w)) ty.width j * (ty.width / 8)))

/-- The first element offset that breaks R101 or R91. -/
def badElem (ty : ElTy) (l : List (Nat × Word)) : Option Word :=
  (l.find? fun e => decide (e.2.toNat % (ty.width / 8) ≠ 0 ∨ tileBytes ≤ e.2.toNat)).map (·.2)

def vgatherBody : Body :=
  vForm [useRd, useRa, useRb, usePred, useType, useVImm] (fun w => [fRa w]) gatherType fun _ th t e w ty p =>
    let es := elemOffsets th w ty p
    match badElem ty es with
    | some a => fault t exAddress w a
    | none =>
      let go : Act := .look fun m => commit t fun x => x.vset (fRd w) (mapLanes ty.width p (x.vget (fRd w)) fun j =>
        match es.find? fun e => e.1 = j with
        | some e => leNat (m.tileBytes t e.2.toNat (ty.width / 8))
        | none => 0)
      match es with
      | [] => go
      | a :: _ => ownTile t e w a.2.toNat go

/-- Of two lanes that address one element the higher-numbered is stored: elements are written in rising lane order. -/
def vscatterBody : Body :=
  vForm [useRd, useRa, useRb, usePred, useType, useVImm] (fun w => [fRa w]) gatherType fun _ th t _ w ty p =>
    let es := elemOffsets th w ty p
    match badElem ty es with
    | some a => fault t exAddress w a
    | none => acts [
        forEach es fun e => .upd (.mem (tileAddr t e.2.toNat)
          (leBytes (ty.width / 8) (lane (th.vget (fRd w)) ty.width e.1))),
        commit t id]

end Sys2Proof.Machine
end

