-- ==== Sys2Proof/Machine/Instructions.lean ====
section
/-! DEFINITION. The meaning of each thallus instruction (R94–R120): the word that its class and opcode make with
bits [63:10] is fetched, checked and issued. -/

namespace Sys2Proof.Machine

def execAdd (t : Fin 1200) (e : Env) (f : BitVec 54) (s : State) : Result :=
  done (runWord addBody t e (wordOf 0 0x00 f)) s
def execSub (t : Fin 1200) (e : Env) (f : BitVec 54) (s : State) : Result :=
  done (runWord subBody t e (wordOf 0 0x01 f)) s
def execAnd (t : Fin 1200) (e : Env) (f : BitVec 54) (s : State) : Result :=
  done (runWord andBody t e (wordOf 0 0x02 f)) s
def execOr (t : Fin 1200) (e : Env) (f : BitVec 54) (s : State) : Result :=
  done (runWord orBody t e (wordOf 0 0x03 f)) s
def execXor (t : Fin 1200) (e : Env) (f : BitVec 54) (s : State) : Result :=
  done (runWord xorBody t e (wordOf 0 0x04 f)) s
def execSll (t : Fin 1200) (e : Env) (f : BitVec 54) (s : State) : Result :=
  done (runWord sllBody t e (wordOf 0 0x05 f)) s
def execSrl (t : Fin 1200) (e : Env) (f : BitVec 54) (s : State) : Result :=
  done (runWord srlBody t e (wordOf 0 0x06 f)) s
def execSra (t : Fin 1200) (e : Env) (f : BitVec 54) (s : State) : Result :=
  done (runWord sraBody t e (wordOf 0 0x07 f)) s
def execMul (t : Fin 1200) (e : Env) (f : BitVec 54) (s : State) : Result :=
  done (runWord mulBody t e (wordOf 0 0x08 f)) s
def execMulhu (t : Fin 1200) (e : Env) (f : BitVec 54) (s : State) : Result :=
  done (runWord mulhuBody t e (wordOf 0 0x09 f)) s
def execDivu (t : Fin 1200) (e : Env) (f : BitVec 54) (s : State) : Result :=
  done (runWord divuBody t e (wordOf 0 0x0a f)) s
def execRemu (t : Fin 1200) (e : Env) (f : BitVec 54) (s : State) : Result :=
  done (runWord remuBody t e (wordOf 0 0x0b f)) s
def execSlt (t : Fin 1200) (e : Env) (f : BitVec 54) (s : State) : Result :=
  done (runWord sltBody t e (wordOf 0 0x0c f)) s
def execSltu (t : Fin 1200) (e : Env) (f : BitVec 54) (s : State) : Result :=
  done (runWord sltuBody t e (wordOf 0 0x0d f)) s
def execMin (t : Fin 1200) (e : Env) (f : BitVec 54) (s : State) : Result :=
  done (runWord minBody t e (wordOf 0 0x0e f)) s
def execMax (t : Fin 1200) (e : Env) (f : BitVec 54) (s : State) : Result :=
  done (runWord maxBody t e (wordOf 0 0x0f f)) s
def execAddi (t : Fin 1200) (e : Env) (f : BitVec 54) (s : State) : Result :=
  done (runWord addiBody t e (wordOf 0 0x10 f)) s
def execAndi (t : Fin 1200) (e : Env) (f : BitVec 54) (s : State) : Result :=
  done (runWord andiBody t e (wordOf 0 0x11 f)) s
def execOri (t : Fin 1200) (e : Env) (f : BitVec 54) (s : State) : Result :=
  done (runWord oriBody t e (wordOf 0 0x12 f)) s
def execXori (t : Fin 1200) (e : Env) (f : BitVec 54) (s : State) : Result :=
  done (runWord xoriBody t e (wordOf 0 0x13 f)) s
def execSlli (t : Fin 1200) (e : Env) (f : BitVec 54) (s : State) : Result :=
  done (runWord slliBody t e (wordOf 0 0x14 f)) s
def execSrli (t : Fin 1200) (e : Env) (f : BitVec 54) (s : State) : Result :=
  done (runWord srliBody t e (wordOf 0 0x15 f)) s
def execSrai (t : Fin 1200) (e : Env) (f : BitVec 54) (s : State) : Result :=
  done (runWord sraiBody t e (wordOf 0 0x16 f)) s
def execLi (t : Fin 1200) (e : Env) (f : BitVec 54) (s : State) : Result :=
  done (runWord liBody t e (wordOf 0 0x17 f)) s
def execLih (t : Fin 1200) (e : Env) (f : BitVec 54) (s : State) : Result :=
  done (runWord lihBody t e (wordOf 0 0x18 f)) s
def execSlti (t : Fin 1200) (e : Env) (f : BitVec 54) (s : State) : Result :=
  done (runWord sltiBody t e (wordOf 0 0x19 f)) s
def execClz (t : Fin 1200) (e : Env) (f : BitVec 54) (s : State) : Result :=
  done (runWord clzBody t e (wordOf 0 0x1a f)) s
def execPopc (t : Fin 1200) (e : Env) (f : BitVec 54) (s : State) : Result :=
  done (runWord popcBody t e (wordOf 0 0x1b f)) s
def execLb (t : Fin 1200) (e : Env) (f : BitVec 54) (s : State) : Result :=
  done (runWord lbBody t e (wordOf 0 0x20 f)) s
def execLbu (t : Fin 1200) (e : Env) (f : BitVec 54) (s : State) : Result :=
  done (runWord lbuBody t e (wordOf 0 0x21 f)) s
def execLh (t : Fin 1200) (e : Env) (f : BitVec 54) (s : State) : Result :=
  done (runWord lhBody t e (wordOf 0 0x22 f)) s
def execLhu (t : Fin 1200) (e : Env) (f : BitVec 54) (s : State) : Result :=
  done (runWord lhuBody t e (wordOf 0 0x23 f)) s
def execLw (t : Fin 1200) (e : Env) (f : BitVec 54) (s : State) : Result :=
  done (runWord lwBody t e (wordOf 0 0x24 f)) s
def execLwu (t : Fin 1200) (e : Env) (f : BitVec 54) (s : State) : Result :=
  done (runWord lwuBody t e (wordOf 0 0x25 f)) s
def execLd (t : Fin 1200) (e : Env) (f : BitVec 54) (s : State) : Result :=
  done (runWord ldBody t e (wordOf 0 0x26 f)) s
def execSb (t : Fin 1200) (e : Env) (f : BitVec 54) (s : State) : Result :=
  done (runWord sbBody t e (wordOf 0 0x28 f)) s
def execSh (t : Fin 1200) (e : Env) (f : BitVec 54) (s : State) : Result :=
  done (runWord shBody t e (wordOf 0 0x29 f)) s
def execSw (t : Fin 1200) (e : Env) (f : BitVec 54) (s : State) : Result :=
  done (runWord swBody t e (wordOf 0 0x2a f)) s
def execSd (t : Fin 1200) (e : Env) (f : BitVec 54) (s : State) : Result :=
  done (runWord sdBody t e (wordOf 0 0x2b f)) s
def execBeq (t : Fin 1200) (e : Env) (f : BitVec 54) (s : State) : Result :=
  done (runWord beqBody t e (wordOf 0 0x30 f)) s
def execBne (t : Fin 1200) (e : Env) (f : BitVec 54) (s : State) : Result :=
  done (runWord bneBody t e (wordOf 0 0x31 f)) s
def execBlt (t : Fin 1200) (e : Env) (f : BitVec 54) (s : State) : Result :=
  done (runWord bltBody t e (wordOf 0 0x32 f)) s
def execBge (t : Fin 1200) (e : Env) (f : BitVec 54) (s : State) : Result :=
  done (runWord bgeBody t e (wordOf 0 0x33 f)) s
def execBltu (t : Fin 1200) (e : Env) (f : BitVec 54) (s : State) : Result :=
  done (runWord bltuBody t e (wordOf 0 0x34 f)) s
def execBgeu (t : Fin 1200) (e : Env) (f : BitVec 54) (s : State) : Result :=
  done (runWord bgeuBody t e (wordOf 0 0x35 f)) s
def execBbs (t : Fin 1200) (e : Env) (f : BitVec 54) (s : State) : Result :=
  done (runWord bbsBody t e (wordOf 0 0x36 f)) s
def execBbc (t : Fin 1200) (e : Env) (f : BitVec 54) (s : State) : Result :=
  done (runWord bbcBody t e (wordOf 0 0x37 f)) s
def execJal (t : Fin 1200) (e : Env) (f : BitVec 54) (s : State) : Result :=
  done (runWord jalBody t e (wordOf 0 0x38 f)) s
def execJr (t : Fin 1200) (e : Env) (f : BitVec 54) (s : State) : Result :=
  done (runWord jrBody t e (wordOf 0 0x39 f)) s
def execSrd (t : Fin 1200) (e : Env) (f : BitVec 54) (s : State) : Result :=
  done (runWord srdBody t e (wordOf 0 0x3c f)) s
def execEndStage (t : Fin 1200) (e : Env) (f : BitVec 54) (s : State) : Result :=
  done (runWord endBody t e (wordOf 0 0x3e f)) s
def execNop (t : Fin 1200) (e : Env) (f : BitVec 54) (s : State) : Result :=
  done (runWord nopBody t e (wordOf 0 0x3f f)) s
def execVadd (t : Fin 1200) (e : Env) (f : BitVec 54) (s : State) : Result :=
  done (runWord vaddBody t e (wordOf 1 0x00 f)) s
def execVsub (t : Fin 1200) (e : Env) (f : BitVec 54) (s : State) : Result :=
  done (runWord vsubBody t e (wordOf 1 0x01 f)) s
def execVmul (t : Fin 1200) (e : Env) (f : BitVec 54) (s : State) : Result :=
  done (runWord vmulBody t e (wordOf 1 0x02 f)) s
def execVfma (t : Fin 1200) (e : Env) (f : BitVec 54) (s : State) : Result :=
  done (runWord vfmaBody t e (wordOf 1 0x03 f)) s
def execVmin (t : Fin 1200) (e : Env) (f : BitVec 54) (s : State) : Result :=
  done (runWord vminBody t e (wordOf 1 0x04 f)) s
def execVmax (t : Fin 1200) (e : Env) (f : BitVec 54) (s : State) : Result :=
  done (runWord vmaxBody t e (wordOf 1 0x05 f)) s
def execVand (t : Fin 1200) (e : Env) (f : BitVec 54) (s : State) : Result :=
  done (runWord vandBody t e (wordOf 1 0x06 f)) s
def execVor (t : Fin 1200) (e : Env) (f : BitVec 54) (s : State) : Result :=
  done (runWord vorBody t e (wordOf 1 0x07 f)) s
def execVxor (t : Fin 1200) (e : Env) (f : BitVec 54) (s : State) : Result :=
  done (runWord vxorBody t e (wordOf 1 0x08 f)) s
def execVshl (t : Fin 1200) (e : Env) (f : BitVec 54) (s : State) : Result :=
  done (runWord vshlBody t e (wordOf 1 0x09 f)) s
def execVshr (t : Fin 1200) (e : Env) (f : BitVec 54) (s : State) : Result :=
  done (runWord vshrBody t e (wordOf 1 0x0a f)) s
def execVabs (t : Fin 1200) (e : Env) (f : BitVec 54) (s : State) : Result :=
  done (runWord vabsBody t e (wordOf 1 0x0b f)) s
def execVneg (t : Fin 1200) (e : Env) (f : BitVec 54) (s : State) : Result :=
  done (runWord vnegBody t e (wordOf 1 0x0c f)) s
def execVsel (t : Fin 1200) (e : Env) (f : BitVec 54) (s : State) : Result :=
  done (runWord vselBody t e (wordOf 1 0x0d f)) s
def execVcmplt (t : Fin 1200) (e : Env) (f : BitVec 54) (s : State) : Result :=
  done (runWord vcmpltBody t e (wordOf 1 0x0e f)) s
def execVcmpeq (t : Fin 1200) (e : Env) (f : BitVec 54) (s : State) : Result :=
  done (runWord vcmpeqBody t e (wordOf 1 0x0f f)) s
def execVcmple (t : Fin 1200) (e : Env) (f : BitVec 54) (s : State) : Result :=
  done (runWord vcmpleBody t e (wordOf 1 0x10 f)) s
def execVbcast (t : Fin 1200) (e : Env) (f : BitVec 54) (s : State) : Result :=
  done (runWord vbcastBody t e (wordOf 1 0x14 f)) s
def execVtos (t : Fin 1200) (e : Env) (f : BitVec 54) (s : State) : Result :=
  done (runWord vtosBody t e (wordOf 1 0x15 f)) s
def execVredadd (t : Fin 1200) (e : Env) (f : BitVec 54) (s : State) : Result :=
  done (runWord vredaddBody t e (wordOf 1 0x18 f)) s
def execVredmax (t : Fin 1200) (e : Env) (f : BitVec 54) (s : State) : Result :=
  done (runWord vredmaxBody t e (wordOf 1 0x19 f)) s
def execVredmin (t : Fin 1200) (e : Env) (f : BitVec 54) (s : State) : Result :=
  done (runWord vredminBody t e (wordOf 1 0x1a f)) s
def execVexp2 (t : Fin 1200) (e : Env) (f : BitVec 54) (s : State) : Result :=
  done (runWord vexp2Body t e (wordOf 1 0x20 f)) s
def execVlog2 (t : Fin 1200) (e : Env) (f : BitVec 54) (s : State) : Result :=
  done (runWord vlog2Body t e (wordOf 1 0x21 f)) s
def execVrcp (t : Fin 1200) (e : Env) (f : BitVec 54) (s : State) : Result :=
  done (runWord vrcpBody t e (wordOf 1 0x22 f)) s
def execVrsqrt (t : Fin 1200) (e : Env) (f : BitVec 54) (s : State) : Result :=
  done (runWord vrsqrtBody t e (wordOf 1 0x23 f)) s
def execVtanh (t : Fin 1200) (e : Env) (f : BitVec 54) (s : State) : Result :=
  done (runWord vtanhBody t e (wordOf 1 0x24 f)) s
def execVsigm (t : Fin 1200) (e : Env) (f : BitVec 54) (s : State) : Result :=
  done (runWord vsigmBody t e (wordOf 1 0x25 f)) s
def execVcvt (t : Fin 1200) (e : Env) (f : BitVec 54) (s : State) : Result :=
  done (runWord vcvtBody t e (wordOf 1 0x28 f)) s
def execPmov (t : Fin 1200) (e : Env) (f : BitVec 54) (s : State) : Result :=
  done (runWord pmovBody t e (wordOf 1 0x2c f)) s
def execPtos (t : Fin 1200) (e : Env) (f : BitVec 54) (s : State) : Result :=
  done (runWord ptosBody t e (wordOf 1 0x2d f)) s
def execPand (t : Fin 1200) (e : Env) (f : BitVec 54) (s : State) : Result :=
  done (runWord pandBody t e (wordOf 1 0x2e f)) s
def execPor (t : Fin 1200) (e : Env) (f : BitVec 54) (s : State) : Result :=
  done (runWord porBody t e (wordOf 1 0x2f f)) s
def execVld (t : Fin 1200) (e : Env) (f : BitVec 54) (s : State) : Result :=
  done (runWord vldBody t e (wordOf 1 0x30 f)) s
def execVst (t : Fin 1200) (e : Env) (f : BitVec 54) (s : State) : Result :=
  done (runWord vstBody t e (wordOf 1 0x31 f)) s
def execVgather (t : Fin 1200) (e : Env) (f : BitVec 54) (s : State) : Result :=
  done (runWord vgatherBody t e (wordOf 1 0x32 f)) s
def execVscatter (t : Fin 1200) (e : Env) (f : BitVec 54) (s : State) : Result :=
  done (runWord vscatterBody t e (wordOf 1 0x33 f)) s
def execMma (t : Fin 1200) (e : Env) (f : BitVec 54) (s : State) : Result :=
  done (runWord mmaBody t e (wordOf 2 0x00 f)) s
def execMmaTs (t : Fin 1200) (e : Env) (f : BitVec 54) (s : State) : Result :=
  done (runWord mmaTsBody t e (wordOf 2 0x01 f)) s
def execTfill (t : Fin 1200) (e : Env) (f : BitVec 54) (s : State) : Result :=
  done (runWord tfillBody t e (wordOf 3 0x00 f)) s
def execTdrain (t : Fin 1200) (e : Env) (f : BitVec 54) (s : State) : Result :=
  done (runWord tdrainBody t e (wordOf 3 0x01 f)) s
def execTmove (t : Fin 1200) (e : Env) (f : BitVec 54) (s : State) : Result :=
  done (runWord tmoveBody t e (wordOf 3 0x02 f)) s
def execTzero (t : Fin 1200) (e : Env) (f : BitVec 54) (s : State) : Result :=
  done (runWord tzeroBody t e (wordOf 3 0x03 f)) s
def execTstrm (t : Fin 1200) (e : Env) (f : BitVec 54) (s : State) : Result :=
  done (runWord tstrmBody t e (wordOf 3 0x04 f)) s
def execTrowst (t : Fin 1200) (e : Env) (f : BitVec 54) (s : State) : Result :=
  done (runWord trowstBody t e (wordOf 3 0x05 f)) s
def execXdesc (t : Fin 1200) (e : Env) (f : BitVec 54) (s : State) : Result :=
  done (runWord xdescBody t e (wordOf 4 0x00 f)) s
def execXcopy (t : Fin 1200) (e : Env) (f : BitVec 54) (s : State) : Result :=
  done (runWord xcopyBody t e (wordOf 4 0x01 f)) s
def execXld (t : Fin 1200) (e : Env) (f : BitVec 54) (s : State) : Result :=
  done (runWord xldBody t e (wordOf 4 0x02 f)) s
def execXst (t : Fin 1200) (e : Env) (f : BitVec 54) (s : State) : Result :=
  done (runWord xstBody t e (wordOf 4 0x03 f)) s
def execXamo (t : Fin 1200) (e : Env) (f : BitVec 54) (s : State) : Result :=
  done (runWord xamoBody t e (wordOf 4 0x04 f)) s
def execWaitc (t : Fin 1200) (e : Env) (f : BitVec 54) (s : State) : Result :=
  done (runWord waitcBody t e (wordOf 5 0x00 f)) s
def execConsume (t : Fin 1200) (e : Env) (f : BitVec 54) (s : State) : Result :=
  done (runWord consumeBody t e (wordOf 5 0x01 f)) s
def execCread (t : Fin 1200) (e : Env) (f : BitVec 54) (s : State) : Result :=
  done (runWord creadBody t e (wordOf 5 0x02 f)) s
def execFenceL (t : Fin 1200) (e : Env) (f : BitVec 54) (s : State) : Result :=
  done (runWord fenceLBody t e (wordOf 5 0x04 f)) s
def execFenceF (t : Fin 1200) (e : Env) (f : BitVec 54) (s : State) : Result :=
  done (runWord fenceFBody t e (wordOf 5 0x05 f)) s
def execAcq (t : Fin 1200) (e : Env) (f : BitVec 54) (s : State) : Result :=
  done (runWord acqBody t e (wordOf 5 0x08 f)) s
def execFlush (t : Fin 1200) (e : Env) (f : BitVec 54) (s : State) : Result :=
  done (runWord flushBody t e (wordOf 5 0x09 f)) s

/-- The bodies of class 0 by opcode (R94–R96). -/
def scalarBodyOf : Nat → Option Body
  | 0x00 => some addBody
  | 0x01 => some subBody
  | 0x02 => some andBody
  | 0x03 => some orBody
  | 0x04 => some xorBody
  | 0x05 => some sllBody
  | 0x06 => some srlBody
  | 0x07 => some sraBody
  | 0x08 => some mulBody
  | 0x09 => some mulhuBody
  | 0x0a => some divuBody
  | 0x0b => some remuBody
  | 0x0c => some sltBody
  | 0x0d => some sltuBody
  | 0x0e => some minBody
  | 0x0f => some maxBody
  | 0x10 => some addiBody
  | 0x11 => some andiBody
  | 0x12 => some oriBody
  | 0x13 => some xoriBody
  | 0x14 => some slliBody
  | 0x15 => some srliBody
  | 0x16 => some sraiBody
  | 0x17 => some liBody
  | 0x18 => some lihBody
  | 0x19 => some sltiBody
  | 0x1a => some clzBody
  | 0x1b => some popcBody
  | 0x20 => some lbBody
  | 0x21 => some lbuBody
  | 0x22 => some lhBody
  | 0x23 => some lhuBody
  | 0x24 => some lwBody
  | 0x25 => some lwuBody
  | 0x26 => some ldBody
  | 0x28 => some sbBody
  | 0x29 => some shBody
  | 0x2a => some swBody
  | 0x2b => some sdBody
  | 0x30 => some beqBody
  | 0x31 => some bneBody
  | 0x32 => some bltBody
  | 0x33 => some bgeBody
  | 0x34 => some bltuBody
  | 0x35 => some bgeuBody
  | 0x36 => some bbsBody
  | 0x37 => some bbcBody
  | 0x38 => some jalBody
  | 0x39 => some jrBody
  | 0x3c => some srdBody
  | 0x3e => some endBody
  | 0x3f => some nopBody
  | _ => none

/-- The bodies of class 1 by opcode (R94–R96). -/
def vectorBodyOf : Nat → Option Body
  | 0x00 => some vaddBody
  | 0x01 => some vsubBody
  | 0x02 => some vmulBody
  | 0x03 => some vfmaBody
  | 0x04 => some vminBody
  | 0x05 => some vmaxBody
  | 0x06 => some vandBody
  | 0x07 => some vorBody
  | 0x08 => some vxorBody
  | 0x09 => some vshlBody
  | 0x0a => some vshrBody
  | 0x0b => some vabsBody
  | 0x0c => some vnegBody
  | 0x0d => some vselBody
  | 0x0e => some vcmpltBody
  | 0x0f => some vcmpeqBody
  | 0x10 => some vcmpleBody
  | 0x14 => some vbcastBody
  | 0x15 => some vtosBody
  | 0x18 => some vredaddBody
  | 0x19 => some vredmaxBody
  | 0x1a => some vredminBody
  | 0x20 => some vexp2Body
  | 0x21 => some vlog2Body
  | 0x22 => some vrcpBody
  | 0x23 => some vrsqrtBody
  | 0x24 => some vtanhBody
  | 0x25 => some vsigmBody
  | 0x28 => some vcvtBody
  | 0x2c => some pmovBody
  | 0x2d => some ptosBody
  | 0x2e => some pandBody
  | 0x2f => some porBody
  | 0x30 => some vldBody
  | 0x31 => some vstBody
  | 0x32 => some vgatherBody
  | 0x33 => some vscatterBody
  | _ => none

/-- The bodies of class 2 by opcode (R94–R96). -/
def matrixBodyOf : Nat → Option Body
  | 0x00 => some mmaBody
  | 0x01 => some mmaTsBody
  | _ => none

/-- The bodies of class 3 by opcode (R94–R96). -/
def tileBodyOf : Nat → Option Body
  | 0x00 => some tfillBody
  | 0x01 => some tdrainBody
  | 0x02 => some tmoveBody
  | 0x03 => some tzeroBody
  | 0x04 => some tstrmBody
  | 0x05 => some trowstBody
  | _ => none

/-- The bodies of class 4 by opcode (R94–R96). -/
def transferBodyOf : Nat → Option Body
  | 0x00 => some xdescBody
  | 0x01 => some xcopyBody
  | 0x02 => some xldBody
  | 0x03 => some xstBody
  | 0x04 => some xamoBody
  | _ => none

/-- The bodies of class 5 by opcode (R94–R96). -/
def syncBodyOf : Nat → Option Body
  | 0x00 => some waitcBody
  | 0x01 => some consumeBody
  | 0x02 => some creadBody
  | 0x04 => some fenceLBody
  | 0x05 => some fenceFBody
  | 0x08 => some acqBody
  | 0x09 => some flushBody
  | _ => none

/-- The body of an instruction word, none for an undefined class or opcode (R8). -/
def bodyOf (w : Word) : Option Body :=
  match clsOf w with
  | 0 => scalarBodyOf (opOf w)
  | 1 => vectorBodyOf (opOf w)
  | 2 => matrixBodyOf (opOf w)
  | 3 => tileBodyOf (opOf w)
  | 4 => transferBodyOf (opOf w)
  | 5 => syncBodyOf (opOf w)
  | _ => none

/-- An instruction held at issue issues where nothing holds it any more (R66, R70, R71, R76, R112). -/
def issueHeld (t : Nat) (e : Env) : Act := .look fun m =>
  let th := m.thallus t
  match th.held with
  | none => .nop
  | some w => if mayIssue m t then (match bodyOf w with
      | some b => b t e w
      | none => fault t exIllegal w 0) else .nop

end Sys2Proof.Machine
end

