-- ==== Sys2Proof/Machine/ThallusEvents.lean ====
section
/-! DEFINITION. The events of a thallus: stops and deadlines (R122, R124), replies (R114), ends of stalls, fences,
ranges, waits and stages (R49, R112, R117–R120), and the ends of what its fronds do (R66, R71, R72, R76). -/

namespace Sys2Proof.Machine

/-- The word at the program counter. -/
def wordHere (th : Thallus) : Word := th.istore.getD (th.pc.toNat / 8) 0

/-- A thallus that runs a stage and has not stopped. -/
def active (m : Mod) (t : Nat) : Bool := decide (m.thState t = thRunning ∨ m.thState t = thWaiting)

/-- True where a thallus has to stop with code 6: a thallus of its stage has stopped by an exception, or its launch
stops (R124, R182, R183). -/
def mustStop (m : Mod) (t : Nat) : Bool :=
  ((stageMates m t).any fun u => m.thState u = thStopped) ||
  (match (m.thallus t).launch with
   | none => false
   | some key => ((m.launch? key).map (·.stopping)).getD false)

def execStageStop (t : Fin 1200) (s : State) : Result := done (.look fun m =>
  onlyIf (mustStop m t && !inRefill (m.thallus t)) (fault t exStopped (wordHere (m.thallus t)) 0)) s

/-- A deadline expiry of the instruction at the program counter (R122, R123): it names the counter that a wait is for,
and no address otherwise. -/
def deadlineFault (t : Nat) : Act := .look fun m =>
  let th := m.thallus t
  raiseAs .outside t exDeadline th.pc (wordHere th) 0 (BitVec.ofNat 64 ((th.wait.map (·.counter)).getD 0))

/-- The stage deadline (R122): a waiting thallus raises at once, a running one at its next boundary. -/
def execStageDeadlineExpiry (t : Fin 1200) (s : State) : Result := done (.look fun m =>
  let th := m.thallus t
  onlyIf (m.passed (th.ctx.getD 6 0) && !inRefill th && !asleep m (gsorusOf t)) (deadlineFault t)) s

/-- A refill is two bursts of the thallus's chamber, admitted as any access is (R203), and follows the write-back of the
same line (R118). -/
def execNearCacheRefillDone (t : Fin 1200) (e : Ecc) (s : State) : Result := done (.look fun m =>
  match (m.thallus t).block with
  | some (.miss a ..) =>
    onlyIf (active m t && !writingBack m t a && unitMay m (chamberOf m t) (a / 64 * 64) 64 2 (dieOf t)) (acts [
      unitAdmit (chamberOf m t) (a / 64 * 64) 2 (dieOf t), refill t e])
  | _ => .nop) s

/-- The reply of an XLD or XAMO (R112, R114): it writes rd, or its failed status is handled by STAT; an instruction
that waited for rd may issue from then on. -/
def takeReply (t : Nat) (r : Reply) : Act := acts [
  .look fun m => .upd (.replies (m.replies.filter fun x => !decide (x.t = t ∧ x.tag = r.tag))),
  modThallus t fun th => { th with waitRd := th.waitRd.filter fun x => x.2 ≠ r.tag },
  if r.status = stOk then modThallus t fun th => th.sset r.rd.toNat r.data
  else if r.stat then modThallus t fun th =>
    { th.sset r.rd.toNat 0 with ctx := noteXerr th.ctx r.status r.addr }
  else raiseLate t (statusException r.status) r.pc r.word r.status r.addr]

def execXldReply (t : Fin 1200) (tag : BitVec 32) (s : State) : Result := done (.look fun m =>
  match m.replies.find? (fun r : Reply => decide (r.t = t.val ∧ r.tag = tag)) with
  | none => .nop
  | some r => if asleep m (gsorusOf t) then wakeReq (gsorusOf t) m.now else takeReply t r) s

def execIssueStallEnd (t : Fin 1200) (e : Env) (s : State) : Result := done (issueHeld t e) s

/-- An instruction that blocked issue completes. -/
def unblock (t : Nat) : Act := commit t fun x => { x with block := none }

def execFenceComplete (t : Fin 1200) (s : State) : Result := done (.look fun m =>
  match (m.thallus t).block with
  | some .fenceL => onlyIf (!localPending m t) (unblock t)
  | some .fenceF => onlyIf (!remotePending m t) (unblock t)
  | _ => .nop) s

/-- ACQ and FLUSH complete when each write-back of their range has been acknowledged (R119). -/
def execRangeOpComplete (t : Fin 1200) (s : State) : Result := done (.look fun m =>
  match (m.thallus t).block with
  | some (.range _ base len) => onlyIf (!rangePending m t base len) (unblock t)
  | _ => .nop) s

/-- Everything before END has completed (R120). -/
def allBefore (m : Mod) (t : Nat) : Bool :=
  !localPending m t && !remotePending m t && !frondPending (m.thallus t)

/-- END (R120): once every earlier instruction has completed, the near cache is flushed; once its write-backs are
acknowledged, the thallus reports to its scheduler and is idle. -/
def execStageEndReport (t : Fin 1200) (s : State) : Result := done (.look fun m =>
  match (m.thallus t).block with
  | some .ending => onlyIf (allBefore m t) (acts [
      nearClean t (fun _ l => decide (l.dirty ≠ 0)) false,
      .look fun m => onlyIf (!rangePending m t 0 0x10000) (acts [
        modThallus t fun x => { x with block := none, held := none, launch := none },
        setThState t thIdle,
        setF (thReg t) CD_THALLUS_STATE_CHAMBER_VALID 0,
        clockGate (gsorusOf t)])])
  | _ => .nop) s

/-- The notification of a wait reaches a running sorus (R49, R50). -/
def execWaitSatisfied (t : Fin 1200) (s : State) : Result := done (.look fun m =>
  match (m.thallus t).wait with
  | none => .nop
  | some x => onlyIf ((x.notified || m.met x.counter x.target) && !asleep m (gsorusOf t)) (endWait t 0)) s

/-- The deadline of a WAITC has passed first, or the stage's, which counts whatever DX says (R117, R122). -/
def execWaitDeadline (t : Fin 1200) (s : State) : Result := done (.look fun m =>
  let th := m.thallus t
  match th.wait with
  | none => .nop
  | some x =>
    if asleep m (gsorusOf t) ∨ x.notified ∨ m.met x.counter x.target then .nop
    else if m.passed (th.ctx.getD 6 0) then deadlineFault t
    else if !m.passed x.deadline then .nop
    else if x.dx then endWait t 1
    else fault t exDeadline (wordHere th) (BitVec.ofNat 64 x.counter)) s

/-! ### Fronds -/

/-- A change to a frond, then the instruction that waited issues. -/
def frondEvent (t fr : Nat) (e : Env) (cond : Frond → Bool) (f : Frond → Frond) (more : Act) : Act := .look fun m =>
  let x := (m.thallus t).frond fr
  onlyIf (cond x) (acts [modThallus t (fun th => th.setFrond fr (f (th.frond fr))), more, issueHeld t e])

/-- A shadow fill writes its last column (R66). -/
def execFillComplete (t : Fin 1200) (fr : Fin 4) (e : Env) (s : State) : Result :=
  done (frondEvent t fr e (fun x => x.fill.isSome)
    (fun x => { x with shadow := x.fill.getD x.shadow, fill := none }) .nop) s

/-- The accumulator of a matrix instruction is complete (R72); the last one counts the instruction (R85). -/
def execAccumulatorComplete (t : Fin 1200) (fr : Fin 4) (acc : Fin 4) (e : Env) (s : State) : Result :=
  done (.look fun m =>
    let x := (m.thallus t).frond fr
    match x.incomplete.find? (fun i : Nat => decide (i % 4 = acc.val)) with
    | none => .nop
    | some i => frondEvent t fr e (fun _ => true) (fun x => { x with incomplete := x.incomplete.erase i })
        (onlyIf (decide (4 ≤ i)) (countMma t))) s

def execDrainComplete (t : Fin 1200) (fr : Fin 4) (e : Env) (s : State) : Result :=
  done (frondEvent t fr e (fun x => x.draining) (fun x => { x with draining := false }) .nop) s

/-- The issue period of the matrix instruction on a frond ends and frees all its fronds (R67, R71). -/
def execIssuePeriodEnd (t : Fin 1200) (fr : Fin 4) (e : Env) (s : State) : Result := done (.look fun m =>
  let x := (m.thallus t).frond fr
  let mode := x.mode.getD 0
  onlyIf x.busy (acts [
    modThallus t (fun th => (frondsOf mode (if mode = 1 then fr / 2 else fr)).foldl
      (fun th f => th.setFrond f { th.frond f with busy := false }) th),
    issueHeld t e])) s

end Sys2Proof.Machine
end

