-- ==== Sys2Proof/Machine/Isolate.lean ====
section
/-! DEFINITION. Die isolation and rejoin (R184, R285–R293, R346, R491–R497). -/

namespace Sys2Proof.Machine

/-! ### Pools of a die (R285, R289) -/

/-- Pool indices of the units on a die; a regulator that is off has no pool. -/
def poolsOf (m : Mod) (n : Nat) : List Nat :=
  if n < 8 then [0x1270 + n]
  else if n < 12 then
    let d := n - 8
    (List.range 1024).map (1024 * d + ·) ++
    (((List.range 8).filter fun k => m.fld (MS_REG_CFG d k) MS_REG_CFG_RATE ≠ 0).map (regKey d)) ++ [0x12C0 + d]
  else if n < 20 then
    let i := n - 12
    (List.range 64).map (0x1000 + 64 * i + ·) ++ (List.range 8).map (0x1200 + 8 * i + ·) ++
      [sharedPool i 0, sharedPool i 1] ++ (List.range 8).map (0x1280 + 8 * i + ·) ++ [gatewayPool i]
  else []

def poolZero : Pool := ⟨0, 0, 0⟩

/-- A frozen pool is closed as its die runs again: one record with its counts of the last snapshot
that the checker read, and it starts afresh (R289). -/
def closePool (n i : Nat) : Act := .look fun m =>
  let s := (m.poolRead.get? i).getD ⟨0, 0, 0, 0⟩
  acts [
    record (qDie n) 0x0804 clsTransient .plain none dpNone (mpSteward n)
      (detail [(32, 2, i), (40, 8, s.issued), (48, 8, s.returned), (56, 8, s.retired)]),
    if i < 4096 then acts [.upd (.freshCounter i), .upd (.cntFrozen (m.cntFrozen.filter (· ≠ i)))]
    else .upd (.pool i poolZero)]

/-! ### State changes of a die (R46) -/

def setDie (n st : Nat) : Act := .look fun m =>
  .upd (.reg MOD_DIE_STATE (putBits (m.reg MOD_DIE_STATE) (2 * n) 2 st))

/-- A die changes state, with its record (R46, R554). -/
def dieChange (n st cause : Nat) : Act := .look fun m =>
  if m.dieState n = st then .nop
  else acts [
    setDie n st,
    record (qDie mgmtDie) 0x0F01 (if st = 1 then clsLasting else clsTransient) (if st = 1 then .critical else .plain) none
      dpNone mpTfw (detail [(32, 1, n), (33, 1, m.dieState n), (34, 1, st), (35, 1, cause)])]

/-- The two ends of an on-package link (R500). -/
def linkEnds (l : Nat) : Nat × Nat :=
  if l < 32 then (l / 4, memDie (l % 4))
  else if l < 40 then (l - 32, ioDie (l - 32))
  else if l < 48 then (memDie ((l - 40) / 2), ioDie (l - 40))
  else if l < 56 then (ioDie (l - 48), ioDie ((l - 48 + 1) % 8))
  else (memDie 0, accDie)

/-- Links of a die. -/
def linksOf (n : Nat) : List Nat := (List.range 57).filter fun l => (linkEnds l).1 = n ∨ (linkEnds l).2 = n

/-- DD_LINK states (R510). -/
def dlDown : Nat := 0
def dlLoop : Nat := 1
def dlTraining : Nat := 2
def dlNegotiating : Nat := 3
def dlRunning : Nat := 4
def dlIsolated : Nat := 5

/-- The module's side of the links to a die closes (R293). -/
def isolateLinks (n : Nat) : Act := forEach (linksOf n) fun l => acts [
  setF (DD_LINK l) DD_LINK_STATE dlIsolated,
  modLink l fun _ => Link.init]

/-! ### What each kind of die loses (R184, R185, R346, R492, R493) -/

/-- Every stage-queue of the launches still held for which `hit` holds is closed as R184 says; with `faults` the stages
at both ends are faulted too (R492). -/
def closeQueues (hit : StageQueue → Bool) (faults : Bool) : Act := .look fun m =>
  forEach m.cdies fun c => forEach c.2.launches fun l =>
    onlyIf (decide (l.2.home = 64 * c.1 + l.1)) (forEach l.2.sqs.zipIdx fun q =>
      onlyIf (hit q.1 && !q.1.closed) (acts [
        modQueue l.2.home q.2 (fun x => { x with closed := true }),
        retireCounter q.1.dcnt 6,
        retireCounter q.1.ccnt 6,
        onlyIf faults (forEach ([q.1.prod, q.1.cons].filterMap (stageOfThallus l.2)) fun s =>
          stageFault l.2.home s 0)]))

/-- The launches of a die that is lost are gone; its thalli, rings and work with them. What a home entry on it kept is kept
by a satellite (R185). -/
def loseCompute (d : Nat) : Act := .look fun m => acts [
  forEach (m.cdie d).launches (fun l =>
    onlyIf (decide (l.2.home = 64 * d + l.1)) (.look fun m =>
      rehome (64 * d + l.1) l.2 ((entriesOf m (64 * d + l.1)).filter fun k => k / 64 ≠ d ∧ (m.launch? k).isSome))),
  forEach ((m.cdie d).launches.map (64 * d + ·.1)) (fun key =>
    forEach (List.range 16) fun w => setLWord key w 0),
  forEach (List.range 150) (fun j => acts [
    modThallus (150 * d + j) Thallus.lose, setThState (150 * d + j) thAsleep,
    setF (thReg (150 * d + j)) CD_THALLUS_STATE_EXCEPTION 0,
    setF (thReg (150 * d + j)) CD_THALLUS_STATE_CHAMBER_VALID 0]),
  .look fun m => .upd (.replies (m.replies.filter fun r => dieOf r.t ≠ d)),
  .upd (.zero (tileAddr (150 * d) 0) (150 * 0x200000)),
  forEach (List.range 25) (fun s => acts [
    setF (sorusReg (25 * d + s)) CD_SORUS_STATE_DOMAIN 0, setF (CP_SORUS (25 * d + s)) CP_SORUS_DEEP 1]),
  forEach (m.cdie d).rings (fun r => acts [
    modRing d r.1 (fun _ => Ring.init),
    setF (CD_RING_STATE d r.1) CD_RING_STATE_STATE 2]),
  setF (CP_COMPUTE d) CP_COMPUTE_PLL 0,
  modCDie d fun c => { CDie.init with rings := c.rings }]

/-- A compute die is lost: its launches with it; launches elsewhere have their stages on it faulted and their queues
with an end on it closed (R184). -/
def dropCompute (d : Nat) : Act := acts [
  loseCompute d,
  .look fun m => forEach m.cdies fun c => forEach c.2.launches fun l =>
    forEach (l.2.stages.zipIdx.filter fun s => s.1.die = d) fun s => stageFault (64 * c.1 + l.1) s.2 0,
  closeQueues (fun q => decide (dieOf q.prod = d ∨ dieOf q.cons = d)) false]

/-- Accesses that wait on a memory-side die end, and waits on its counters raise data lost (R492, R493). -/
def dropMemory (d : Nat) : Act := .look fun m => acts [
  forEach ((List.range 8).map (8 * d + ·)) failHeld,
  forEach (m.thalli.filter fun e => match e.2.wait with
    | some w => counterDie w.counter = d
    | none => false) (fun e => match e.2.wait with
      | some w => fault e.1 exDataLost (wordHere e.2) (BitVec.ofNat 64 w.counter)
      | none => .nop),
  closeQueues (fun q => decide (dieOf q.cons / 2 = d ∧ dieOf q.prod ≠ dieOf q.cons)) true,
  forEach (List.range 8) (fun k => onlyIf ((stacksOf m k).any fun s => s / 8 = d) (serveRings k))]

/-- An I/O die goes dark: its ports close, its gateway state and the requests through it end with UNAVAILABLE (R293,
R346, R492). -/
def dropIo (i : Nat) : Act := .look fun m => acts [
  forEach ((List.range 8).map (8 * i + ·)) (fun p => onlyIf (decide (m.linkState p ≠ lkDown)) (closeEpoch p lkDown clsLasting)),
  modIoDie i (fun _ => IoDie.init),
  forEach ((List.range 8).map (8 * i + ·)) (fun p => modPort p fun x => { x with ptr := 0, occupied := [] }),
  .look fun m => forEach (m.reqs.filter fun r => r.io = i) fun r => acts [
    endReqs (fun x => x.io = i),
    match r.org with
    | .gateway _ => .nop
    | _ => endRequest { r with retried := true } stUnavailable []]]

/-! ### Isolation and rejoin (R491–R497) -/

/-- A rejoin fails (R496): the third one holds the die. -/
def failRejoin (n : Nat) : Act := .look fun m =>
  let a := m.fld (DD_DIE n) DD_DIE_ATTEMPTS
  acts [
    setF (DD_DIE n) DD_DIE_ATTEMPTS (min 3 (a + 1)),
    onlyIf (decide (2 ≤ a)) (acts [
      setF (DD_DIE n) DD_DIE_HELD 1,
      record (qDie mgmtDie) 0x0F02 clsLasting .plain none dpNone mpTfw (detail [(32, 1, n)])])]

/-- The accessory die's requests in flight are discarded (R492). -/
def dropAccessory : Act := .look fun m =>
  let kept : Access → Bool := fun a => match a.org with
    | .accessory _ => false
    | _ => true
  acts [
    .upd (.flight (m.flight.filter kept)),
    forEach (List.range 4) (fun d => modMDie d fun x => { x with
      held := x.held.filter kept
      jnlHeld := x.jnlHeld.filter kept }),
    forEach (List.range 32) fun s => modStk s fun x => { x with
      retry := x.retry.filter kept
      repeating := x.repeating.filter kept
      heldRow := x.heldRow.filter kept }]

/-- A die is isolated for a cause of R491 (R492); one that is Isolated already keeps its first cause (R552). -/
def isolate (n cause : Nat) : Act := .look fun m =>
  let st := m.dieState n
  if n = mgmtDie ∨ st ≤ 1 ∨ 22 ≤ n then .nop
  else acts [
    dieChange n 1 cause,
    setF (DD_DIE n) DD_DIE_CAUSE cause,
    bumpWrap (DD_DIE n) DD_DIE_ISOLATIONS 1,
    modTrust (fun t => { t with resetSince := t.resetSince.put n m.now }),
    onlyIf (decide (st = 2) && m.fabric.started) (failRejoin n),
    isolateLinks n,
    onlyIf (decide (st = 3)) (
      if n < 8 then dropCompute n
      else if n < 12 then dropMemory (n - 8)
      else if n < 20 then dropIo (n - 12)
      else .nop),
    onlyIf (decide (n = accDie)) (acts [dropAccessory, setF MOD_DIE_PRESENT MOD_DIE_PRESENT_ACCESSORY 0])]

/-- A memory-side die as its reset leaves it: lines, sump and levels are gone, margining has ended, its stacks wait for
training. -/
def resetMemory (d : Nat) : Act := .look fun m => acts [
  modMDie d (fun x => { MDie.init with ledgerReqs := x.ledgerReqs }),
  forEach (List.range 8) (fun k => acts [setF (MS_REG_STAT d k) MS_REG_STAT_TOKENS 0, setF (MS_KEEP d k) MS_KEEP_KEEP_USED 0]),
  setF (MS_MAINT d) MS_MAINT_BUSY 0,
  forEach ((List.range 8).map (8 * d + ·)) fun s => acts [
    modStk s (fun x => { Stack.init with spares := x.spares }),
    setF (stackReg s) MS_STACK_STATE_LOST 0,
    onlyIf (decide (stackState m s ≠ 6)) (setF (stackReg s) MS_STACK_STATE_STATE 0)]]

end Sys2Proof.Machine
end

