-- ==== Sys2Proof/Machine/Memside.lean ====
section
/-! DEFINITION. Events of the memory side (R191, R199–R228, R237, R359, R484–R486): accesses in their turn, admission,
retries, row copies, scrub, temperature, margining, zeroing (06_memory_system.md). -/

namespace Sys2Proof.Machine

/-! ### Accesses in flight (R232, R237) -/

/-- The element of a list at a place, and the list without it. -/
def takeAt {α : Type} (l : List α) (n : Nat) : Option (α × List α) := (l[n]?).map fun x => (x, l.take n ++ l.drop (n + 1))

/-- The n-th access on its way reaches its home, unless one before it must come first (R237, R254) or a tile store it needs
sleeps (R179): it keeps its place. -/
def execHomeAccess (n : Nat) (e : Ecc) (s : State) : Result := done (.look fun m =>
  match takeAt m.flight n with
  | none => .nop
  | some (a, rest) =>
    if (m.flight.take n ++ waitingBefore m a).any fun b => mustFollow b a then .nop
    else if !staleAccess m a ∧ !(accessSleepers m a).isEmpty then forEach (accessSleepers m a) tileArrival
    else acts [.upd (.flight rest), perform a e]) s

/-- The oldest access of a chamber that waits for admission. -/
def oldestHeld (m : Mod) (die k : Nat) : Option (Access × List Access) :=
  let l := (m.mdie die).held
  let age := (l.filter fun a => a.chamber = k).foldl (fun x a => match x with
    | none => some a.stamp.toNat
    | some y => some (min y a.stamp.toNat)) none
  match age with
  | none => none
  | some t => ((l.findIdx? fun a => decide (a.chamber = k ∧ a.stamp.toNat = t)).map (takeAt l)).join

/-- An access held for tokens or floor priority is admitted (R201, R202), if it is not stale by now (R333). -/
def execTokenAdmission (die : Fin 4) (k : Fin 8) (e : Ecc) (s : State) : Result := done (.look fun m =>
  match oldestHeld m die k with
  | none => .nop
  | some (a, rest) =>
    let free : Act := modMDie die fun d => { d with held := rest }
    if staleAccess m a then acts [free, staleDrop]
    else acts [free, .look fun m2 =>
      match notAdmitted m2 a with
      | some _ => modMDie die fun d => { d with held := (m.mdie die).held }
      | none => acts [admitAll a, admittedAt a e]]) s

/-- A journal slot has freed (R228): the oldest held operation of the chamber is aged again and applied. -/
def execJournalHoldRelease (die : Fin 4) (k : Fin 8) (s : State) : Result := done (.look fun m =>
  let l := (m.mdie die).jnlHeld
  match ((l.findIdx? fun a => decide (a.chamber = k.val)).map (takeAt l)).join with
  | none => .nop
  | some (a, rest) =>
    let free : Act := modMDie die fun d => { d with jnlHeld := rest }
    if staleAccess m a then acts [free, staleDrop]
    else if journalHolds m a then .nop
    else acts [free, admittedAt a .good]) s

/-! ### The one retry (R207, R208) and row copies (R214, R216) -/

/-- Accesses held for a row copy or a retry that is over are applied, in their order. -/
def releaseRows (stack : Nat) : Act := .look fun m =>
  let l := (m.stk stack).heldRow
  acts [
    modStk stack (fun x => { x with heldRow := l.filter fun a => (heldAt m a).isSome }),
    forEach (l.filter fun a => (heldAt m a).isNone) fun a =>
      .look fun m => if staleAccess m a then staleDrop else admittedAt a .good]

/-- The retry read returns: its data is delivered, or the burst is lost and its row remapped (R207, R210); accesses held
for it follow. -/
def execReadRetryResult (stack : Fin 32) (good : Bool) (s : State) : Result := done (.look fun m =>
  match (m.stk stack).retry with
  | [] => .nop
  | a :: rest => acts [
      modStk stack (fun x => { x with retry := rest }),
      onlyIf (!refusedEarly m a) (acts [.upd .free,
        burstError stack (struckBurst m (accessAt a % 2 ^ 36) (accessBytes a)) (!good)]),
      atHome a .good false,
      releaseRows stack]) s

/-- The repeat of a write returns (R208). After a failed one the write completes with the copy of its row; where the row's
page is retired instead it ends as any access to that page. -/
def execWriteRepeatResult (stack : Fin 32) (good : Bool) (s : State) : Result := done (.look fun m =>
  match (m.stk stack).repeating with
  | [] => .nop
  | a :: rest =>
    let off := (copyTo a).getD a.addr % 2 ^ 36
    acts [
      modStk stack (fun x => { x with repeating := rest }),
      if refusedEarly m a then atHome a .good true
      else if good then acts [memError stack off false, atHome a .good true]
      else acts [
        memError stack off true,
        rowFailure stack off,
        .look fun m => if (heldAt m a).isSome then modStk stack fun x => { x with heldRow := a :: x.heldRow }
          else atHome a .good true],
      releaseRows stack]) s

/-- The 64 bursts of a row are in the spare row, but for the columns that failed twice; the entry is valid. -/
def execRemapCopyDone (stack : Fin 32) (failed : List (Fin 64)) (s : State) : Result := done (.look fun m =>
  match (m.stk stack).remaps with
  | [] => acts [releaseRows stack, clearNow stack]
  | (e, w) :: rest =>
    let ch := bitsOf w 3 3
    let bank := bitsOf w 6 4
    let row := bitsOf w 10 18
    let level := bitsOf w 1 2
    acts [
      modStk stack (fun x => { x with remaps := rest }),
      .upd (.reg (MS_REMAP (stack / 8) (stack % 8) e) w),
      stackCounts stack,
      record (qDie (memDie (stack / 8))) (0x0500 + level) clsLasting .plain (stackOwner m stack)
        (dpMemory 5 (stack / 8) stack ch bank row) (mpStack stack)
        (detail [(32, 1, stack), (33, 1, ch), (34, 1, bank), (35, 1, level), (36, 4, row), (40, 2, bitsOf w 28 9)]),
      ledgerReq stack level ch bank row (bitsOf w 28 9) 0,
      forEach failed (fun c => loseBurst stack (offsetOf ch bank row c / 32)),
      releaseRows stack,
      onlyIf rest.isEmpty (clearNow stack)]) s

/-! ### Scrub (R211) -/

def execScrubRead (stack : Fin 32) (burst : Nat) (e : Ecc) (s : State) : Result := done (.look fun m =>
  let off := 32 * burst
  if stackBytes ≤ off ∨ !stackServes m stack ∨ dirtyBurst m stack burst ∨ stackStatus m stack off 32 none false ≠ stOk
  then .nop
  else match e with
    | .good => .nop
    | .single => bumpSat (stackEccReg stack) MS_STACK_ECC_CORRECTED 1
    | .transient => memError stack off false
    | .lasting => readLost stack off) s

/-! ### Temperature (R218–R221) -/

/-- A record about a stack's temperature. -/
def tempRecord (stack code cls : Nat) (g : Grade) (t : Int) : Act := .look fun m =>
  record (qDie (memDie (stack / 8))) code cls g (stackOwner m stack) (dpMemory 2 (stack / 8) stack 0 0 0) (mpStack stack)
    (detail [(32, 1, stack), (33, 1, ofSigned 8 t),
      (34, 1, m.fld (stackReg stack) MS_STACK_STATE_OWNER + 8 * m.fld (stackReg stack) MS_STACK_STATE_OWNER_VALID)])

/-- A stack leaves service for heat (R220): its lines are dropped, everything held ends with UNAVAILABLE. Margining on it
ends without results (DESIGN CHOICE, log 92). -/
def heatIsolate (stack : Nat) (t : Int) : Act := .look fun m => acts [
  sumpFlush stack,
  setF (stackReg stack) MS_STACK_STATE_STATE 5,
  dropLines stack,
  failHeld stack,
  onlyIf (decide ((m.stk stack).action ≠ 0)) (setF (MS_MAINT (stack / 8)) MS_MAINT_BUSY 0),
  modStk stack (fun x => { x with dropped := [], action := 0 }),
  clearNow stack,
  tempRecord stack 0x0602 clsLasting .plain t,
  (match stackOwner m stack with
   | some k => acts [tempRecord stack 0x0602 clsLasting .plain t, serveRings k]
   | none => .nop)]

/-- A stack that heat isolates: any but one that is absent, isolated already or failed. -/
def heatMay (m : Mod) (stack : Nat) : Bool :=
  decide (stackState m stack ≠ 0 ∧ stackState m stack ≠ 5 ∧ stackState m stack ≠ 6)

/-- Thresholds of the levels 1 to 3. -/
def heatOf (i : Nat) : Int := if i = 1 then 85 else if i = 2 then 95 else 105

/-- The level after a reading: entered at once, left after four readings 3 °C below (R218). -/
def heatLevel (cur : Nat) (cool : SMap Nat) (t : Int) : Nat × SMap Nat :=
  let raw := ((List.range 3).filter fun i => heatOf (i + 1) < t).length
  let cool' : SMap Nat := (List.range 3).foldl (fun c i =>
    c.put (i + 1) (if t ≤ heatOf (i + 1) - 3 then cool.getD (i + 1) 0 + 1 else 0)) []
  let kept := ((List.range 3).filter fun i => i + 1 ≤ cur ∧ cool'.getD (i + 1) 0 < 4).foldl (fun a i => max a (i + 1)) 0
  (max raw kept, cool')

/-- A level is entered; above 105 °C with a warning (R218). -/
def setHeat (stack new : Nat) (t : Int) : Act := .look fun m =>
  let cur := m.fld (stackReg stack) MS_STACK_STATE_THROTTLE
  acts [setF (stackReg stack) MS_STACK_STATE_THROTTLE new,
    onlyIf (decide (cur < 3 ∧ new = 3)) (tempRecord stack 0x0601 clsTransient .warning t)]

/-- A temperature poll (R218, R221). The level above 105 °C that failed reads give is a level like any other: it is left
after four cool readings, not at the first good one (DESIGN CHOICE, log 92). -/
def execStackTempPoll (stack : Fin 32) (first : Option (BitVec 8)) (second : Option (BitVec 8)) (s : State) : Result :=
  done (.look fun m =>
  let x := m.stk stack
  let cur := m.fld (stackReg stack) MS_STACK_STATE_THROTTLE
  if !m.dieRuns (memDie (stack / 8)) then .nop
  else match first.or second with
    | none => acts [
        modStk stack (fun x => { x with failedPolls := x.failedPolls + 1, cool := [] }),
        setHeat stack 3 0,
        tempRecord stack 0x0606 clsTransient .plain 0,
        onlyIf (decide (x.failedPolls + 1 = 32)) (tempRecord stack 0x0606 clsLasting .plain 0)]
    | some v =>
      let t := v.toInt
      let r := heatLevel cur x.cool t
      acts [
        setF (stackReg stack) MS_STACK_STATE_TEMP v.toNat,
        modStk stack (fun x => { x with failedPolls := 0, cool := r.2 }),
        setHeat stack r.1 t,
        onlyIf (decide (110 < t) && heatMay m stack) (heatIsolate stack t)]) s

/-! ### Margining (R222–R224) -/

/-- The references of a channel in the commissioning store (R473, part 4): read eye, write eye, read and write window. -/
def marginRefs (m : Mod) (stack ch : Nat) : List Nat :=
  ((((m.trust.commParts.get? 4).getD []).drop (4 * (8 * stack + ch))).take 4).map BitVec.toNat

/-- RESULT of a channel: 1 pass, 2 warn, 3 fail. -/
def channelResult (m : Mod) (stack ch : Nat) (c : ChannelMargin) : Nat :=
  let got : List Nat := [c.rdEye.toNat, c.wrEye.toNat, c.rdVref.toNat, c.wrVref.toNat]
  if c.rdEye.toNat < 22 ∨ c.wrEye.toNat < 22 ∨ c.rdVref.toNat < 16 ∨ c.wrVref.toNat < 16 ∨ c.uncorrectable then 3
  else if (got.zip (marginRefs m stack ch)).any fun x => 4 * x.1 < 3 * x.2 then 2 else 1

/-- In service, or degraded where enough pages are retired (R217). -/
def serviceState (m : Mod) (stack : Nat) : Nat := if 123 ≤ (retiredPages m stack).length then 2 else 1

def execMarginingDone (stack : Fin 32) (res : List ChannelMargin) (s : State) : Result := done (.look fun m =>
  let act := (m.stk stack).action
  let rs := ((List.range 8).zip res).map fun c => (c.1, c.2, channelResult m stack c.1 c.2)
  let fail := decide (res.length ≠ 8) || rs.any fun r => r.2.2 = 3
  if act = 0 ∨ stackState m stack ≠ 4 then .nop
  else acts [
    forEach rs (fun r =>
      let reg := MS_MARGIN (stack / 8) (stack % 8) r.1
      acts [setF reg MS_MARGIN_RD_EYE r.2.1.rdEye.toNat, setF reg MS_MARGIN_WR_EYE r.2.1.wrEye.toNat,
        setF reg MS_MARGIN_RD_VREF r.2.1.rdVref.toNat, setF reg MS_MARGIN_WR_VREF r.2.1.wrVref.toNat,
        setF reg MS_MARGIN_RESULT r.2.2,
        onlyIf (decide (r.2.2 = 2)) (record (qDie (memDie (stack / 8))) 0x0500 clsTransient .warning (stackOwner m stack)
          (dpMemory 3 (stack / 8) stack r.1 0 0) (mpStack stack) (detail [(32, 1, stack), (33, 1, r.1)]))]),
    zeroStack stack,
    dropLines stack,
    modStk stack (fun x => { x with action := 0, lost := [], dropped := [] }),
    setF (MS_MAINT (stack / 8)) MS_MAINT_BUSY 0,
    stackCounts stack,
    (if fail then acts [
        setF (stackReg stack) MS_STACK_STATE_STATE 6,
        record (qDie (memDie (stack / 8))) 0x0505 clsLasting .critical (stackOwner m stack)
          (dpMemory 2 (stack / 8) stack 0 0 0) (mpStack stack) (detail [(32, 1, stack)]),
        ledgerReq stack 5 0 0 0 0 0]
      else setF (stackReg stack) MS_STACK_STATE_STATE (if act = 2 then serviceState m stack else 3)),
    clearNow stack,
    serveStack stack]) s

/-! ### Stacks coming into service (R484, R486), idle stacks and sump entries (R191, R359) -/

/-- The stacks of a die are trained: their zeroing starts, as a clear (R486). -/
def execStackTrainingDone (die : Fin 4) (s : State) : Result := done (.look fun m =>
  onlyIf (m.dieRuns (memDie die) && !m.rst.stacksZeroing.contains die.val) (acts [
    modRst (fun r => { r with stacksZeroing := r.stacksZeroing ++ [die.val] }),
    forEach (((List.range 8).map (8 * die.val + ·)).filter fun st => stackState m st = 0) fun st => acts [
      setF (stackReg st) MS_STACK_STATE_STATE 7,
      dropLines st,
      modStk st (fun x => { x with lost := [], dropped := [] }),
      stackCounts st,
      zeroStack st]])) s

/-- The zeroing ends: the stacks are in service, and the rings of their chambers may start (R485). -/
def execStackZeroDone (die : Fin 4) (s : State) : Result := done (.look fun m =>
  let ss := ((List.range 8).map (8 * die.val + ·)).filter fun st =>
    decide (stackState m st = 7) && (match stackOwner m st with
      | some k => !(m.chamber k).clearing
      | none => true)
  onlyIf (m.rst.stacksZeroing.contains die.val) (acts [
    modRst (fun r => { r with stacksZeroing := r.stacksZeroing.filter (· ≠ die.val) }),
    forEach ss (fun st => setF (stackReg st) MS_STACK_STATE_STATE (serviceState m st)),
    forEach ss serveStack])) s

def execSumpIdleWriteback (die : Fin 4) (line : Nat) (s : State) : Result := done (sumpFree die line) s

/-- A stack with no access for IDLE_US enters self-refresh; the contents of one that no chamber owns are not kept (R191). -/
def execStackSelfRefresh (stack : Fin 32) (s : State) : Result := done (.look fun m =>
  onlyIf (stackServes m stack && (m.stk stack).retry.isEmpty && (m.stk stack).repeating.isEmpty &&
    (m.stk stack).remaps.isEmpty) (modStk stack fun x => { x with
      selfRefresh := true, unkept := x.unkept || (stackOwner m stack).isNone })) s

end Sys2Proof.Machine
end

