-- ==== Sys2Proof/Machine/Ledger.lean ====
section
/-! DEFINITION. The conservation ledger (R285–R289): snapshots, checks, and the owners that a lasting fault stops. -/

namespace Sys2Proof.Machine

/-- At drip ticks that are multiples of 1,024 the pools' snapshots are those of the tick boundary, and the checker has every one
of them to check (R287). -/
def execLedgerSnapshot (s : State) : Result := done (.look fun m =>
  onlyIf (decide (m.tick % 1024 = 0)) (acts [
    forEach m.poolBound (fun x => .upd (.poolSnap x.1 x.2)),
    .upd (.ledgerTodo (m.poolBound.map (·.1)))])) s

/-- The invariant of R286 on a snapshot. -/
def snapOk (s : PoolSnap) : Bool := decide (s.issued = s.returned + s.inFlight + s.retired)

/-- The router unit of a die stops until the die's reset, and the launches of the die that bind a gathering queue have their
stages faulted (R288). -/
def faultGathering (d : Nat) : Act := .look fun m => acts [
  modCDie d (fun c => { c with routerStopped := true }),
  forEach (((m.cdie d).launches.filter fun l => !l.2.gqs.isEmpty).map fun l => (64 * d + l.1, l.2)) fun l =>
    forEach (List.range l.2.stages.length) fun st => stageFault l.1 st 0]

/-- The owner of a pool with a lasting fault is fail-stopped (R288). -/
def stopOwner (i : Nat) : Act := .look fun m =>
  if i < 0x1000 then onlyIf (!m.cntFrozen.contains i) (.upd (.cntFrozen (m.cntFrozen ++ [i])))
  else if i < 0x1200 then failStop ((i - 0x1000) / 8) 2
  else if i < 0x1240 then failStop (i - 0x1200) 2
  else if i < 0x1250 then isolate (ioDie ((i - 0x1240) / 2)) 4
  else if i < 0x1270 then
    setRegulator ((i - 0x1250) / 8) (i % 8) { m.regulator ((i - 0x1250) / 8) (i % 8) with failed := true }
  else if i < 0x1278 then faultGathering (i - 0x1270)
  else if 0x1280 ≤ i ∧ i < 0x12C0 then isolate (ioDie ((i - 0x1280) / 8)) 4
  else if 0x12C0 ≤ i ∧ i < 0x12C4 then isolate (memDie (i - 0x12C0)) 4
  else if 0x12C8 ≤ i ∧ i < 0x12D0 then isolate (ioDie (i - 0x12C8)) 4
  else .nop

/-- The pools that the checker's pass has still to check, in index order (R287, R36); one frozen since is left out (R289). -/
def stillToCheck (m : Mod) : List Nat := m.ledgerTodo.filter m.poolRuns

/-- The checker verifies the next pool's snapshot, reading it once more where the first check fails (R287); the two flags say
whether each read came over the sideband as it was sent. -/
def execLedgerCheck (pool : Nat) (read1 : Bool) (read2 : Bool) (s : State) : Result := done (.look fun m =>
  match m.poolSnap.get? pool, stillToCheck m with
  | some sn, i :: rest =>
    if i ≠ pool then .nop
    else acts [
      .upd (.ledgerTodo rest),
      .upd (.poolRead (m.poolRead.put pool sn)),
      (if read1 && snapOk sn then .nop
       else if read2 && snapOk sn then acts [
         bumpSat FB_LEDGER_STAT FB_LEDGER_STAT_TRANSIENT 1,
         record (qDie mgmtDie) 0x0801 clsTransient .plain none dpNone mpTfw (detail [(32, 2, pool)])]
       else acts [
         bumpSat FB_LEDGER_STAT FB_LEDGER_STAT_LASTING 1,
         record (qDie mgmtDie) 0x0802 clsLasting .critical none dpNone mpTfw
           (detail [(32, 2, pool), (40, 8, sn.issued), (48, 8, sn.returned), (56, 8, sn.retired)]),
         stopOwner pool]),
      onlyIf rest.isEmpty (acts [
        bumpWrap FB_LEDGER_STAT FB_LEDGER_STAT_CHECKS 1,
        setF FB_LEDGER_STAT FB_LEDGER_STAT_FROZEN
          (((List.range 20).filter fun n => m.dieState n = 1 ∨ m.dieState n = 2).foldl
            (fun a n => a + (poolsOf m n).length) 0)])]
  | _, _ => .nop) s

end Sys2Proof.Machine
end

