-- ==== Sys2Proof/Machine/Optics.lean ====
section
/-! DEFINITION. The optical layer's events (R364–R398): laser feeds and their interlock, ring control, power monitors,
the lane management channel, calibration and feed handover (11_optical_ports_and_lasers.md). -/

namespace Sys2Proof.Machine

/-! ### Ports that change feed with a new epoch (R368, R393, R394) -/

/-- A port of a die that takes part in discovery or Volosh: the plan uses it. -/
def portUsed (m : Mod) (p : Nat) : Bool := decide (m.planKind p ≠ 0)

/-- Every selector of a port is switched to a feed of its die. -/
def selectAll (p feed : Nat) : Act := forEach (List.range 18) fun x => selectFeed p x feed

/-- A port resets with a new epoch for a cause that R554's table does not list: the cause byte of its record is a free
value (log 12). -/
def portResetUnlisted (p : Nat) : Act := .look fun m =>
  if !portUsed m p ∨ m.linkState p = lkStopped then .nop
  else acts [
    closeEpoch p lkTraining clsLasting,
    portRecord p 0x0705 clsLasting .plain [(32, 1, p), (33, 1, 0),
      (34, 1, (Config.freeWord 0x0705 m.freeCount).toNat % 256), (36, 2, m.fld (FB_PORT_LINK p) FB_PORT_LINK_EPOCH + 1)],
    .upd .free,
    scoreEvent (scPort p) 100]

/-- The ports of a die. -/
def portsOfDie (i : Nat) : List Nat := (List.range 8).map (8 * i + ·)

/-- The handover of a lineage die resets each port in turn on the new feed (R368). -/
def lineageHand (i : Nat) : Act := .look fun m =>
  match (m.iodie i).hand with
  | some h => onlyIf (decide (ioMode m i = 1)) (acts [
      forEach (portsOfDie i) (fun p => acts [selectAll p h.feed, portResetUnlisted p]),
      handEnd i])
  | none => .nop

/-- A die hands over to a feed (R391). -/
def handOver (i feed : Nat) : Act := acts [handStart i feed, lineageHand i]

def otherFeed (m : Mod) (i : Nat) : Nat := 2 * i + (1 - activeFeed m i % 2)

/-- A handover that waits for a healthy feed goes on when the feed is healthy (R391). -/
def handWaiting (i : Nat) : Act := .look fun m =>
  onlyIf (decide (m.fld (LS_DIE i) LS_DIE_HANDOVER = 3) && feedHealthy m (otherFeed m i)) (handOver i (otherFeed m i))

/-- Ports left on an inactive feed that fails switch every selector and reset (R393). -/
def leftPorts (f : Nat) : Act := .look fun m =>
  let i := f / 2
  onlyIf (decide (activeFeed m i ≠ f ∧ m.fld (LS_DIE i) LS_DIE_HANDOVER = 4))
    (forEach ((portsOfDie i).filter fun p => (List.range 18).any fun x => laneFeed m p x = f) fun p =>
      acts [selectAll p (activeFeed m i), portResetUnlisted p])

/-! ### Feeds (R370–R373, R394) -/

/-- A feed at full power serves its die: its idle rings lock, a waiting handover goes on, and where the die's active
feed is dark, its ports train on this one (R371, R394, R395). -/
def feedUp (f : Nat) : Act := .look fun m =>
  let i := f / 2
  let dark := decide (m.fld (LS_FEED_STAT (activeFeed m i)) LS_FEED_STAT_STATE ≠ 3)
  acts [
    setF (LS_FEED_STAT f) LS_FEED_STAT_STATE 3,
    feedMark f false,
    onlyIf (dark && decide (activeFeed m i ≠ f)) (acts [
      setF (LS_DIE i) LS_DIE_ACTIVE (f % 2),
      forEach (portsOfDie i) (fun p => selectAll p f)]),
    forEach (portsOfDie i) (fun p => forEach (List.range 18) fun x => .look fun m =>
      onlyIf (decide (laneFeed m p x = f)) (setF (PT_TX_LANE p x) lockFld 2)),
    .look fun m => onlyIf (decide (activeFeed m i = f) && m.dieRuns (ioDie i))
      (forEach (portsOfDie i) fun p =>
        onlyIf (portUsed m p && decide (m.linkState p = lkDown)) (setLink p lkTraining)),
    handWaiting i]

/-- The pilot check (R371): every line at −26 dBm or more and the total at −7 dBm or less, in hundredths of a dBm. -/
def pilotPass (lines : List Int) (total : Int) : Bool :=
  decide (lines.length = 18 ∧ total ≤ -700) && lines.all fun v => decide (-2600 ≤ v)

/-- 2.152 ms after LASER_EN rises. -/
def execFeedPilotCheck (f : Fin 16) (lines : List Int) (total : Int) (s : State) : Result := done (.look fun m =>
  onlyIf (decide (m.fld (LS_FEED_STAT f) LS_FEED_STAT_STATE = 1) && m.pins.laserEn.getLsbD f)
    (if pilotPass lines total then modTrust fun t => { t with pilotOk := t.pilotOk.filter (· ≠ f.val) ++ [f.val] }
     else acts [
       setLaser f false,
       setF (LS_FEED_STAT f) LS_FEED_STAT_STATE 2,
       bumpSat (LS_FEED_STAT f) LS_FEED_STAT_PILOT_FAILS 1,
       feedRecord f 0 0x0B04 clsLasting []])) s

/-- 6.0–6.5 ms after LASER_EN rises: the shelf is at full power. -/
def execFeedFullPowerCheck (f : Fin 16) (lines : List Int) (total : Int) (s : State) : Result := done (.look fun m =>
  onlyIf (decide (m.fld (LS_FEED_STAT f) LS_FEED_STAT_STATE = 1) && m.trust.pilotOk.contains f.val &&
      m.pins.laserEn.getLsbD f) (acts [
    modTrust (fun t => { t with pilotOk := t.pilotOk.filter (· ≠ f.val) }),
    forEach (List.range 18) (fun l => setF (LS_LINE f l) LS_LINE_POWER_CDB (ofSigned 16 (lines.getD l 0))),
    setF (LS_FEED_STAT f) LS_FEED_STAT_TOTAL_CDB (ofSigned 16 total),
    feedUp f])) s

/-- LASER_EN of a feed rises and its pilot check starts (R371). -/
def startPilot (f : Nat) : Act := acts [
  setLaser f true,
  setF (LS_FEED_STAT f) LS_FEED_STAT_STATE 1,
  modTrust fun t => { t with pilotOk := t.pilotOk.filter (· ≠ f) }]

/-- What the feed-enable gate asks of a feed (R371). -/
def feedMayRise (m : Mod) (f : Nat) : Bool :=
  m.trust.image.feedAllow.getLsbD f && m.flag (LS_FEED_STAT f) LS_FEED_STAT_FAULT_N &&
    (match m.interlocked.get? f with
     | some t => decide (t.toNat + 10 ^ 9 ≤ m.now.toNat)
     | none => true)

/-- A feed whose pilot failed is retried after 1 s. -/
def execFeedPilotRetry (f : Fin 16) (s : State) : Result := done (.look fun m =>
  onlyIf (decide (m.fld (LS_FEED_STAT f) LS_FEED_STAT_STATE = 2) && m.flag (LS_FEED_CTL f) LS_FEED_CTL_ENABLE &&
    feedMayRise m f) (startPilot f)) s

/-- The ports of a die whose active feed is dark switch to the other feed, or stay down (R394). -/
def feedLossReset (f : Nat) : Act := .look fun m =>
  let i := f / 2
  let other := otherFeed m i
  if activeFeed m i ≠ f then leftPorts f
  else acts [
    modIoDie i (fun d => { d with hand := none, comb := [] }),
    if feedHealthy m other then acts [
      setF (LS_DIE i) LS_DIE_ACTIVE (other % 2),
      forEach (portsOfDie i) (fun p => acts [selectAll p other, portResetUnlisted p])]
    else forEach ((portsOfDie i).filter (portUsed m)) fun p =>
      onlyIf (decide (m.linkState p ≠ lkStopped)) (acts [
        closeEpoch p lkDown clsLasting,
        portRecord p 0x0B05 clsLasting .plain []])]

/-- The total power of a feed at full power falls below a quarter (R372). -/
def execFeedPowerLoss (f : Fin 16) (s : State) : Result := done (.look fun m =>
  onlyIf (decide (m.fld (LS_FEED_STAT f) LS_FEED_STAT_STATE = 3)) (acts [
    setLaser f false,
    setF (LS_FEED_STAT f) LS_FEED_STAT_STATE 4,
    .upd (.interlocked (m.interlocked.put f m.now)),
    feedRecord f 0 0x0B05 clsLasting [],
    feedMark f true,
    feedLossReset f])) s

/-- LASER_FAULT_N of a feed is accepted low (R373). -/
def laserFault (f : Nat) : Act := acts [
  setF (LS_FEED_STAT f) LS_FEED_STAT_FAULT_N 0,
  .look fun m =>
    onlyIf (decide (m.fld (LS_FEED_STAT f) LS_FEED_STAT_STATE = 3) &&
        (List.range 18).all fun l => decide (lineLevel m f l < 3)) (acts [
      onlyIf (decide (activeFeed m (f / 2) = f)) (handOver (f / 2) (otherFeed m (f / 2))),
      dropFeed f])]

/-- LASER_FAULT_N of a feed is high again. -/
def laserFaultGone (f : Nat) : Act := acts [
  setF (LS_FEED_STAT f) LS_FEED_STAT_FAULT_N 1,
  .look fun m => onlyIf (decide (m.fld (LS_FEED_STAT f) LS_FEED_STAT_STATE = 5))
    (setF (LS_FEED_STAT f) LS_FEED_STAT_STATE 0),
  handWaiting (f / 2)]

def execLaserFault (f : Fin 16) (s : State) : Result := done (acceptLevel (3 + f) false (laserFault f)) s

/-- LASER_FAULT_N of a feed is accepted high again. -/
def execLaserFaultCleared (f : Fin 16) (s : State) : Result := done (acceptLevel (3 + f) true (laserFaultGone f)) s

/-! ### Ring control (R374–R376, R386) -/

/-- The move under way in a direction. -/
def moveOf (m : Mod) (tx : Bool) (p : Nat) : Option Move := if tx then (m.port p).move else (m.port p).moveR

/-- A move is abandoned whose new lane has not been switched to (R386, R395). -/
def spoilMove (p : Nat) (tx : Bool) (l : Nat) : Act := .look fun m =>
  match moveOf m tx p with
  | some mv => onlyIf (decide (mv.dst = l ∧ mv.step < 4)) (abandonMove p mv true true)
  | none => .nop

def execRingLockLoss (p : Fin 64) (tx : Bool) (l : Fin 18) (s : State) : Result := done (acts [
  setF (laneReg tx p l) lockFld 1,
  spoilMove p tx l]) s

def execRingReacquired (p : Fin 64) (tx : Bool) (l : Fin 18) (s : State) : Result := done (.look fun m =>
  onlyIf (decide (m.fld (laneReg tx p l) lockFld = 1)) (acts [
    setF (laneReg tx p l) lockFld 2,
    bumpSat (laneReg tx p l) PT_TX_LANE_RELOCKS 1,
    scoreEvent (scLane p tx l) 20])) s

/-- The ring needs a search out of service: its lane is treated as suspect (R375). -/
def execRingRelockTimeout (p : Fin 64) (tx : Bool) (l : Fin 18) (s : State) : Result := done (.look fun m =>
  onlyIf (decide (m.fld (laneReg tx p l) lockFld = 1)) (acts [
    setF (laneReg tx p l) lockFld 0,
    suspectLane p tx l])) s

/-- The retraining of a suspect lane ends (R282): its traffic returns, or the lane is retired. -/
def execSuspectLaneRetrained (p : Fin 64) (tx : Bool) (l : Fin 18) (pass : Bool) (s : State) : Result :=
  done (.look fun m =>
    let y := m.port p
    let clear : Act := modPort p fun y => if tx then { y with suspTx := y.suspTx.filter (· ≠ l.val) }
      else { y with suspRx := y.suspRx.filter (· ≠ l.val) }
    onlyIf ((if tx then y.suspTx else y.suspRx).contains l.val && (m.logicalOn tx p l).isNone) (
      if pass then acts [
        setF (laneReg tx p l) lockFld 2,
        modPort p (fun y => { y with returned := y.returned.put (2 * l.val + b01 tx) m.now.toNat }),
        clear,
        laneBits p,
        laneRecord p tx l 0x0702 clsTransient [(32, 1, p.val), (33, 1, l.val), (34, 1, b01 tx)],
        onlyIf (decide (l.val < 16)) (moveTo p tx l l 5),
        nextMove p tx]
      else retireLane p tx l)) s

/-! ### Power monitors (R377–R380) -/

/-- The threshold of a level, in centi-dB of loss. -/
def fadeThreshold (m : Mod) (k : Nat) : Nat :=
  m.fld LS_CFG (if k = 1 then LS_CFG_WARN_CDB else if k = 2 then LS_CFG_SWAP_CDB else LS_CFG_FAIL_CDB)

/-- Where a monitor's runs of readings are kept: port and key. -/
def monitorKey : Monitor → Nat × Nat
  | .tx p l => (p, 4 * l.val)
  | .rx p l => (p, 4 * (18 + l.val))
  | .line f l => (8 * (f.val / 2), 4 * (36 + 18 * (f.val % 2) + l.val))

def monitorReg : Monitor → Nat
  | .tx p l => PT_TX_LANE p l
  | .rx p l => PT_RX_LANE p l
  | .line f l => LS_LINE f l

/-- The runs of readings beyond a level's threshold and at least 0.30 dB inside it, at most 3 each (R379). -/
def runStep (thr : Nat) (loss : Int) (r : Nat × Nat) : Nat × Nat :=
  (if (thr : Int) < loss then min 3 (r.1 + 1) else 0, if loss + 30 ≤ (thr : Int) then min 3 (r.2 + 1) else 0)

/-- The level after a reading, from the level before and the runs of the levels 1 to 3. -/
def nextLevel (cur : Nat) (run : Nat → Nat × Nat) : Nat :=
  let high := if (run 3).1 = 3 then 3 else if (run 2).1 = 3 then 2 else if (run 1).1 = 3 then 1 else 0
  if cur < high then high
  else if cur = 0 ∨ (run cur).2 < 3 then cur
  else if 2 < cur ∧ (run 2).2 < 3 then 2
  else if 1 < cur ∧ (run 1).2 < 3 then 1
  else 0

/-- Class and grade of a fade record: a warning, a lasting lane failure, else transient. -/
def fadeClass (lv : Nat) : Nat := if lv = 3 then clsLasting else clsTransient
def fadeGrade (lv : Nat) : Grade := if lv = 1 then .warning else .plain

/-- A comb-line spare whose line fades (R388, R395). -/
def fadedSpare (f l p : Nat) : Act := .look fun m =>
  if laneFeed m p l ≠ f ∨ !m.portOpen p then .nop
  else
    let u := m.spareUse p l
    if u = 0 then setSpare p l 5 0
    else if u = 1 then abandonCal p
    else if u = 4 then spoilMove p true l
    else onlyIf (decide (u = 2 ∨ u = 3 ∨ u = 6)) (moveOff p true l 1)

/-- Lines of a feed at or beyond the swap threshold. -/
def fadedLines (m : Mod) (f : Nat) : Nat := ((List.range 18).filter fun l => 2 ≤ lineLevel m f l).length

/-- A feed line enters a level (R380). -/
def lineEnters (f l lv : Nat) : Act := .look fun m =>
  let i := f / 2
  let isActive := decide (activeFeed m i = f)
  acts [
    scoreEvent (scLine f l) (if lv = 3 then 65535 else if lv = 2 then 1000 else 300),
    onlyIf (decide (lv = 3)) (acts [
      leftPorts f,
      onlyIf isActive (forEach (portsOfDie i) fun p => .look fun m =>
        onlyIf (decide (laneFeed m p l = f) && (m.logicalOn true p l).isSome && m.portOpen p) (retireLane p true l))]),
    onlyIf (isActive && decide (2 ≤ lv)) (acts [
      onlyIf (decide (16 ≤ l)) (forEach (portsOfDie i) fun p => fadedSpare f l p),
      onlyIf (decide (3 ≤ fadedLines m f)) (handOver i (otherFeed m i)),
      .look fun m => onlyIf (decide (l < 16) && (m.iodie i).hand.isNone && decide (activeFeed m i = f)) (
        if ioMode m i = 1 then handOver i (otherFeed m i)
        else acts [
          modIoDie i (fun d => { d with comb := d.comb ++ (portsOfDie i).map fun p => (l, p) }),
          combStep i 64])])]

/-- A lane monitor enters a level (R380). -/
def laneEnters (p : Nat) (tx : Bool) (l lv : Nat) : Act := .look fun m =>
  let wide := !tx && decide (8 ≤ ((List.range 18).filter fun x => 2 ≤ m.fld (PT_RX_LANE p x) levelFld).length)
  acts [
    onlyIf (decide (lv < 3)) (scoreEvent (scLane p tx l) (if lv = 2 then 1000 else 300)),
    onlyIf (wide && decide (lv = 2)) (record (qPort p) 0x0B06 clsLasting .plain none (dpPort m p) (mpPort p) (detail [])),
    if lv = 3 then retireLane p tx l
    else onlyIf (decide (lv = 2) && !wide) (moveOff p tx l 2)]

/-- A 256 µs reading of a monitor, in centi-dB relative to its commissioning value (R377, R379). -/
def execMonitorReading (mon : Monitor) (cdb : Int) (s : State) : Result := done (.look fun m =>
  let key := monitorKey mon
  let run : Nat → Nat × Nat := fun k => runStep (fadeThreshold m k) (-cdb) ((m.port key.1).levelRun.getD (key.2 + k) (0, 0))
  let cur := m.fld (monitorReg mon) levelFld
  let lv := nextLevel cur run
  acts [
    setF (monitorReg mon) PT_TX_LANE_POWER_CDB (ofSigned 16 cdb),
    modPort key.1 (fun x => { x with levelRun :=
      ((x.levelRun.put (key.2 + 1) (run 1)).put (key.2 + 2) (run 2)).put (key.2 + 3) (run 3) }),
    onlyIf (decide (lv ≠ cur)) (acts [
      setF (monitorReg mon) levelFld lv,
      (match mon with
       | .line f l => record (qDie mgmtDie) 0x0B01 (fadeClass lv) (fadeGrade lv) none (dpFabric 1 m.selfId (f.val / 2) 0 0)
           (mpath 3 mgmtDie 3 f l) (detail [])
       | .tx p l => laneRecordG p true l 0x0B01 (fadeClass lv) (fadeGrade lv) []
       | .rx p l => laneRecordG p false l 0x0B01 (fadeClass lv) (fadeGrade lv) []),
      if cur < lv then (match mon with
        | .line f l => lineEnters f l lv
        | .tx p l => laneEnters p true l lv
        | .rx p l => laneEnters p false l lv)
      else (match mon with
        | .line f _ => handWaiting (f.val / 2)
        | _ => .nop)])]) s

/-! ### The lane management channel (R381–R385) -/

/-- An ACK to a frame. -/
def ackFrame (p : Nat) (f : Word) : Act := sendFrame p frAck (frLogical f) (frPhys f) (frCause f) none

/-- The move under way in a direction is the one that a frame names. -/
def frameMove (m : Mod) (tx : Bool) (p : Nat) (f : Word) : Option Move :=
  (moveOf m tx p).filter fun mv => decide (mv.logical = frLogical f ∧ mv.dst = frPhys f)

/-- The transmitter receives MOVE_REQ(l, x), dropped where the epoch has closed (R295): a lane being moved, or already on x, is answered with ACK (R385). -/
def execMoveReq (p : Fin 64) (frame : Word) (s : State) : Result := done (.look fun m =>
  let l := frLogical frame
  let x := frPhys frame
  let busy := ((m.port p).move.any fun mv => decide (mv.logical = l)) ||
    (m.port p).queuedMoves.any fun mv => decide (mv.tx = true ∧ mv.logical = l)
  let mv : Move := { tx := true, logical := l, src := m.laneOf true p l, dst := x, cause := frCause frame, step := 0
                     retried := false, stamp := m.now }
  if !m.portOpen p ∨ !frameOk m p frMoveReq frame ∨ 16 ≤ l ∨ 18 ≤ x then .nop
  else if busy ∨ m.laneOf true p l = x then ackFrame p frame
  else if x < 16 ∨ m.spareUse p x = 0 then wantMove p mv
  else onlyIf (decide (m.spareUse p x = 1)) (acts [
    modPort p (fun y => { y with queuedMoves := y.queuedMoves ++ [mv] }),
    onlyIf (decide (x = 16)) (abandonCal p)])) s

/-- The receiver receives TRAIN_START(l, x) and trains x. A request of its own for another lane waits again. -/
def execTrainStart (p : Fin 64) (frame : Word) (s : State) : Result := done (.look fun m =>
  let l := frLogical frame
  let x := frPhys frame
  let cur := (m.port p).moveR
  let mine := cur.filter fun mv => decide (mv.logical = l ∧ mv.dst = x)
  let mv : Move := match mine with
    | some mv => { mv with step := 2, cause := frCause frame }
    | none => { tx := false, logical := l, src := m.laneOf false p l, dst := x, cause := frCause frame, step := 2
                retried := false, stamp := m.now }
  if !m.portOpen p ∨ !frameOk m p frTrainStart frame ∨ 16 ≤ l ∨ 18 ≤ x ∨ mine.any (fun mv => decide (2 ≤ mv.step)) then .nop
  else acts [
    (match cur with
     | some o => onlyIf (decide (mine = none ∧ o.step = 1 ∧ o.logical ≠ l))
         (modPort p fun y => { y with queuedMoves := { o with step := 0 } :: y.queuedMoves })
     | none => .nop),
    modPort p (fun y => { y with lmcRx := none }),
    setF (PT_RX_LANE p x) lockFld 1,
    setMove p false (some mv)]) s

/-- Clock recovery, equalisation and deskew of the new lane are complete. -/
def execLaneTrained (p : Fin 64) (x : Fin 18) (s : State) : Result := done (.look fun m =>
  match (m.port p).moveR with
  | some mv => onlyIf (decide (mv.dst = x.val ∧ mv.step = 2) && (m.port p).lmcRx.isNone) (acts [
      setF (PT_RX_LANE p x) lockFld 2,
      sendFrame p frTrained mv.logical mv.dst mv.cause (some false)])
  | none => .nop) s

/-- The transmitter mirrors the lane onto x. -/
def execTrained (p : Fin 64) (frame : Word) (s : State) : Result := done (.look fun m =>
  match frameMove m true p frame with
  | some mv => onlyIf (frameOk m p frTrained frame && decide (mv.step = 2)) (acts [
      setMove p true (some { mv with step := 3 }),
      sendFrame p frMirrorOn mv.logical mv.dst mv.cause (some true)])
  | none => .nop) s

/-- The receiver starts its verification. -/
def execMirrorOn (p : Fin 64) (frame : Word) (s : State) : Result := done (.look fun m =>
  match frameMove m false p frame with
  | some mv => onlyIf (frameOk m p frMirrorOn frame && decide (mv.step = 2)) (acts [
      modPort p (fun y => { y with lmcRx := none }),
      setMove p false (some { mv with step := 3 })])
  | none => .nop) s

/-- 4,096 mirrored flits are good: the receiver switches. -/
def execMirrorVerified (p : Fin 64) (s : State) : Result := done (.look fun m =>
  match (m.port p).moveR with
  | some mv => onlyIf (decide (mv.step = 3)) (acts [
      setLane false p mv.logical mv.dst,
      setMove p false (some { mv with step := 4 }),
      sendFrame p frSwitched mv.logical mv.dst mv.cause (some false)])
  | none => .nop) s

/-- The transmitter stops driving the old lane; a SWITCHED repeated after that is answered again. -/
def execSwitched (p : Fin 64) (frame : Word) (s : State) : Result := done (.look fun m =>
  onlyIf (frameOk m p frSwitched frame) (match frameMove m true p frame with
    | some mv => onlyIf (decide (mv.step = 3)) (acts [ackFrame p frame, endTxMove p mv])
    | none => onlyIf (decide (m.laneOf true p (frLogical frame) = frPhys frame)) (ackFrame p frame))) s

/-- The peer receiver of a calibrating lane starts its steps: the ring sweeps (R389). -/
def execCalStart (p : Fin 64) (frame : Word) (s : State) : Result := done (.look fun m =>
  onlyIf (frameOk m p frCalStart frame && decide (frPhys frame < 18)) (acts [
    setF (PT_RX_LANE p (frPhys frame)) lockFld 1,
    ackFrame p frame])) s

/-- The calibration of a lane is verified. -/
def execCalDone (p : Fin 64) (frame : Word) (s : State) : Result := done (.look fun m =>
  onlyIf (frameOk m p frCalDone frame && decide (frPhys frame < 18)) (acts [
    setF (PT_RX_LANE p (frPhys frame)) lockFld 2,
    ackFrame p frame])) s

/-- The other side has abandoned a sequence (R383). -/
def execLmcAbort (p : Fin 64) (frame : Word) (s : State) : Result := done (.look fun m =>
  onlyIf (frameOk m p frAbort frame) (acts [
    (match frameMove m true p frame with
     | some mv => abandonMove p mv false false
     | none => .nop),
    (match frameMove m false p frame with
     | some mv => abandonMove p mv false false
     | none => .nop)])) s

/-- One entry of the transmitter's map (R366, R382). -/
def execLmcMap (p : Fin 64) (frame : Word) (s : State) : Result := done (.look fun m =>
  onlyIf (frameOk m p frMap frame && decide (frLogical frame < 16 ∧ (frPhys frame < 18 ∨ frPhys frame = noLane)))
    (setLane false p (frLogical frame) (frPhys frame))) s

/-- An ACK answers the frame being repeated whose lanes it names (R383, R385): a switched move is over, a request that
starts no second move is dropped. -/
def execLmcAck (p : Fin 64) (frame : Word) (s : State) : Result := done (.look fun m =>
  let names : Option LmcSend → Bool := fun o => o.any fun x =>
    decide (frLogical x.frame = frLogical frame ∧ frPhys x.frame = frPhys frame)
  onlyIf (frameOk m p frAck frame) (acts [
    onlyIf (names (m.port p).lmcTx) (modPort p fun y => { y with lmcTx := none }),
    onlyIf (names (m.port p).lmcRx) (acts [
      modPort p (fun y => { y with lmcRx := none }),
      (match (m.port p).moveR with
       | some mv => if mv.step = 4 then endRxMove p mv
         else if mv.step = 1 then acts [setMove p false none, nextMove p false] else .nop
       | none => .nop)])])) s

/-- A frame has stood unanswered for 2M (R383). -/
def execLmcFrameRepeat (p : Fin 64) (s : State) : Result := done (acts [
  .look fun m => match (m.port p).lmcTx with
    | some x =>
      if x.sends < 4 then acts [modPort p (fun y => { y with lmcTx := some { x with sends := x.sends + 1 } }),
        emit (.lmc p x.frame)]
      else (match (m.port p).move with
        | some mv => abandonMove p mv true true
        | none => acts [
            modPort p (fun y => { y with lmcTx := none }),
            sendFrame p frAbort (frLogical x.frame) (frPhys x.frame) (frCause x.frame) none,
            abandonCal p])
    | none => .nop,
  .look fun m => match (m.port p).lmcRx with
    | some x =>
      if x.sends < 4 then acts [modPort p (fun y => { y with lmcRx := some { x with sends := x.sends + 1 } }),
        emit (.lmc p x.frame)]
      else (match (m.port p).moveR with
        | some mv => abandonMove p mv true true
        | none => modPort p fun y => { y with lmcRx := none })
    | none => .nop]) s

/-- A spare retrained after two abandoned sequences (R383). -/
def execSpareRetrainDone (p : Fin 64) (x : Fin 18) (pass : Bool) (s : State) : Result := done (.look fun m =>
  match (m.port p).retraining.find? fun e => e.1 = x.val with
  | none => .nop
  | some e => acts [
      modPort p (fun y => { y with retraining := y.retraining.filter (· ≠ e) }),
      if pass then onlyIf (e.2 && decide (16 ≤ x.val)) (setSpare p x 0 0)
      else retireLane p e.2 x,
      nextMove p e.2,
      combNext p]) s

/-! ### Calibration (R389, R390) -/

/-- A START of calibration is refused (R367, R368, R389). -/
def calRefused (m : Mod) (p l : Nat) : Bool :=
  let i := p / 8
  decide (18 ≤ l) || m.calPhase.isSome || (m.port p).move.isSome || (m.port p).moveR.isSome || (m.iodie i).hand.isSome ||
  decide (m.fld (LS_DIE i) LS_DIE_HANDOVER = 3) ||
  (if ioMode m i = 1 then decide (16 ≤ l) || (m.portOpen p && !m.trust.maint)
   else decide (m.spareUse p 16 ≠ 0) || (decide (l = 17) && decide (m.spareUse p 17 ≠ 0)))

/-- Calibration of a transmit lane starts: a lane with traffic first moves to lane 16; an idle one is calibrated in
place. -/
def startCal (p l : Nat) : Act := .look fun m =>
  if calRefused m p l then acts [setF (PT_CAL p) PT_CAL_REFUSED 1,
    onlyIf (decide (m.calPort ≠ some p)) (setF (PT_CAL p) PT_CAL_START 0)]
  else acts [
    setF LS_CAL LS_CAL_ACTIVE 1,
    setF LS_CAL LS_CAL_PORT p,
    setF LS_CAL LS_CAL_LANE l,
    if ioMode m (p / 8) ≠ 1 ∧ l < 16 ∧ (m.logicalOn true p l).isSome then acts [
      .upd (.calPhase (some (p, l, 0))),
      moveTo p true l 16 3]
    else acts [
      .upd (.calPhase (some (p, l, 1))),
      onlyIf (decide (16 ≤ l)) (setSpare p l 1 l),
      setF (PT_TX_LANE p l) lockFld 1,
      sendFrame p frCalStart (l % 16) l 3 (some true)]]

/-- The lane moves back from 16, or a calibration in place ends. -/
def calReturn (p l : Nat) (pass : Bool) : Act := .look fun m =>
  if l < 16 ∧ m.laneOf true p l = 16 then acts [
    .upd (.calPhase (some (p, l, if pass then 5 else 6))),
    moveTo p true l l 5]
  else acts [
    onlyIf (decide (16 ≤ l)) (setSpare p l 0 0),
    endCal p pass,
    nextMove p true,
    combNext p]

/-- A phase of the calibration ends: sweep, bias, references, verification; a lane that fails verification is
retrained, and retired where that fails too. -/
def execCalibrationPhaseEnd (pass : Bool) (s : State) : Result := done (.look fun m =>
  match m.calPhase with
  | some (p, l, ph) =>
    if ph = 1 then acts [setF (PT_TX_LANE p l) lockFld 2, .upd (.calPhase (some (p, l, 2)))]
    else if ph = 2 then .upd (.calPhase (some (p, l, 3)))
    else if ph = 3 then .upd (.calPhase (some (p, l, 4)))
    else if (ph = 4 ∨ ph = 7) ∧ pass then acts [
      sendFrame p frCalDone (l % 16) l 3 (some true),
      calReturn p l true]
    else if ph = 4 then .upd (.calPhase (some (p, l, 7)))
    else onlyIf (decide (ph = 7)) (acts [
      retireLane p true l,
      endCal p false,
      nextMove p true])
  | none => .nop) s

/-- The settings of before an abandoned calibration are restored (R390). -/
def execCalSettingsRestored (p : Fin 64) (s : State) : Result := done (.look fun m =>
  match m.calPhase with
  | some (q, l, ph) => onlyIf (decide (q = p.val ∧ ph = 6)) (acts [
      setF (PT_TX_LANE p l) lockFld 2,
      calReturn p l false])
  | none => .nop) s

/-! ### Feed handover (R392) -/

def execSelectorRelockDone (p : Fin 64) (l : Fin 18) (s : State) : Result := done (.look fun m =>
  onlyIf (decide (m.fld (PT_TX_LANE p l) lockFld = 1)) (acts [
    setF (PT_TX_LANE p l) lockFld 2,
    handRelocked p l])) s

end Sys2Proof.Machine
end

