-- ==== Sys2Proof/Machine/RegWrite.lean ====
section
/-! DEFINITION. Accesses to the register space (R9–R13, R29, R42, R43): who reaches which register, what a write takes,
the actions that W1S bits start, and what a read returns. -/

namespace Sys2Proof.Machine

/-! ### Reach (R9, R42, R43, R427) -/

/-- The register blocks in the order of R43, by offset. -/
def blockOf (off : Nat) : Nat :=
  if off < 0x60000 then off / 0x10000
  else if off < 0x200000 then 6
  else if off < 0x300000 then 7
  else if off < 0x400000 then 8
  else if off < 0x500000 then 9
  else if off < 0x600000 then 10
  else if off < 0x700000 then 11
  else if off < 0x800000 then 12
  else 13

/-- The register that holds an offset. -/
def regOff (off : Nat) : Nat := off - off % 8

/-- The size and alignment of an access are those of R9, and the register is assigned (R43). -/
def accessOk (off size : Nat) : Bool :=
  (decide (size = 8 ∧ off % 8 = 0) || decide (size = 4 ∧ off % 4 = 0)) && regAssigned (regOff off)

/-- An agent reaches a register (R42): a die scheduler its own COMPUTE block, the companion the blocks of REG_MASK. -/
def reaches (m : Mod) (who : Requester) (off : Nat) : Bool :=
  match who with
  | .sfw => true
  | .tfw => true
  | .companion => decide (m.fld VL_CFG VL_CFG_REG_MASK / 2 ^ blockOf off % 2 = 1)
  | .scheduler d => decide (0x100000 + 0x10000 * d.val ≤ off ∧ off < 0x110000 + 0x10000 * d.val)

/-! ### Reads (R10, R29) -/

/-- The bits of a register that some field of one access code takes. -/
def accMask (off : Nat) (acc : Acc) : Word :=
  (regFields off).foldl (fun a f => if f.acc = acc then a ||| fieldMask f.lo f.w else a) 0

/-- Word `w` of a window entry. -/
def winWord (x : Win) (w : Nat) : Word := if w = 0 then x.w0 else if w = 1 then x.w1 else if w = 2 then x.w2 else x.w3

/-- What a read of a register returns: the live counter for `TM_NOW` (R448), the last snapshot of the selected pool
(R296), the selected window entry (R363), and elsewhere the snapshot for HWU fields and the value itself for others. -/
def regView (m : Mod) (off : Nat) : Word :=
  if off = TM_NOW then m.now
  else if FB_LEDGER_VAL 0 ≤ off ∧ off ≤ FB_LEDGER_VAL 3 then
    let s := (m.poolSnap.get? (m.fld FB_LEDGER_SEL FB_LEDGER_SEL_POOL)).getD ⟨0, 0, 0, 0⟩
    let w := (off - FB_LEDGER_VAL 0) / 8
    BitVec.ofNat 64 (if w = 0 then s.issued else if w = 1 then s.returned else if w = 2 then s.inFlight else s.retired)
  else if RM_WIN_VAL 0 ≤ off ∧ off ≤ RM_WIN_VAL 3 then
    winWord (m.snapWin.getD (256 * m.fld RM_WIN_SEL RM_WIN_SEL_CHAMBER + m.fld RM_WIN_SEL RM_WIN_SEL_WINDOW) Win.init)
      ((off - RM_WIN_VAL 0) / 8)
  else
    let h := accMask off .hwu
    (m.snapReg off &&& h) ||| (m.reg off &&& ~~~h)

/-- The bytes of a register read. -/
def regRead (m : Mod) (off size : Nat) : List Byte :=
  leBytes size ((regView m (regOff off)).toNat / 2 ^ (8 * (off % 8)))

/-! ### Writes (R10–R13) -/

/-- The bits of a register that a write of some size at an offset covers. -/
def writeCover (off size : Nat) : Word :=
  if size = 8 then BitVec.ofNat 64 (2 ^ 64 - 1) else BitVec.ofNat 64 ((2 ^ 32 - 1) * 2 ^ (8 * (off % 8)))

/-- The mailbox that a register belongs to (R455, R479). -/
def mailboxOf (base : Nat) (ix : List Nat) : Option Nat :=
  if base = TR_GATE_CTL 0 ∨ base = TR_GATE_ARG 0 0 then ix.head?
  else if base = TR_STAGE 1 0 then ix.head?.map (· + 1)
  else none

/-- The owner of a mailbox: service firmware, the companion, and trusted firmware for the fault manager. -/
def owns (who : Requester) (mb : Nat) : Bool :=
  match who with
  | .sfw => decide (mb = 0)
  | .companion => decide (mb = 1)
  | .tfw => decide (mb = 2)
  | .scheduler _ => false

/-- True where the register ignores the requester: a mailbox of another, or busy (R455); `DD_RESET` but for firmware
(R510). -/
def ignores (m : Mod) (who : Requester) (base : Nat) (ix : List Nat) : Bool :=
  (match mailboxOf base ix with
   | some mb => !owns who mb || m.flag (TR_GATE_STAT mb) TR_GATE_STAT_BUSY
   | none => false) ||
  (decide (base = DD_RESET) && !(decide (who = .sfw) || decide (who = .tfw)))

/-- FAULT_N is released where no cause remains (R443): no die isolated for temperature, trusted firmware not halted. -/
def clearFault : Act := .look fun m =>
  onlyIf (!m.trust.halted && !((List.range 22).any fun n => m.flag (TH_DIE n) TH_DIE_ISOLATED)) (acts [
    setF TH_STATUS TH_STATUS_FAULT 0,
    modPins fun p => { p with faultLow := false }])

/-- A ring is stopped, what it had not accepted is discarded, and it watches again from START_SEQ (R187); where its
chamber's state does not allow that yet, the bit stays set until it does (R485). -/
def actRingReset (d r : Nat) : Act := .look fun m => acts [
  modRing d r (fun x => { x with reading := false, reread := false }),
  setF (CD_RING_STATE d r) CD_RING_STATE_STATE 0,
  onlyIf (ringsAllowed m (ringChamber m d r) && m.flag (CD_RING_CTL d r) CD_RING_CTL_ENABLE && m.dieRuns d)
    (startRing d r)]

/-- `DD_RESET.SORUS_GO` (R488). -/
def actSorusGo : Act := .look fun m =>
  let g := m.fld DD_RESET DD_RESET_SORUS
  if sorusResetRefused m g then acts [setF DD_RESET DD_RESET_SORUS_GO 0, setF DD_RESET DD_RESET_SORUS_REFUSED 1]
  else resetSorus g

/-- `DD_RESET.PORT_GO` (R489). -/
def actPortGo : Act := .look fun m =>
  let p := m.fld DD_RESET DD_RESET_PORT
  acts [
    setF DD_RESET DD_RESET_PORT_GO 0,
    if m.dieRuns (ioDie (p / 8)) then portReset p 3 else setF DD_RESET DD_RESET_PORT_REFUSED 1]

/-- A message of the management port for a session (R523). -/
def mtGate : Nat := 0x05

/-- The management session that waits for mailbox 2 learns the result; where it has ended, a record keeps it (R523). -/
def tellSession (gate code : Nat) : Act := .look fun m =>
  match m.trust.mgmtWait with
  | none => .nop
  | some (id, tag) => acts [
      modTrust (fun t => { t with mgmtWait := none }),
      if m.sessions.any fun x => x.id = id then emit (.mgmt id mtGate tag code [])
      else onlyIf (decide (code = 0)) (record (qDie mgmtDie) 0x0E01 clsTransient .plain none dpNone mpTfw
        (detail [(32, 1, 2), (33, 1, gate), (34, 1, code), (40, 8, (m.reg (TR_GATE_ARG 2 0)).toNat)]))]

/-- Trusted firmware answers a gate request: RESULT and SERIAL, BUSY and GO clear; a result other than OK is recorded
(R455, R456). -/
def answerGate (mb gate code : Nat) : Act := .look fun m => acts [
  setF (TR_GATE_STAT mb) TR_GATE_STAT_RESULT code,
  setF (TR_GATE_STAT mb) TR_GATE_STAT_GATE gate,
  bumpWrap (TR_GATE_STAT mb) TR_GATE_STAT_SERIAL 1,
  setF (TR_GATE_STAT mb) TR_GATE_STAT_BUSY 0,
  setF (TR_GATE_CTL mb) TR_GATE_CTL_GO 0,
  onlyIf (decide (code ≠ 0)) (record (qDie mgmtDie) 0x0E01 clsTransient .plain none dpNone mpTfw
    (detail [(32, 1, mb), (33, 1, gate), (34, 1, code), (40, 8, (m.reg (TR_GATE_ARG mb 0)).toNat)])),
  onlyIf (decide (mb = 2)) (tellSession gate code)]

/-- A GO: BUSY until a gate's own command answers; a number that is no gate is answered UNKNOWN. -/
def gateGo (mb : Nat) : Act := .look fun m =>
  let g := m.fld (TR_GATE_CTL mb) TR_GATE_CTL_GATE
  if 1 ≤ g ∧ g ≤ 9 then acts [
    setF (TR_GATE_STAT mb) TR_GATE_STAT_BUSY 1,
    setF (TR_GATE_STAT mb) TR_GATE_STAT_GATE g]
  else answerGate mb g 1

/-- The actions that bits written as 1 start or clear in the register of a row; `v` is what was written. -/
def regAction (base : Nat) (ix : List Nat) (v : Word) : Act :=
  let i := ix.getD 0 0
  let set : Fld → Bool := fun f => decide (bitsOf v f.lo f.w = 1)
  if base = CD_RING_CTL 0 0 then onlyIf (set CD_RING_CTL_RESET) (actRingReset i (ix.getD 1 0))
  else if base = PT_CAL 0 then onlyIf (set PT_CAL_START) (.look fun m => startCal i (m.fld (PT_CAL i) PT_CAL_LANE))
  else if base = DD_RESET then acts [onlyIf (set DD_RESET_SORUS_GO) actSorusGo, onlyIf (set DD_RESET_PORT_GO) actPortGo]
  else if base = TH_STATUS then onlyIf (set TH_STATUS_FAULT) clearFault
  else if base = TR_GATE_CTL 0 then onlyIf (set TR_GATE_CTL_GO) (gateGo i)
  else .nop

/-- A register write by an agent (R9–R13). `TH_STATUS.FAULT` is cleared by its action alone. -/
def writeReg (who : Requester) (off size : Nat) (val : Word) : Act := .look fun m =>
  let o := regOff off
  if !accessOk off size ∨ !reaches m who off then emit (.regFault who off)
  else match regFind o regTable with
    | none => .nop
    | some (row, ix) =>
      if ignores m who row.base ix then .nop
      else
        let v : Word := (if size = 8 then val else BitVec.ofNat 64 (bitsOf val 0 32 * 2 ^ (8 * (off % 8)))) &&&
          writeCover off size
        let take := (accMask o .rw ||| (if who = .tfw then accMask o .tfw else 0)) &&& writeCover off size
        let old := m.reg o
        let kept := (old &&& ~~~take) ||| (v &&& take)
        let cleared := if o = TH_STATUS then kept else kept &&& ~~~(v &&& accMask o .w1c)
        acts [.upd (.reg o (cleared ||| (v &&& accMask o .w1s))), regAction row.base ix v]

/-! ### The rows -/

/-- A write to a register that has no row of its own. -/
def execRegisterWrite (who : Requester) (off : Nat) (size : Nat) (val : Word) (s : State) : Result :=
  done (writeReg who off size val) s

def execRingReset (who : Requester) (d : Fin 8) (r : Fin 256) (val : Word) (s : State) : Result :=
  done (writeReg who (CD_RING_CTL d r) 8 val) s

def execPtCalStart (who : Requester) (p : Fin 64) (val : Word) (s : State) : Result :=
  done (writeReg who (PT_CAL p) 8 val) s

def execPtCalFlagClear (who : Requester) (p : Fin 64) (val : Word) (s : State) : Result :=
  done (writeReg who (PT_CAL p) 8 val) s

def execSorusReset (who : Requester) (val : Word) (s : State) : Result := done (writeReg who DD_RESET 8 val) s

def execPortReset (who : Requester) (val : Word) (s : State) : Result := done (writeReg who DD_RESET 8 val) s

def execDdResetFlagClear (who : Requester) (val : Word) (s : State) : Result := done (writeReg who DD_RESET 8 val) s

def execFaultClear (who : Requester) (val : Word) (s : State) : Result := done (writeReg who TH_STATUS 8 val) s

end Sys2Proof.Machine
end

