-- ==== Sys2Proof/Machine/Confidential.lean ====
section
/-! DEFINITION. Bounce regions of confidential chambers (R418–R424): records in and out, measurements, exports
(12_volosh_and_confidential_operation.md). -/

namespace Sys2Proof.Machine

/-! ### The region (R418) -/

def bounceOff (m : Mod) (k : Nat) : Nat := 2 ^ 12 * m.fld (VL_CHAMBER k) VL_CHAMBER_BOUNCE_OFF
def inSlots (m : Mod) (k : Nat) : Nat := 2 ^ m.fld (VL_BOUNCE_SZ k) VL_BOUNCE_SZ_IN_SLOTS_LOG2
def inLimit (m : Mod) (k : Nat) : Nat := 2 ^ m.fld (VL_BOUNCE_SZ k) VL_BOUNCE_SZ_IN_LOG2
def outSlots (m : Mod) (k : Nat) : Nat := 2 ^ m.fld (VL_BOUNCE_SZ k) VL_BOUNCE_SZ_OUT_SLOTS_LOG2
def outLimit (m : Mod) (k : Nat) : Nat := 2 ^ m.fld (VL_BOUNCE_SZ k) VL_BOUNCE_SZ_OUT_LOG2

/-- The outbound ring starts at the first 4 KiB boundary after the last inbound slot. -/
def outBase (m : Mod) (k : Nat) : Nat :=
  bounceOff m k + (0x1000 + inSlots m k * (inLimit m k + 64) + 0xFFF) / 0x1000 * 0x1000

/-- The line of the two counters that the module writes. -/
def counterLine (c : Chamber) : List Byte := leBytes 8 c.inCons ++ leBytes 8 c.outProd ++ leBytes 48 0

/-- A module-written counter has changed: its line takes the value where it is held, else it is asked for (R408). -/
def touchCounters (k : Nat) : Act := .look fun m =>
  let off := bounceOff m k + 0x40
  match m.volosh.lines.get? off with
  | some l => modVolosh fun v => { v with lines := v.lines.put off { l with written := true, data := counterLine (m.chamber k) } }
  | none => onlyIf (!m.volosh.reqs.any fun r => decide (r.off = off ∧ r.opc = opRdOwn)) (vRequest opRdOwn off [] none)

/-- The lines of a bounce region are asked for as its chamber is bound (R408, R409). -/
def watchBounce (k : Nat) : Act := .look fun m => acts [
  watchLine (bounceOff m k) (8 + k, 0),
  watchLine (bounceOff m k + 0x80) (8 + k, 1),
  vRequest opRdOwn (bounceOff m k + 0x40) [] none]

/-! ### Records (R417, R419) -/

/-- The IV of a record (R417). -/
def recordIv (salt : BitVec 32) (ctr : Nat) : BitVec 96 :=
  BitVec.ofNat 96 (leNat (leBytes 4 salt.toNat ++ [0] ++ leBytes 7 ctr))

/-- The clear prefix of a record. -/
def recordPrefix (ctr ctLen : Nat) : List Byte := leBytes 7 ctr ++ [0] ++ leBytes 4 ctLen ++ leBytes 4 0

/-- Its additional authenticated data: prefix, chamber tag, direction. -/
def recordAad (pre : List Byte) (tag : BitVec 16) (dir : Byte) : List Byte := pre ++ leBytes 2 tag.toNat ++ [dir]

/-- What stands in an inbound slot: none where its counter is not the one expected or its tag fails (R417, R420). -/
def openRecord (c : Chamber) (slot : List Byte) : Option (List Byte) :=
  let pre := slot.take 16
  let ctLen := leNat ((slot.drop 8).take 4)
  if leNat (slot.take 7) ≠ c.inCtr then none
  else Config.gcmOpen c.kIn (recordIv c.sIn c.inCtr) (recordAad pre c.tag 0) ((slot.drop 16).take ctLen)
    (BitVec.ofNat 128 (leNat ((slot.drop (16 + ctLen)).take 16)))

/-- Cuts bytes for an offset into pieces of whole 64 B that cross no 4 KiB boundary (R404). -/
def writePieces : Nat → Nat → List Byte → List (Nat × List Byte)
  | 0, _, _ => []
  | fuel + 1, off, bs =>
    if bs.isEmpty then []
    else
      let n := 4096 - off % 4096
      (off, bs.take n) :: writePieces fuel (off + n) (bs.drop n)

/-- Bytes padded with zeros to whole 64 B lines. -/
def padLine (bs : List Byte) : List Byte := bs ++ leBytes ((64 - bs.length % 64) % 64) 0

/-- Room for one more outbound record (R423). -/
def outRoom (m : Mod) (k : Nat) : Bool := decide ((m.chamber k).outCtr < (m.chamber k).outCons + outSlots m k)

/-- Posts an outbound record (R419, R423): sealed, its slot written with WR_NC; OUT_PROD follows the acknowledgements. -/
def postRecord (k op status : Nat) (req : Word) (off : Nat) (payload : List Byte) : Act := .look fun m =>
  let c := m.chamber k
  let plain := leBytes 8 (op + status * 2 ^ 8) ++ leBytes 8 req.toNat ++ leBytes 8 off ++ leBytes 8 payload.length ++ payload
  let pre := recordPrefix c.outCtr plain.length
  let x := Config.gcmSeal c.kOut (recordIv c.sOut c.outCtr) (recordAad pre c.tag 1) plain
  let bs := padLine (pre ++ x.1 ++ leBytes 16 x.2.toNat)
  let at_ := outBase m k + c.outCtr % outSlots m k * (outLimit m k + 64)
  acts [
    forEach (writePieces 260 at_ bs) (fun w => vRequest opWrNc w.1 w.2 (some (16 + k, c.outCtr))),
    modChamber k (fun c => { c with outCtr := c.outCtr + 1 }),
    setF (VL_CONF_CNT k) VL_CONF_CNT_OUT_CTR (c.outCtr + 1)]

def bExportData : Nat := 0x81
def bStatus : Nat := 0x82

/-- OUT_PROD counts the records whose slots have been acknowledged, in order (R423). -/
def outAcked (k : Nat) : Act := .look fun m =>
  let c := m.chamber k
  let held := m.volosh.reqs.filterMap fun r => match r.watch with
    | some (w, n) => if w = 16 + k then some n else none
    | none => none
  let p := held.foldl min c.outCtr
  onlyIf (decide (c.outProd < p)) (acts [modChamber k (fun c => { c with outProd := p }), touchCounters k])

/-! ### Ingress (R420, R421) -/

/-- Fields of an inbound inner header. -/
def bOp (h : List Byte) : Nat := bitsOf (wordAt h 0) 0 8
def bMeasure (h : List Byte) : Bool := bitOf (wordAt h 0) 8
def bFinal (h : List Byte) : Bool := bitOf (wordAt h 0) 9
def bCen (h : List Byte) : Bool := bitOf (wordAt h 0) 10
def bMslot (h : List Byte) : Nat := bitsOf (wordAt h 0) 12 10
def bCnt (h : List Byte) : Nat := bitsOf (wordAt h 0) 22 12
def bAddr (h : List Byte) : Nat := bitsOf (wordAt h 8) 0 52
def bLen (h : List Byte) : Nat := (wordAt h 16).toNat
def bReq (h : List Byte) : Word := wordAt h 24

/-- A range lies in one of the chamber's stacks, below 48 GiB. -/
def inChamber (m : Mod) (k a n : Nat) : Bool :=
  match locate a with
  | .stack s _ => decide (stackOwner m s = some k ∧ n ≤ roomAt a)
  | _ => false

def counterIn (m : Mod) (k c : Nat) : Bool :=
  decide ((m.chamber k).cntFirst ≤ c ∧ c < (m.chamber k).cntFirst + (m.chamber k).cntNum)

def chunkBytes : Nat := 65536

/-- The object being measured in a slot: none, or a closed one, starts a new object. -/
def openSlot (c : Chamber) (n : Nat) : Option MSlot := (c.mslots.find? fun x => x.slot = n).filter fun x => x.closed.isNone

/-- A measured record continues its slot's object and is whole in chunks, but for the last (R421). -/
def measureOk (c : Chamber) (h : List Byte) (n : Nat) : Bool :=
  (bFinal h || decide (n % chunkBytes = 0)) &&
  (match openSlot c (bMslot h) with
   | some x => decide (x.nextAddr = bAddr h)
   | none => true)

/-- The slot with one record's chunks added; a FINAL record closes it. -/
def measureNext (c : Chamber) (h payload : List Byte) : MSlot :=
  let x := (openSlot c (bMslot h)).getD ⟨bMslot h, [], 0, bAddr h, none⟩
  let ds := x.digests ++ (chunks chunkBytes 17 payload).map Config.sha384
  let n := x.bytes + payload.length
  { x with
    digests := ds
    bytes := n
    nextAddr := bAddr h + payload.length
    closed := if bFinal h then
      some (Config.sha384 ((ds.map fun d => leBytes 48 d.toNat).flatten ++ leBytes 8 n)) else none }

def putSlot (c : Chamber) (x : MSlot) : List MSlot := (c.mslots.filter fun y => y.slot ≠ x.slot) ++ [x]
def dropSlot (c : Chamber) (n : Nat) : List MSlot := c.mslots.filter fun y => y.slot ≠ n ∨ y.closed.isSome

/-- The record in the slot at IN_CONS is consumed. -/
def consumeRecord (k : Nat) : Act := acts [
  modChamber k (fun c => { c with inCons := c.inCons + 1, inCtr := c.inCtr + 1 }),
  .look fun m => setF (VL_CONF_CNT k) VL_CONF_CNT_IN_CTR (m.chamber k).inCtr,
  touchCounters k]

/-- The record of a refused bounce record. -/
def bounceRefused (k : Nat) : Act :=
  record (qDie mgmtDie) 0x0C02 clsLasting .plain (some k) dpNone mpTfw (detail [(32, 1, k)])

/-- The engine takes the record at IN_CONS: `go` acts on its plaintext where its OP is the command's; a wrong counter or
tag ends the binding (R425). -/
def bounceRecord (k op : Nat) (slot : List Byte) (go : List Byte → Act) : Act := .look fun m =>
  let c := m.chamber k
  if !bound m k || !voloshUp m || decide (c.inProd ≤ c.inCons) || c.exporting.isSome then .nop
  else match openRecord c slot with
    | none => endBinding k 3
    | some pt => onlyIf (decide (bOp pt = op) && outRoom m k) (go pt)

/-- A LOAD record. -/
def execBounceLoad (k : Fin 8) (slot : List Byte) (s : State) : Result :=
  done (bounceRecord k 1 slot fun pt => .look fun m =>
    let c := m.chamber k
    let payload := pt.drop 32
    let n := payload.length
    let place := decide (bAddr pt % 64 = 0) && inChamber m k (bAddr pt) n
    let ok := place && decide (bLen pt = n) && (!bCen pt || counterIn m k (bCnt pt)) && (!bMeasure pt || measureOk c pt n)
    if ok then homeWrite (bAddr pt) payload (some k.val) 0 .good fun st => acts [
      if st = stOk then acts [
        onlyIf (bCen pt) (arrive (bCnt pt) n),
        onlyIf (bMeasure pt) (acts [
          modChamber k (fun c => { c with mslots := putSlot c (measureNext c pt payload) }),
          onlyIf (bFinal pt) (match (measureNext c pt payload).closed with
            | some d => postRecord k bStatus stOk (bReq pt) 0 (leBytes 48 d.toNat)
            | none => .nop)])]
      else acts [
        onlyIf (bMeasure pt) (modChamber k fun c => { c with mslots := dropSlot c (bMslot pt) }),
        postRecord k bStatus st (bReq pt) 0 [],
        bounceRefused k],
      consumeRecord k]
    else acts [
      onlyIf place (homeWrite (bAddr pt) (leBytes n 0) (some k.val) 0 .good fun _ => .nop),
      onlyIf (bMeasure pt) (modChamber k fun c => { c with mslots := dropSlot c (bMslot pt) }),
      postRecord k bStatus stDenied (bReq pt) 0 [],
      bounceRefused k,
      consumeRecord k]) s

/-- A NOP record. -/
def execBounceNop (k : Fin 8) (slot : List Byte) (s : State) : Result :=
  done (bounceRecord k 3 slot fun _ => consumeRecord k) s

/-! ### Egress (R423) -/

/-- The export goes on while the outbound ring has room; its source is read over the home path. -/
def exportStep (k : Nat) : Nat → Ecc → Act
  | 0, _ => .nop
  | fuel + 1, e => .look fun m =>
    match (m.chamber k).exporting with
    | none => .nop
    | some x =>
      if !outRoom m k then .nop
      else if x.len ≤ x.off then acts [
        postRecord k bStatus stOk x.reqId x.off [],
        modChamber k (fun c => { c with exporting := none })]
      else
        let n := min (outLimit m k) (x.len - x.off)
        homeRead (x.addr + x.off) n (some k) 0 e fun st bs =>
          if st = stOk then acts [
            postRecord k bExportData stOk x.reqId x.off bs,
            modChamber k (fun c => { c with exporting := some { x with off := x.off + n } }),
            exportStep k fuel .good]
          else acts [
            postRecord k bStatus st x.reqId x.off [],
            modChamber k (fun c => { c with exporting := none })]

/-- An EXPORT record. -/
def execBounceExport (k : Fin 8) (slot : List Byte) (e : Ecc) (s : State) : Result :=
  done (bounceRecord k 2 slot fun pt => .look fun m =>
    if inChamber m k (bAddr pt) (bLen pt) && decide (bAddr pt % 64 = 0 ∧ bLen pt ≤ 2 ^ 40) then acts [
      modChamber k (fun c => { c with exporting := some ⟨bReq pt, bAddr pt, bLen pt, 0⟩ }),
      consumeRecord k,
      exportStep k 1026 e]
    else acts [
      postRecord k bStatus stDenied (bReq pt) 0 [],
      bounceRefused k,
      consumeRecord k]) s

/-- A watched counter of a bounce region is read (R409, R420, R423): IN_PROD, or OUT_CONS, on which an export may wait. -/
def bounceCounter (k which v : Nat) : Act := .look fun m =>
  if !bound m k then .nop
  else if which = 0 then modChamber k fun c => { c with inProd := v }
  else acts [modChamber k (fun c => { c with outCons := v }), exportStep k 1026 .good]

end Sys2Proof.Machine
end

