-- ==== Sys2Proof/Machine/LinkLayer.lean ====
section
/-! DEFINITION. The link layer of a port (R257–R262, R268, R273–R282, R290, R321): flits received and sent, the link
retry, credits and the output arbiter (08_fabric_protocol.md). -/

namespace Sys2Proof.Machine

/-! ### Failures attributed to lanes (R281, R282) -/

/-- The logical lane that carries bit `b` of a flit; at half width the eight lanes in use take it in turn. -/
def bitLane (m : Mod) (p b : Nat) : Nat :=
  if m.flag (FB_PORT_LINK p) FB_PORT_LINK_HALF then b % 8 + 8 * m.fld (FB_PORT_LINK p) FB_PORT_LINK_UPPER else b % 16

/-- Physical lanes on which a failed flit differs from what its sender sent: the replayed flit without RPL. A flit that
passed its CRC and had another sequence number is not flit N, and differs on no lane. -/
def differing (m : Mod) (p : Nat) (raw good : Flit) : List Nat :=
  if flCrcOk raw then []
  else
    let sent := reseal good (flSeqLo good) false
    let d := (raw.payload ^^^ sent.payload).toNat + (raw.trailer ^^^ sent.trailer).toNat * 2 ^ 512
    (((setBits 544 d).map fun b => m.laneOf false p (bitLane m p b)).dedup).filter fun x => x < 18

/-- A failure is attributed to a receive lane; `repeated` for a flit that failed its first replay. -/
def blame (p x : Nat) (repeated : Bool) : Act := .look fun m =>
  let y := m.port p
  let again := match y.attrib.get? x with
    | some t => decide (m.now.toNat ≤ t + 1000000 * m.fld FB_CFG FB_CFG_SUSPECT_MS)
    | none => false
  let back := match y.returned.get? (2 * x) with
    | some t => decide (m.now.toNat ≤ t + 10000000000)
    | none => false
  acts [
    bumpWrap (FB_PORT_LANE p) FB_PORT_LANE_ATTRIB 1,
    scoreEvent (scLane p false x) 10,
    modPort p (fun y => { y with attrib := y.attrib.put x m.now.toNat }),
    if back then retireLane p false x else if again ∨ repeated then suspectLane p false x else .nop]

/-- The class and counts of a failed flit whose replay has passed (R281). -/
def replayPassed (p : Nat) (f : Flit) : Act := .look fun m =>
  let x := m.port p
  match x.raw with
  | none => .nop
  | some raw =>
    let lanes := differing m p raw f
    let repeated := decide (0 < x.fails ∧ lanes ≠ [])
    acts [
      bumpSat (FB_PORT_RETRY p) (if repeated then FB_PORT_RETRY_REPEAT else FB_PORT_RETRY_TRANSIENT) 1,
      portRecord p 0x0701 (if repeated then clsLasting else clsTransient) .plain
        [(32, 1, p), (36, 4, maskOf lanes)],
      forEach lanes fun l => blame p l repeated]

/-! ### Packets received (R262, R263, R266, R268, R272) -/

/-- Cells of a packet's flits are freed. -/
def freeCells (p j n : Nat) : Act := forEach (List.range n) fun _ => freeCell p j

def setAsm (p j : Nat) (x : Option Partial) : Act := modPort p fun y => { y with asm := match x with
  | some v => y.asm.put j v
  | none => y.asm.del j }

/-- Flits of the packet received so far. -/
def flitsSoFar (x : Partial) : Nat := 1 + (x.data.length - 32) / 64

/-- A packet for this module is whole: it waits at the I/O die of its port. -/
def deliver (p j : Nat) (x : Partial) : Act := acts [
  modIoDie (p / 8) (fun d => { d with inbox := d.inbox ++ [⟨x.hdr, x.data.take x.hdr.len.toNat⟩] }),
  setAsm p j none,
  freeCells p j (flitsSoFar x)]

/-- A flit goes on to an output port. -/
def passOn (p j : Nat) (f : Flit) (h : Header) (payload q vc : Nat) : Act :=
  enqueue q ⟨mkFlit payload 0 (flKind f) (flLast f) h.net vc false, pidOf p j, ringSource (p / 8) q (p % 8), some (p, j),
    h.stamp, h.chamber⟩

/-- The packet that was being received on a (port, VC) is not followed by its end. -/
def breakPacket (p j : Nat) : Act := .look fun m =>
  match (m.port p).asm.get? j with
  | none => .nop
  | some x => acts [cutPacket p j x, setAsm p j none,
      (match x.goes with
       | .here => freeCells p j (flitsSoFar x)
       | _ => .nop)]

/-- STATUS_ONLY with UNAVAILABLE for a request that no candidate can carry (R272). -/
def noRoute (i : Nat) (h : Header) : Act := onlyIf (!h.net) (sendReply i h 0x4F stUnavailable [])

/-- A head flit is checked and routed (R263, R268, R269). -/
def headFlit (p j : Nat) (f : Flit) : Act := .look fun m =>
  let h := hdrOf f.payload
  let bytes := (leBytes 64 f.payload.toNat).drop 32
  let start : RouteTo → Act := fun g => setAsm p j (if flLast f then none else some ⟨h, bytes, g⟩)
  acts [
    breakPacket p j,
    if !headerOk h (flNet f) (flVc f) then acts [
      portRecord p 0x0707 clsLasting .plain [(32, 1, p), (36, 4, h.tag.toNat)], start .dropped, freeCell p j]
    else if flVc f = 3 then
      if h.dst.toNat = m.selfId ∨ h.dst.toNat = 0x3FFF then
        (if flLast f then deliver p j ⟨h, bytes, .here⟩ else start .here)
      else acts [portRecord p 0x0707 clsTransient .plain [(32, 1, p), (36, 4, h.tag.toNat)], start .dropped,
        freeCell p j]
    else if h.dst.toNat = m.selfId then (if flLast f then deliver p j ⟨h, bytes, .here⟩ else start .here)
    else route (p / 8) h fun c => match c with
      | none => acts [noRoute (p / 8) h, start .dropped, freeCell p j]
      | some c =>
        let h' := hdrHop h c
        acts [start (.out c.port c.vc),
          passOn p j f h' (hdrNat h' + leNat bytes * 2 ^ 256) c.port c.vc]]

/-- A body or abort flit follows its head. -/
def laterFlit (p j : Nat) (f : Flit) : Act := .look fun m =>
  match (m.port p).asm.get? j with
  | none => freeCell p j
  | some x =>
    let next : Partial := { x with data := x.data ++ leBytes 64 f.payload.toNat }
    match x.goes with
    | .here =>
      if flKind f = 3 then acts [setAsm p j none, freeCells p j (flitsSoFar x + 1)]
      else if flLast f then deliver p j next
      else setAsm p j (some next)
    | .out q vc => acts [
        passOn p j f x.hdr (if flKind f = 3 then 0 else f.payload.toNat) q vc,
        onlyIf (flLast f) (setAsm p j none)]
    | .dropped => acts [onlyIf (flLast f) (setAsm p j none), freeCell p j]

/-- A data flit is accepted in order (R279). -/
def acceptFlit (p : Nat) (f : Flit) : Act := acts [
  modPort p (fun x => { x with expect := (x.expect + 1) % 2 ^ 24, dropping := false, raw := none, fails := 0 }),
  takeCell p (flJ f),
  topUpJ p (flJ f),
  if flKind f = 1 then headFlit p (flJ f) f else laterFlit p (flJ f) f]

/-- A data flit, or one whose kind its failed CRC hides, reaches a port (R279, R290). -/
def dataFlit (p : Nat) (f : Flit) : Act := .look fun m =>
  let x := m.port p
  let inOrder := flCrcOk f && decide (flSeqLo f = x.expect % 256)
  if !m.portOpen p then .nop
  else if !x.ctlHeard then onlyIf (flCrcOk f) (bumpSat (FB_PORT_RETRY p) FB_PORT_RETRY_STALE 1)
  else if x.dropping then
    onlyIf (inOrder && flRpl f) (acts [replayPassed p f, acceptFlit p f])
  else if inOrder then acceptFlit p f
  else acts [
    modPort p (fun x => { x with dropping := true, raw := some f, fails := 0 }),
    .look fun m => emit (.flit p (controlFlit m p true))]

/-! ### Control flits (R259, R275, R278, R280) -/

def cfAck (f : Flit) : Nat := bitsOf f.payload 0 24
def cfNak (f : Flit) : Bool := bitOf f.payload 24
def cfEpoch (f : Flit) : Nat := bitsOf f.payload 32 16
def cfNext (f : Flit) : Nat := bitsOf f.payload 224 24
def cfCred (f : Flit) (j : Nat) : Nat := bitsOf f.payload (64 + 20 * j) 20

/-- True where a cumulative acknowledgement covers a sequence number. -/
def covers (ack seq : Nat) : Bool := decide ((ack + 2 ^ 24 - seq) % 2 ^ 24 < 2 ^ 23)

/-- Every held flit is sent again, the first with RPL (R280). -/
def replay (p : Nat) : Act := .look fun m =>
  forEach (m.port p).retryBuf.zipIdx fun h => emit (.flit p (reseal h.1.flit h.1.seq (decide (h.2 = 0))))

/-- What a control flit of the neighbour's present epoch says. -/
def applyControl (p : Nat) (f : Flit) : Act := .look fun m =>
  let held := (m.port p).retryBuf
  let kept := held.filter fun h => !covers (cfAck f) h.seq
  acts [
    modPort p (fun x => { x with
      retryBuf := kept
      granted := (List.range 8).foldl (fun g j => g.put j (cfCred f j)) x.granted }),
    modPool (retryPool p) (fun q => { q with returned := q.returned + (held.length - kept.length) }),
    onlyIf (cfNak f) (replay p)]

/-- A control flit of an epoch that has just opened: nothing received, nothing sent (R290). -/
def cfAfresh (f : Flit) : Bool := decide (cfAck f = 2 ^ 24 - 1 ∧ cfNext f = 0)

/-- A control flit that passed its CRC (R259, R290). The neighbour's new epoch is one with another number than the last one
heard, or one that starts afresh, as after the neighbour's own reset (DESIGN CHOICE, log 93). -/
def controlIn (p : Nat) (f : Flit) : Act := .look fun m =>
  let x := m.port p
  let e := BitVec.ofNat 16 (cfEpoch f)
  if !m.portOpen p then .nop
  else if x.ctlHeard then
    if x.peerEpoch = some e then applyControl p f else bumpSat (FB_PORT_RETRY p) FB_PORT_RETRY_STALE 1
  else if x.peerEpoch = some e ∧ !cfAfresh f then bumpSat (FB_PORT_RETRY p) FB_PORT_RETRY_STALE 1
  else acts [modPort p (fun x => { x with peerEpoch := some e, ctlHeard := true }), applyControl p f]

/-- A flit whose CRC passes is what its KIND says. -/
def goodFlit (p : Nat) (f : Flit) : Act := if flKind f = 0 then controlIn p f else dataFlit p f

def execDataFlit (p : Fin 64) (f : Flit) (s : State) : Result :=
  done (if flCrcOk f then goodFlit p f else dataFlit p f) s

def execControlFlit (p : Fin 64) (f : Flit) (s : State) : Result :=
  done (onlyIf (flCrcOk f) (goodFlit p f)) s

/-- Sends a control flit (R260). -/
def sendControl (p : Nat) : Act := .look fun m => emit (.flit p (controlFlit m p false))

def execControlFlitSend (p : Fin 64) (s : State) : Result :=
  done (.look fun m => onlyIf (m.portOpen p) (sendControl p)) s

/-- No valid replay has arrived (R279): after four failed replays the port is reset (R281). -/
def execNakRepeat (p : Fin 64) (s : State) : Result := done (.look fun m =>
  let x := m.port p
  if !x.dropping ∨ !m.portOpen p then .nop
  else if 4 ≤ x.fails + 1 then acts [bumpSat (FB_PORT_RETRY p) FB_PORT_RETRY_RESETS 1, portReset p 0]
  else acts [
    onlyIf (decide (x.fails = 0)) (portRecord p 0x0701 clsPending .plain [(32, 1, p)]),
    modPort p (fun x => { x with fails := x.fails + 1 }),
    emit (.flit p (controlFlit m p true))]) s

/-! ### Links lost (R261, R491) -/

/-- No good flit for 3,000 ns: the epoch closes and the port trains anew (R261); one whose neighbour had withdrawn is
held absent (R294). -/
def execLinkLoss (p : Fin 64) (s : State) : Result :=
  done (.look fun m => onlyIf (m.portOpen p) (acts [
    onlyIf (decide (m.linkState p = lkWithdrawing)) (modPort p fun x => { x with absent := true }),
    closeEpoch p lkTraining clsLasting])) s

/-- The die that the loss of an on-package link isolates: the peer of R502, or the I/O die of higher index on a ring
link; the compute die on a link of a compute and a memory-side die. -/
def linkVictim (n : Nat) : Nat :=
  if n < 32 then n / 4
  else if 48 ≤ n ∧ n < 56 then max (linkEnds n).1 (linkEnds n).2
  else (linkEnds n).2

def execOnpkgLinkLoss (n : Fin 57) (s : State) : Result := done (.look fun m =>
  let st := m.fld (DD_LINK n) DD_LINK_STATE
  onlyIf (decide (st = dlRunning ∨ (st = dlLoop ∧ m.dieRuns (linkEnds n).1 ∧ m.dieRuns (linkEnds n).2)))
    (isolate (linkVictim n) 5)) s

/-! ### The port output arbiter (R268, R36, R321) -/

/-- The share of a chamber tag on a port, in 1/64 of its slots; none where it is not listed (R321, R469). -/
def floorShare (m : Mod) (p : Nat) (tag : BitVec 16) : Option Nat :=
  ((List.range 16).filterMap fun n => m.trust.image.floors.get? (16 * p + n)).findSome? fun v =>
    if bitsOf v 0 16 = tag.toNat ∧ 0 < bitsOf v 16 7 then some (bitsOf v 16 7) else none

def floorKey (p : Nat) (tag : BitVec 16) : Nat := 65536 * p + tag.toNat

/-- Every meter of a port accrues for a flit slot, in 1/64 (R321). -/
def accrue (p : Nat) : Act := .look fun m =>
  forEach ((List.range 16).filterMap fun n => m.trust.image.floors.get? (16 * p + n)) fun v =>
    onlyIf (decide (0 < bitsOf v 16 7)) (modFabric fun f => { f with
      floor := f.floor.put (floorKey p (BitVec.ofNat 16 (bitsOf v 0 16)))
        (min (f.floor.getD (floorKey p (BitVec.ofNat 16 (bitsOf v 0 16))) 0 + bitsOf v 16 7) (64 * 64)) })

/-- A flit has floor priority. -/
def floorFirst (m : Mod) (p : Nat) (x : OutFlit) : Bool :=
  decide (flVc x.flit ≠ 3 ∧ 64 ≤ m.fabric.floor.getD (floorKey p x.chamber) 0) && (floorShare m p x.chamber).isSome

/-- The next flit of each packet stream at an output: the first of its (requester stream, VC). -/
def headsOf : List OutFlit → List (Nat × Nat) → List OutFlit
  | [], _ => []
  | x :: l, seen =>
    if seen.contains (x.pid, flJ x.flit) then headsOf l seen
    else x :: headsOf l ((x.pid, flJ x.flit) :: seen)

/-- Flits that may be sent now: their VC is theirs or free, and holds a credit. -/
def candidates (m : Mod) (p : Nat) : List OutFlit :=
  let x := m.port p
  (headsOf x.outq []).filter fun f =>
    let j := flJ f.flit
    decide (0 < x.credit j) && (m.portUp p || decide (m.linkState p = lkWithdrawing) || decide (j % 4 = 3)) &&
      (match x.owner.get? j with
       | none => true
       | some q => decide (q = f.pid))

/-- One truncated stamp is earlier than another: their signed 24-bit difference is negative (R34). -/
def stampBefore (a b : BitVec 24) : Bool := decide (2 ^ 23 ≤ (a - b).toNat)

/-- The earliest stamp of a list of flits. -/
def firstStamp (l : List OutFlit) : Option (BitVec 24) :=
  l.foldl (fun a x => some (match a with
    | none => x.stamp
    | some s => if stampBefore x.stamp s then x.stamp else s)) none

/-- The flit a slot is granted to: floor class first, then the earliest stamp (R34), ties by
requester (R32). -/
def granted (m : Mod) (p : Nat) : Option OutFlit :=
  let cs := candidates m p
  let fl := cs.filter (floorFirst m p)
  let cls := if fl.isEmpty then cs else fl
  let best := cls.filter fun c => some c.stamp = firstStamp cls
  match firstFrom (m.port p).ptr ((List.range 13).filter fun i => best.any fun c => c.src = i) with
  | none => none
  | some i => best.find? fun c => c.src = i

/-- Takes the first occurrence of a flit out of a queue. -/
def eraseFlit (x : OutFlit) : List OutFlit → List OutFlit
  | [] => []
  | y :: l => if y = x then l else y :: eraseFlit x l

/-- A flit leaves the port: numbered, held for replay, and its cell freed. -/
def sendFlit (p : Nat) (x : OutFlit) : Act := .look fun m =>
  let y := m.port p
  let j := flJ x.flit
  let f := reseal x.flit y.txSeq false
  acts [
    modPort p (fun y => { y with
      outq := eraseFlit x y.outq
      retryBuf := y.retryBuf ++ [⟨y.txSeq, f⟩]
      txSeq := (y.txSeq + 1) % 2 ^ 24
      spent := y.spent.put j (y.spent.getD j 0 + 1)
      owner := if flLast x.flit then y.owner.del j else y.owner.put j x.pid
      ptr := (x.src + 1) % 13 }),
    modPool (retryPool p) (fun q => { q with issued := q.issued + 1 }),
    onlyIf (floorFirst m p x) (modFabric fun g => { g with
      floor := g.floor.put (floorKey p x.chamber) (g.floor.getD (floorKey p x.chamber) 0 - 64) }),
    emit (.flit p f),
    freeOpt x.cell]

/-- A flit slot: a waiting flit that may be sent, else a control flit; only control flits while the retry buffer is
full (R260, R278). -/
def execFlitSlotGrant (p : Fin 64) (s : State) : Result := done (.look fun m =>
  if !m.portOpen p then .nop
  else acts [
    pumpIo (p / 8),
    accrue p,
    .look fun m =>
      if 16 * m.fld (FB_PORT_ALLOT p) FB_PORT_ALLOT_RETRY_KIB ≤ (m.port p).retryBuf.length then sendControl p
      else match granted m p with
        | none => sendControl p
        | some x => sendFlit p x]) s

end Sys2Proof.Machine
end

