-- ==== Sys2Proof/Machine/Discovery.lean ====
section
/-! DEFINITION. Links coming up, discovery, absent ports, notices, hall time, straps and withdrawal
(09_galleries_chambers_and_discovery.md, R290, R294). -/

namespace Sys2Proof.Machine

/-! ### Messages on VC3 -/

/-- Takes the first waiting packet with an operation and a tag out of a list. -/
def eraseMsg (op : Nat) (tag : BitVec 32) : List Packet → List Packet
  | [] => []
  | x :: l => if x.hdr.op.toNat = op ∧ x.hdr.tag = tag then l else x :: eraseMsg op tag l

def takeMsg (p op : Nat) (tag : BitVec 32) : Act := modIoDie (p / 8) fun d => { d with inbox := eraseMsg op tag d.inbox }

/-- Takes the first waiting reply of an operation. -/
def takeReplyMsg (p op : Nat) : Act := .look fun m =>
  match (m.iodie (p / 8)).inbox.find? fun x => x.hdr.op.toNat = op with
  | some x => takeMsg p op x.hdr.tag
  | none => .nop

/-- A record of the management die about a port's position: port, code of it, module id, and the first bytes of the
peer's certificate digest. -/
def positionRecord (p code cls v id : Nat) (digest : BitVec 384) : Act := .look fun m =>
  record (qDie mgmtDie) code cls .plain none (dpPort m p) mpTfw
    (detail [(32, 1, p), (33, 1, v), (34, 2, id), (40, 24, digest.toNat)])

/-! ### Hall time (R323–R326) -/

def isUp (m : Mod) (p : Nat) : Bool := m.portUp p && decide (m.planKind p = 1 ∨ m.planKind p = 2 ∨ m.planKind p = 3)

/-- True for the hall time source, or its backup where the source is unreachable (R323). -/
def isSource (m : Mod) : Bool :=
  decide (m.trust.image.timeSrc.toNat = m.selfId) ||
  (decide (m.trust.image.timeBackup.toNat = m.selfId) && !reachable m m.trust.image.timeSrc.toNat)

/-- The upstream port: the locked, admitted neighbour of smallest distance, then of lowest id, then the lowest port. -/
def upstream (m : Mod) : Option Nat :=
  ((List.range 64).filter fun p => isUp m p && (m.port p).peerLocked).foldl (fun a p => match a with
    | none => some p
    | some q =>
      let k : Nat → Nat := fun r => (m.port r).peerDist * 2 ^ 14 + ((m.port r).peer.map BitVec.toNat).getD 0
      if k p < k q then some p else some q) none

/-- The lock state of the module changes, with its record. -/
def setLocked (on : Bool) : Act := .look fun m =>
  if m.flag TM_STATUS TM_STATUS_LOCKED = on then .nop
  else acts [
    setF TM_STATUS TM_STATUS_LOCKED (b01 on),
    modFabric (fun f => { f with wasLocked := f.wasLocked || on, goodExchanges := if on then f.goodExchanges else 0 }),
    record (qDie mgmtDie) 0x0904 (if on then clsTransient else clsLasting) .plain none dpNone mpTfw
      (detail [(32, 1, b01 on)])]

/-- Refreshes the source, the upstream and the distance of the module (R323, R326). -/
def updateTime : Act := .look fun m =>
  if isSource m then acts [
    setF TM_STATUS TM_STATUS_SOURCE 1, setF TM_STATUS TM_STATUS_DIST 0, setF TM_STATUS TM_STATUS_UP_VALID 0,
    setF TM_STATUS TM_STATUS_ON_BACKUP (b01 (decide (m.trust.image.timeSrc.toNat ≠ m.selfId))),
    modFabric (fun f => { f with sourceId := BitVec.ofNat 14 m.selfId }),
    setLocked true]
  else match upstream m with
    | some p => acts [
        setF TM_STATUS TM_STATUS_SOURCE 0, setF TM_STATUS TM_STATUS_UP_PORT p, setF TM_STATUS TM_STATUS_UP_VALID 1,
        setF TM_STATUS TM_STATUS_DIST (min 255 ((m.port p).peerDist + 1))]
    | none => acts [
        setF TM_STATUS TM_STATUS_SOURCE 0, setF TM_STATUS TM_STATUS_UP_VALID 0, setF TM_STATUS TM_STATUS_DIST 255,
        modFabric (fun f => { f with slew := 0 }),
        setLocked false]

/-- Every 1 ms the module exchanges stamps with its upstream (R324). -/
def execTimeExchangeTimer (s : State) : Result := done (acts [updateTime, .look fun m =>
  onlyIf (m.flag TM_STATUS TM_STATUS_UP_VALID) (requestVc3 (m.fld TM_STATUS TM_STATUS_UP_PORT) 0x81 0
    (leBytes 8 m.now.toNat))]) s

/-- A TIME_EXCHANGE is answered with its stamps and what the module follows (R324). -/
def execTimeExchange (p : Fin 64) (t1 : Word) (t2 : Word) (tag : BitVec 32) (s : State) : Result :=
  done (.look fun m => onlyIf (m.portOpen p) (acts [
    takeMsg p 0x81 tag,
    sendVc3 p 0xC1 (((m.port p).peer.map BitVec.toNat).getD 0x3FFF) tag 0 0
      (leBytes 8 t1.toNat ++ leBytes 8 t2.toNat ++ leBytes 8 m.now.toNat ++
        leBytes 8 (timeDist m + m.fabric.sourceId.toNat * 2 ^ 8 + m.fld TM_STATUS TM_STATUS_LOCKED * 2 ^ 22))])) s

/-- Offset and delay of an exchange (R324). -/
def exchange (t1 t2 t3 t4 : Word) (asym : Int) : Int × Int :=
  let a : Int := (t2.toNat : Int) - t1.toNat
  let b : Int := (t4.toNat : Int) - t3.toNat
  ((a - b) / 2 + asym, (a + b) / 2)

/-- The module follows its upstream by an offset (R325): it steps once before it has opened a port to data, else it
slews; three good exchanges lock it. -/
def follow (off : Int) : Act := .look fun m =>
  let good := decide (-5 ≤ off ∧ off ≤ 5)
  acts [
    (if !m.fabric.opened ∧ !m.fabric.stepped then acts [
        .upd (.now (BitVec.ofNat 64 ((m.now.toNat : Int) + off).toNat)),
        modFabric (fun f => { f with stepped := true, slew := 0 })]
      else modFabric fun f => { f with slew := off }),
    modFabric (fun f => { f with goodExchanges := if good then f.goodExchanges + 1 else 0 }),
    .look fun m => onlyIf (decide (3 ≤ m.fabric.goodExchanges)) (setLocked true),
    onlyIf (m.flag TM_STATUS TM_STATUS_LOCKED && decide (off < -10000 ∨ 10000 < off))
      (record (qDie mgmtDie) 0x0904 clsTransient .plain none dpNone mpTfw (detail [(32, 1, 2), (40, 8, ofSigned 64 off)]))]

def execTimeExchangeReply (p : Fin 64) (t1 : Word) (t2 : Word) (t3 : Word) (t4 : Word) (dist : BitVec 8)
    (source : BitVec 14) (locked : Bool) (s : State) : Result := done (.look fun m =>
  let r := exchange t1 t2 t3 t4 (toSigned 16 (m.fld (TM_ASYM p) ⟨0, 16⟩))
  if !m.portOpen p then .nop
  else acts [
    takeReplyMsg p 0xC1,
    modPort p (fun x => { x with peerDist := dist.toNat, peerLocked := locked }),
    onlyIf (m.flag TM_STATUS TM_STATUS_UP_VALID && decide (m.fld TM_STATUS TM_STATUS_UP_PORT = p.val) && !isSource m) (acts [
      setF TM_EXCHANGE TM_EXCHANGE_OFFSET (ofSigned 32 r.1),
      setF TM_EXCHANGE TM_EXCHANGE_DELAY (ofSigned 32 r.2),
      modFabric (fun f => { f with sourceId := source }),
      setF TM_STATUS TM_STATUS_ON_BACKUP (b01 (decide (source = m.trust.image.timeBackup ∧
        source ≠ m.trust.image.timeSrc))),
      follow r.1]),
    updateTime]) s

/-- A PPS edge disciplines the source: its counter is to pass a multiple of 10⁹ at the edge (R326). -/
def ppsEdge (stamp : Word) : Act := .look fun m =>
  let r := stamp.toNat % 1000000000
  onlyIf (m.flag TM_CFG TM_CFG_PPS_EN) (acts [
    setF TM_STATUS TM_STATUS_PPS_OK 1,
    modFabric (fun f => { f with freeRun := false }),
    onlyIf (isSource m) (modFabric fun f => { f with
      slew := if r < 500000000 then -(r : Int) else ((1000000000 - r : Nat) : Int) })])

def execPpsEdge (stamp : Word) (s : State) : Result := done (acceptRise 2 (ppsEdge stamp)) s

/-- No PPS edge for 3 s: the source runs freely (R326). -/
def execPpsLoss (s : State) : Result := done (.look fun m =>
  onlyIf (m.flag TM_CFG TM_CFG_PPS_EN && !m.fabric.freeRun) (acts [
    setF TM_STATUS TM_STATUS_PPS_OK 0,
    modFabric (fun f => { f with freeRun := true, slew := if isSource m then 0 else f.slew }),
    onlyIf (isSource m) (record (qDie mgmtDie) 0x0D05 clsLasting .plain none dpNone mpTfw 0)])) s

/-! ### Discovery (R304–R312) -/

/-- A port on which discovery runs. -/
def discKind (k : Nat) : Bool := decide (k = 1 ∨ k = 2 ∨ k = 3 ∨ k = 5 ∨ k = 6)

/-- The first 64 B of a DISCOVER packet's data (R306). -/
def discHead (m : Mod) (p stage verdict : Nat) (locked : Bool) (nonce : Nat) (chain : Nat) : List Byte :=
  leBytes 8 (m.selfId + p % 64 * 2 ^ 14 + m.planKind p * 2 ^ 20 + stage * 2 ^ 24 + b01 locked * 2 ^ 26 +
    m.fld (FB_PORT_LINK p) FB_PORT_LINK_EPOCH * 2 ^ 32 + verdict * 2 ^ 48) ++ leBytes 48 nonce ++ leBytes 8 chain

/-- Bytes of the DER object at the head of a byte string, tag and length octets included; 0 where none stands there
(log 18). -/
def derLen (bs : List Byte) : Nat :=
  let b : Nat → Nat := fun i => (bs.getD i 0).toNat
  if b 0 ≠ 0x30 then 0
  else if b 1 < 0x80 then 2 + b 1
  else if b 1 = 0x81 then 3 + b 2
  else if b 1 = 0x82 then 4 + 256 * b 2 + b 3
  else 0

/-- The DER objects that stand at the head of a byte string one after another, at most `fuel` of them. -/
def derObjects : Nat → List Byte → List (List Byte)
  | 0, _ => []
  | fuel + 1, bs => let n := derLen bs
    if n = 0 then [] else bs.take n :: derObjects fuel (bs.drop n)

/-- The digests of a chain's certificates, the device certificate's first (R306, R308, R310). -/
def certDigests (chain : List Byte) : List (BitVec 384) := (derObjects 32 chain).map Config.sha384

/-- The enrolment chain that the commissioning store's part 1 holds (R473). -/
def enrolment (m : Mod) : List Byte := (derObjects 32 (m.trust.commParts.getD 1 [])).flatten

/-- The stage 1 data of a port, as its nonce and lock state stood when it was sent: the chain is that of the device, then
that of the enrolment (R305, R306). -/
def stage1Data (m : Mod) (p : Nat) : List Byte :=
  let chain := (Config.deviceChainAt 0 ++ enrolment m).take 4032
  discHead m p 1 0 (m.port p).sentLocked (m.port p).nonce.toNat chain.length ++ chain

/-- Stage 1 with a fresh nonce (R305). -/
def startDiscovery (p : Nat) : Act := .look fun m =>
  let n := Config.nonce m.freeCount
  acts [
    .upd .free,
    modPort p (fun x => { x with
      stage := 1, peerStage := 0, peer := none, verdictOut := 0, verdictIn := none, nonce := n
      sentLocked := m.flag TM_STATUS TM_STATUS_LOCKED }),
    .look fun m => requestVc3 p 0x80 0 (stage1Data m p)]

/-- Stage 2: the proof over both stage 1 data and the epoch. -/
def sendProof (p : Nat) (peer : List Byte) : Act := .look fun m =>
  let sig := Config.sign (Config.sha384 (peer ++ stage1Data m p ++
    leBytes 2 (m.fld (FB_PORT_LINK p) FB_PORT_LINK_EPOCH)))
  acts [
    modPort p (fun x => { x with stage := max x.stage 2 }),
    requestVc3 p 0x80 0 (discHead m p 2 0 (m.port p).sentLocked 0 0 ++ leBytes 96 sig.toNat)]

/-- The module ids that a plan entry lets join (R302). -/
def admitRange (w : Word) (id : Nat) : Bool :=
  decide (bitsOf w 18 9 ≤ galleryOf id ∧ galleryOf id ≤ bitsOf w 27 9 ∧ bitsOf w 36 5 ≤ slotOf id ∧
    slotOf id ≤ bitsOf w 41 5)

/-- The identities that a plan entry admits (R302). -/
def admitsId (m : Mod) (p id : Nat) : Bool :=
  let w := m.plan p
  let own := decide (galleryOf id = galleryOf m.selfId)
  match m.planKind p with
  | 1 => decide (bitsOf w 4 14 = id) || (bitOf w 46 && admitRange w id && own)
  | 2 => admitRange w id && own
  | 3 => admitRange w id && !own
  | 5 => admitRange w id && decide (289 ≤ galleryOf id ∧ galleryOf id ≤ 510)
  | 6 => true
  | _ => false

/-- True where the peer's planned kind goes with the port's own (R308). -/
def roleOk (m : Mod) (p kind id : Nat) : Bool :=
  match m.planKind p with
  | 1 => decide ((kind = 1 ∨ kind = 2) ∧ galleryOf id = galleryOf m.selfId)
  | 2 => decide ((kind = 1 ∨ kind = 2) ∧ galleryOf id = galleryOf m.selfId)
  | 3 => decide (kind = 3)
  | 5 => decide (289 ≤ galleryOf id ∧ galleryOf id ≤ 510)
  | _ => true

/-- What the ports of one peer pair have in common in the plan: the named peer, else the whole entry. -/
def pairKey (m : Mod) (p : Nat) : Nat :=
  if m.planKind p = 1 then bitsOf (m.plan p) 4 14 else 2 ^ 14 + (m.plan p).toNat

/-- The peer pair of a port: the ports planned alike pair up in ascending order (DESIGN CHOICE, log 96). -/
def peerPair (m : Mod) (p : Nat) : Nat × Nat :=
  (pairKey m p, ((List.range p).filter fun q => pairKey m q = pairKey m p).length / 2)

/-- The module id is admitted elsewhere (R308): on a port of another peer pair, or under another device certificate. -/
def duplicate (m : Mod) (p id : Nat) (cert : BitVec 384) : Bool :=
  (List.range 64).any fun q => decide (q ≠ p) && m.portUp q && decide ((m.port q).peer = some (BitVec.ofNat 14 id)) &&
    (decide (peerPair m q ≠ peerPair m p) || decide ((m.port q).peerCert ≠ cert))

/-- The verdict of R308; `cert` is the peer's device certificate. -/
def verdict (m : Mod) (p : Nat) (authOk : Bool) (id kind : Nat) (cert : BitVec 384) : Nat :=
  if !authOk then 1
  else if duplicate m p id cert then 2
  else if !admitsId m p id then 3
  else if !roleOk m p kind id then 4
  else 0

/-- A neighbour is admitted: the port carries data (R304, R305, R313, R314). -/
def allow (p id : Nat) : Act := .look fun m => acts [
  setLink p lkUp,
  onlyIf (decide (m.planKind p ≠ 6)) (modFabric fun f => { f with
    opened := true
    serials := if (List.range 64).any fun q => m.portUp q && decide ((m.port q).peer = some (BitVec.ofNat 14 id))
      then f.serials else f.serials.del id }),
  onlyIf (m.port p).absent (acts [
    modPort p (fun x => { x with absent := false }),
    positionRecord p 0x0902 clsTransient 0 id (m.port p).peerCert]),
  topUp p,
  rebuildRoutes true,
  updateTime]

/-- Both verdicts are known (R305, R310). -/
def conclude (p : Nat) : Act := .look fun m =>
  let x := m.port p
  match x.verdictIn, x.peer with
  | some v, some id =>
    if x.stage < 3 then .nop
    else if v = 0 ∧ x.verdictOut = 0 then allow p id.toNat
    else positionRecord p 0x0901 clsLasting (if x.verdictOut ≠ 0 then x.verdictOut else v) id.toNat x.peerCert
  | _, _ => .nop

/-- Stage 3: the decision on the peer. -/
def sendVerdict (p v : Nat) : Act := .look fun m => acts [
  modPort p (fun x => { x with stage := 3, verdictOut := v }),
  requestVc3 p 0x80 0 (discHead m p 3 v (m.port p).sentLocked 0 0),
  conclude p]

/-- The data of a DISCOVER packet of stage 1, from its fields. -/
def msgStage1 (msg : DiscoverMsg) : List Byte :=
  leBytes 8 (msg.moduleId.toNat + msg.port.toNat * 2 ^ 14 + msg.kind.toNat * 2 ^ 20 + msg.stage.toNat * 2 ^ 24 +
    b01 msg.timeLocked * 2 ^ 26 + msg.epoch.toNat * 2 ^ 32 + msg.verdict.toNat * 2 ^ 48) ++
  msg.nonce.take 48 ++ leBytes 8 msg.chain.length ++ msg.chain

/-- A DISCOVER packet (R305–R310): answered, and acted on while its port is quarantined. A certificate of the deny list fails
verification (R308). -/
def execDiscover (p : Fin 64) (msg : DiscoverMsg) (certOk : Bool) (sigOk : Bool) (s : State) : Result :=
  done (.look fun m =>
  let x := m.port p
  let id := msg.moduleId.toNat
  let certs := certDigests msg.chain
  if !m.portOpen p then .nop
  else acts [
    takeMsg p 0x80 msg.tag,
    sendVc3 p 0xC0 id msg.tag 0 msg.stage.toNat [],
    if m.linkState p ≠ lkQuarantined ∨ !discKind (m.planKind p) ∨ x.stage = 0 then .nop
    else if msg.stage = 1 then acts [
      modPort p (fun x => { x with
        peer := some msg.moduleId
        peerKind := msg.kind.toNat
        peerNonce := msg.nonce
        peerCert := certs.headD 0
        peerStage := 1
        peerLocked := msg.timeLocked
        verdictOut := if certOk ∧ !certs.any m.trust.image.deny.contains ∧ msg.nonce.take 48 ≠ leBytes 48 x.nonce.toNat then 0 else 1
        verdictIn := none }),
      sendProof p (msgStage1 msg)]
    else if msg.stage = 2 then
      onlyIf (decide (x.peerStage = 1)) (acts [
        modPort p (fun x => { x with peerStage := 2 }),
        sendVerdict p (verdict m p (sigOk && decide (x.verdictOut = 0)) id x.peerKind x.peerCert)])
    else if msg.stage = 3 then
      onlyIf (decide (x.peerStage = 2)) (acts [
        modPort p (fun x => { x with peerStage := 3, verdictIn := some msg.verdict.toNat }),
        conclude p])
    else .nop]) s

/-- A DISCOVER reply: nothing waits on it, the exchange goes on by the packets of the peer. -/
def execDiscoverReply (p : Fin 64) (stage : BitVec 2) (s : State) : Result :=
  done (onlyIf (decide (stage ≠ 0)) (takeReplyMsg p 0xC0)) s

/-- True where discovery of a port has not completed in its epoch. -/
def undecided (m : Mod) (p : Nat) : Bool :=
  decide (m.linkState p = lkQuarantined) && discKind (m.planKind p) &&
    ((m.port p).verdictIn.isNone || decide ((m.port p).stage < 3))

/-- 50 ms without stage 3 (R309). -/
def execDiscoveryTimeout (p : Fin 64) (s : State) : Result := done (.look fun m =>
  let x := m.port p
  if !undecided m p ∨ 3 ≤ x.attempts then .nop
  else acts [
    modPort p (fun x => { x with attempts := x.attempts + 1 }),
    if x.attempts + 1 < 3 then startDiscovery p
    else acts [
      modPort p (fun x => { x with verdictOut := 1, stage := 0 }),
      positionRecord p 0x0901 clsLasting 1 ((x.peer.map BitVec.toNat).getD 0x3FFF) x.peerCert]]) s

/-- A port that failed three attempts tries again (R309). -/
def execDiscoveryRetryTimer (p : Fin 64) (s : State) : Result := done (.look fun m =>
  onlyIf (undecided m p && decide (3 ≤ (m.port p).attempts)) (acts [
    modPort p (fun x => { x with attempts := 0 }), startDiscovery p])) s

/-! ### Link-up (R290, R366) -/

/-- Gallery, passage, storage and maintenance ports stay down (R299, R300). -/
def fabricHeld (m : Mod) : Bool :=
  decide (2 ≤ m.fld MOD_POSITION MOD_POSITION_BOOT_MODE) || !m.flag MOD_POSITION MOD_POSITION_STRAPS_VALID ||
  decide (289 ≤ galleryOf m.selfId ∨ 24 ≤ slotOf m.selfId) ||
  decide (m.trust.image.self ≠ 0x3FFF ∧ m.trust.image.self.toNat ≠ m.selfId)

/-- True where a port may come up. -/
def mayRise (m : Mod) (p : Nat) : Bool :=
  m.dieRuns (ioDie (p / 8)) && decide (m.linkState p = lkDown ∨ m.linkState p = lkTraining) && !m.trust.testEn &&
  decide (m.fld (LS_FEED_STAT (activeFeed m (p / 8))) LS_FEED_STAT_STATE = 3) &&
  (decide (m.planKind p = 4) || (discKind (m.planKind p) && !fabricHeld m && !m.fabric.withdrawing && !m.fabric.withdrawn))

/-- The HELLO of the module, version 1 (R401): it states the window, the tags of each side, and the module id. -/
def helloOf (m : Mod) (p : Nat) : Out := .hello p (m.fld VL_CFG VL_CFG_WIN_LOG2) modTags hostTags m.selfId

def sendHello (p : Nat) : Act := .look fun m => emit (helloOf m p)

/-- A trained link opens a new epoch: counts start from 0, the VC3 credits are granted, and discovery or HELLO
begins. -/
def execLinkUp (p : Fin 64) (s : State) : Result := done (.look fun m =>
  if !mayRise m p then .nop
  else acts [
    modPort p Port.close,
    bumpWrap (FB_PORT_LINK p) FB_PORT_LINK_EPOCH 1,
    openMaps p,
    forEach (List.range 18) (fun x => setF (PT_TX_LANE p x) lockFld 2),
    forEach (List.range 18) (fun x => setF (PT_RX_LANE p x) lockFld 2),
    setLink p lkQuarantined,
    topUp p,
    sendMap p,
    sendControl p,
    if m.planKind p = 4 then (match voloshIndex m p with
      | some i => acts [setF VL_PORTS (voloshFld i) 1, sendHello p]
      | none => .nop)
    else startDiscovery p]) s

/-! ### Absent ports (R313) -/

def absentKind (k : Nat) : Bool := decide (k = 1 ∨ k = 2 ∨ k = 3 ∨ k = 5)

def execPortAbsent (p : Fin 64) (s : State) : Result := done (.look fun m =>
  onlyIf (m.fabric.started && absentKind (m.planKind p) && !m.portUp p && !(m.port p).absent) (acts [
    modPort p (fun x => { x with absent := true }),
    positionRecord p 0x0902 clsLasting 1 ((((m.port p).peer).map BitVec.toNat).getD 0x3FFF) (m.port p).peerCert])) s

def execAbsentRetrain (p : Fin 64) (s : State) : Result := done (.look fun m =>
  onlyIf ((m.port p).absent && decide (m.linkState p = lkDown) && m.dieRuns (ioDie (p / 8)) && !fabricHeld m)
    (setLink p lkTraining)) s

/-! ### Notices (R314, R315) -/

def execRouteNotice (p : Fin 64) (moduleId : BitVec 14) (serial : BitVec 32) (reach : BitVec 289) (dist : BitVec 8)
    (tag : BitVec 32) (s : State) : Result := done (.look fun m =>
  let id := moduleId.toNat
  if !m.portUp p ∨ (m.port p).peer ≠ some moduleId then .nop
  else acts [
    takeMsg p 0x83 tag,
    sendVc3 p 0xC3 id tag 0 0 [],
    if (match m.fabric.serials.get? id with
        | some last => decide (serial.toNat ≤ last)
        | none => false) then .nop
    else acts [
      modFabric (fun f => { f with
        serials := f.serials.put id serial.toNat
        lastNotice := f.lastNotice.put (slotOf id) m.now.toNat
        reach := f.reach.put (slotOf id) reach }),
      forEach (List.range 64) (fun q => onlyIf (decide ((m.port q).peer = some moduleId))
        (modPort q fun x => { x with peerDist := dist.toNat, peerLocked := x.peerLocked || decide (dist.toNat < 255) })),
      rebuildRoutes false,
      updateTime]]) s

def execRouteNoticeReply (p : Fin 64) (s : State) : Result := done (takeReplyMsg p 0xC3) s

def execRouteNoticeTimer (s : State) : Result := done (.look fun m => onlyIf m.fabric.started sendNotices) s

/-- A peer's last notice is older than 300 ms: its passages are forgotten (R315). -/
def execPassageExpiry (slot : Fin 24) (s : State) : Result := done (.look fun m =>
  match m.fabric.lastNotice.get? slot with
  | none => .nop
  | some t => onlyIf (decide (t + 300000000 < m.now.toNat) && (m.fabric.reach.get? slot).isSome) (acts [
      modFabric (fun f => { f with reach := f.reach.del slot }), rebuildRoutes false])) s

/-- DISC_MS has passed since the fabric started: a Held chamber is decided (R318). -/
def execChamberStartDecision (k : Fin 8) (s : State) : Result := done (.look fun m =>
  onlyIf m.fabric.started (acts [modFabric (fun f => { f with discPassed := true }), decideChamber k])) s

/-! ### Straps (R298–R300) -/

def strapRecord (v : Nat) : Act :=
  record (qDie mgmtDie) 0x0905 clsLasting .plain none dpNone mpTfw (detail [(32, 1, v)])

/-- The straps have not held for 1 ms within 1 s of PWR_GOOD. -/
def execStrapTimeout (s : State) : Result := done (.look fun m =>
  onlyIf (!m.flag MOD_POSITION MOD_POSITION_STRAPS_VALID && m.rst.powerGood) (strapRecord 0)) s

/-! ### Withdrawal (R294, R311, R327) -/

/-- Ports on which a withdrawing module says so. -/
def withdrawPorts (m : Mod) : List Nat := (List.range 64).filter fun p => m.portUp p && discKind (m.planKind p)

/-- The module withdraws (R294): new requests are not injected, transit goes on. With no such port up it is withdrawn at
once. -/
def startWithdraw (reason : Nat) : Act := .look fun m =>
  let ps := withdrawPorts m
  if m.fabric.withdrawing ∨ m.fabric.withdrawn then .nop
  else if ps.isEmpty then modFabric fun f => { f with withdrawn := true, withdrawReason := BitVec.ofNat 2 reason }
  else acts [
    modFabric (fun f => { f with withdrawing := true, replies := [], withdrawReason := BitVec.ofNat 2 reason }),
    record (qDie mgmtDie) 0x0906 clsTransient .plain none dpNone mpTfw (detail [(32, 1, reason)]),
    forEach ps fun p => requestVc3 p 0x82 0 (leBytes 8 (m.selfId + reason % 4 * 2 ^ 16) ++ leBytes 8 m.now.toNat)]

/-- A neighbour withdraws (R327): its port is withdrawing, its routes go, and a discovery under way is abandoned and the
port held absent (R311). -/
def execWithdraw (p : Fin 64) (moduleId : BitVec 14) (reason : BitVec 2) (at_ : Word) (tag : BitVec 32) (s : State) :
    Result := done (.look fun m =>
  let disc := decide (m.linkState p = lkQuarantined)
  if !m.portOpen p ∨ m.linkState p = lkWithdrawing then .nop
  else acts [
    takeMsg p 0x82 tag,
    setLink p lkWithdrawing,
    modPort p (fun x => { x with stage := 0, absent := x.absent || disc }),
    record (qDie mgmtDie) 0x0906 clsTransient .plain none (dpPort m p) mpTfw
      (detail [(32, 1, reason.toNat), (34, 2, moduleId.toNat), (40, 8, at_.toNat)]),
    rebuildRoutes true,
    updateTime,
    sendVc3 p 0xC2 moduleId.toNat tag 0 0 []]) s

def execWithdrawReply (p : Fin 64) (s : State) : Result := done (acts [
  takeReplyMsg p 0xC2,
  .look fun m => onlyIf (m.fabric.withdrawing && !m.fabric.replies.contains p.val)
    (modFabric fun f => { f with replies := f.replies ++ [p.val] })]) s

/-- The drain ends (R294): every epoch of the fabric's ports closes. -/
def withdrawEnd : Act := .look fun m => acts [
  forEach ((List.range 64).filter fun p => m.portOpen p ∧ discKind (m.planKind p)) (fun p =>
    closeEpoch p lkDown clsTransient),
  modFabric fun f => { f with withdrawing := false, withdrawn := true }]

end Sys2Proof.Machine
end

