-- ==== Sys2Proof/Machine/Volosh.lean ====
section
/-! DEFINITION. The Volosh host link (R399–R413): HELLO, snoops, grants, the device and register windows, loss
(12_volosh_and_confidential_operation.md). -/

namespace Sys2Proof.Machine

/-! ### HELLO (R401, R410) -/

/-- A port comes up while no other is up: what was outstanding is sent (R410), watchers read their lines again, written
lines are written back. -/
def voloshResume : Act := .look fun m => acts [
  bumpSat VL_LINES VL_LINES_REISSUED (m.volosh.reqs.filter (·.port.isSome)).length,
  forEach (m.volosh.reqs.filter (·.port.isSome)) (fun r => emit (vPacket m r.opc 0 0 r.tag r.off (vRlen r.opc) r.data)),
  modVolosh (fun v => { v with reqs := v.reqs.map fun r => { r with port := r.port.map fun _ => voloshPort m r.off } }),
  voloshPump,
  forEach m.volosh.lines (fun l => match l.2.watch with
    | some w => wakeWatch l.1 w
    | none => .nop),
  forEach (m.volosh.lines.filter fun l => l.2.owned ∧ l.2.written) fun l => writeBackLine l.1 l.2]

def execHello (p : Fin 64) (version : BitVec 8) (winLog2 : BitVec 6) (_modTags : BitVec 12) (hostTags : BitVec 12)
    (s : State) : Result := done (.look fun m =>
  match voloshIndex m p with
  | none => .nop
  | some i =>
    if !m.portOpen p ∨ voloshState m i = 0 ∨ voloshState m i = 2 then .nop
    else if version = 1 ∧ m.fld VL_CFG VL_CFG_WIN_LOG2 ≤ winLog2.toNat ∧ 1 ≤ hostTags.toNat then acts [
      setF VL_PORTS (voloshFld i) 2,
      onlyIf (!voloshUp m) voloshResume,
      setLink p lkUp,
      topUp p]
    else acts [
      setF VL_PORTS (voloshFld i) 3,
      portRecord p 0x0C01 clsLasting .plain []]) s

def execHelloRepeat (p : Fin 64) (s : State) : Result := done (.look fun m =>
  match voloshIndex m p with
  | none => .nop
  | some i => onlyIf (decide (voloshState m i = 3)) (sendHello p)) s

/-! ### Snoops (R405–R409) -/

/-- A snoop is answered, with the line's data where a written line is recalled, and the line is dropped. -/
def snoop (off : Nat) (tag : BitVec 16) (recalls : Bool) : Act := .look fun m =>
  let line := off / 64 * 64
  if !voloshUp m then .nop
  else acts [
    bumpWrap VL_STAT VL_STAT_SNOOPS 1,
    match m.volosh.lines.get? line with
    | none => emit (vPacket m 0x83 0 0 tag line 0 [])
    | some l => acts [
        modVolosh (fun v => { v with lines := v.lines.del line }),
        (if recalls ∧ l.owned ∧ l.written then emit (vPacket m 0x84 0 0 tag line 0 l.data)
         else emit (vPacket m 0x83 0 0 tag line 0 [])),
        lineCounts,
        (match l.watch with
         | some w => wakeWatch line w
         | none => .nop)]]

def execInv (off : BitVec 52) (tag : BitVec 16) (s : State) : Result := done (snoop off.toNat tag false) s
def execRecall (off : BitVec 52) (tag : BitVec 16) (s : State) : Result := done (snoop off.toNat tag true) s

/-! ### Answers to the module's requests (R404, R406, R407) -/

/-- The chamber whose module-written counter line an offset is. -/
def counterOwner (m : Mod) (off : Nat) : Option Nat :=
  (List.range 8).find? fun k => bound m k && decide (bounceOff m k + 0x40 = off)

/-- A grant is taken and acknowledged: a watched line is held Shared, a counter line Held-by-module with what the module
has counted meanwhile. -/
def takeGrant (r : VReq) (state : Nat) (data : List Byte) : Act := .look fun m =>
  let line : VLine :=
    if state = 2 then
      (match counterOwner m r.off with
       | some k => ⟨true, decide (counterLine (m.chamber k) ≠ data), r.watch, counterLine (m.chamber k)⟩
       | none => ⟨true, false, r.watch, data⟩)
    else ⟨false, false, r.watch, data⟩
  acts [
    emit (vPacket m 0x85 0 0 r.tag r.off 0 []),
    modVolosh (fun v => { v with lines := v.lines.put r.off line }),
    lineCounts,
    (match r.watch with
     | some (w, n) => onlyIf (decide (8 ≤ w ∧ w < 16)) (bounceCounter (w - 8) n (leNat (data.take 8)))
     | none => .nop)]

def execVoloshData (tag : BitVec 16) (status : BitVec 4) (state : BitVec 2) (data : List Byte) (s : State) : Result :=
  done (.look fun m =>
    match vAnswered m tag (fun o => decide (o ≤ opRdNc)) with
    | none => .nop
    | some r => acts [
        vEnd tag,
        onlyIf (decide (status.toNat = stOk ∧ data.length = 64 ∧
          ((r.opc = opRdShared ∧ state = 1) ∨ (r.opc = opRdOwn ∧ state = 2)))) (takeGrant r state.toNat data)]) s

def execVoloshAck (tag : BitVec 16) (_status : BitVec 4) (s : State) : Result := done (.look fun m =>
  match vAnswered m tag (fun o => decide (opRdNc < o)) with
  | none => .nop
  | some r => acts [
      vEnd tag,
      (match r.watch with
       | some (w, _) => onlyIf (decide (16 ≤ w)) (outAcked (w - 16))
       | none => .nop)]) s

/-- At most 10 µs after its first write a written line is written back (R408). -/
def execWbTimer (off : BitVec 52) (s : State) : Result := done (.look fun m =>
  match m.volosh.lines.get? off.toNat with
  | some l => onlyIf (l.owned && l.written) (writeBackLine off.toNat l)
  | none => .nop) s

/-! ### Device and register windows (R404, R412, R413) -/

/-- A request that the opcode table does not allow: DENIED, with a lasting record (R404). -/
def refuseRequest (tag : BitVec 16) (read : Bool) (opc : Nat) : Act := acts [
  voloshAnswer tag read stDenied [],
  record (qDie mgmtDie) 0x0C02 clsLasting .plain none dpNone mpTfw (detail [(32, 1, opc), (34, 2, tag.toNat)])]

/-- Companion requests not yet answered. -/
def tagBusy (m : Mod) (tag : BitVec 16) : Bool :=
  let mine : Access → Bool := fun a => decide (a.org = .volosh tag)
  m.flight.any mine || m.mdies.any (fun d => d.2.held.any mine || d.2.jnlHeld.any mine) ||
    m.stks.any fun x => x.2.retry.any mine || x.2.repeating.any mine || x.2.heldRow.any mine

/-- The sizes of R404 for the device window: 1, 2, 4, 8, or 64 to 4,096 in multiples of 64. -/
def devSize (n : Nat) : Bool := decide (n = 1 ∨ n = 2 ∨ n = 4 ∨ n = 8 ∨ (64 ≤ n ∧ n ≤ 4096 ∧ n % 64 = 0))

/-- A device access crosses no 4 KiB boundary (R404). -/
def devCrosses (a n : Nat) : Bool := decide (4096 < a % 4096 + n)

/-- The checks of R412 before the memory is reached; `cnt` is the counter named. -/
def devStatus (m : Mod) (a n : Nat) (cnt : Option Nat) : Nat :=
  match locate a with
  | .stack s _ =>
    if roomAt a < n ∨ a % (if n ≤ 8 then n else 64) ≠ 0 then stDenied
    else match stackOwner m s with
      | none => stDenied
      | some k =>
        if !m.flag (VL_CHAMBER k) VL_CHAMBER_HOST_ACCESS ∨ confidential m k then stDenied
        else if cnt.any fun c => !counterIn m k c then stDenied
        else if !stackServes m s then stUnavailable
        else stOk
  | _ => stDenied

/-- A device access that passes becomes an access of the owning chamber at its home. -/
def devAccess (tag : BitVec 16) (a n : Nat) (kind : AKind) (cnt : Option Nat) (e : Ecc) : Act := .look fun m =>
  arriveAccess {
    org := .volosh tag
    kind := kind
    addr := a
    size := n
    hint := 0
    chamber := (match locate a with
      | .stack s _ => (stackOwner m s).getD 8
      | _ => 8)
    cnt := cnt
    stat := false
    tag := 0
    pc := 0
    word := 0
    stamp := m.now
    rd := 0
    run := 0 } e

def execDevRd (tag : BitVec 16) (addr : BitVec 52) (rlen : BitVec 13) (e : Ecc) (s : State) : Result :=
  done (.look fun m =>
    let n := rlen.toNat
    if !voloshUp m then .nop
    else if tagBusy m tag || !devSize n || devCrosses addr.toNat n then refuseRequest tag true 0x41
    else if devStatus m addr.toNat n none ≠ stOk then voloshAnswer tag true (devStatus m addr.toNat n none) []
    else devAccess tag addr.toNat n .read none e) s

def execDevWr (tag : BitVec 16) (addr : BitVec 52) (data : List Byte) (cen : Bool) (cnt : BitVec 12) (e : Ecc) (s : State) :
    Result := done (.look fun m =>
  let n := data.length
  let c : Option Nat := if cen then some cnt.toNat else none
  if !voloshUp m then .nop
  else if tagBusy m tag || !devSize n || devCrosses addr.toNat n then refuseRequest tag false 0x42
  else if devStatus m addr.toNat n c ≠ stOk then voloshAnswer tag false (devStatus m addr.toNat n c) []
  else devAccess tag addr.toNat n (.write data) c e) s

/-- The size of a register-window access is 4 or 8 (R404). -/
def regSize (n : Nat) : Bool := decide (n = 4 ∨ n = 8)

def execRegRd (tag : BitVec 16) (off : BitVec 52) (rlen : BitVec 13) (s : State) : Result := done (.look fun m =>
  let n := rlen.toNat
  if !voloshUp m then .nop
  else if tagBusy m tag || !regSize n then refuseRequest tag true 0x43
  else if accessOk off.toNat n && reaches m .companion off.toNat then
    voloshAnswer tag true stOk (regRead m off.toNat n)
  else voloshAnswer tag true stDenied []) s

def execRegWr (tag : BitVec 16) (off : BitVec 52) (data : List Byte) (s : State) : Result := done (.look fun m =>
  let n := data.length
  if !voloshUp m then .nop
  else if tagBusy m tag || !regSize n then refuseRequest tag false 0x44
  else if accessOk off.toNat n && reaches m .companion off.toNat then acts [
    writeReg .companion off.toNat n (BitVec.ofNat 64 (leNat data)),
    voloshAnswer tag false stOk []]
  else voloshAnswer tag false stDenied []) s

/-- An opcode that the companion may not send. -/
def execVoloshUnlistedRequest (opc : BitVec 8) (tag : BitVec 16) (s : State) : Result := done (.look fun m =>
  let listed := [0x21, 0x22, 0x41, 0x42, 0x43, 0x44, 0x81, 0x82, 0xE0, 0xE1]
  onlyIf (voloshUp m && !listed.contains opc.toNat) (refuseRequest tag false opc.toNat)) s

/-! ### Loss of every port (R411) -/

/-- No Volosh port has been up for LOSS_MS. -/
def execVoloshLoss (s : State) : Result := done (.look fun m =>
  let lost := (m.volosh.lines.filter fun l => l.2.owned ∧ l.2.written).length
  onlyIf (!voloshUp m && (m.flag VL_PORTS VL_PORTS_PORT0_VALID || m.flag VL_PORTS VL_PORTS_PORT1_VALID)) (acts [
    modVolosh (fun v => { v with lines := [], reqs := v.reqs.filter fun r => r.opc = opWrNc }),
    lineCounts,
    bumpSat VL_LINES VL_LINES_LOST lost,
    forEach (List.range 8) (fun k => .look fun m => forEach (ringsOf m k) fun x => acts [
      setF (CD_RING_STATE x.1 x.2) CD_RING_STATE_STATE 2,
      modRing x.1 x.2 fun r => { r with reading := false, reread := false }]),
    forEach (List.range 8) (fun k => endBinding k 4),
    record (qDie mgmtDie) 0x0C03 clsLasting .plain none dpNone mpTfw (detail [(32, 2, lost)])])) s

end Sys2Proof.Machine
end

