-- ==== Sys2Proof/Machine/Spdm.lean ====
section
/-! DEFINITION. Attestation reports (R475–R477), the SPDM responder (R415, R417) and the binding of confidential
chambers (R416, R425). -/

namespace Sys2Proof.Machine

/-! ### Measurements (R461, R475, R479) -/

/-- Kind 1 TFW, 2 SFW, 3 configuration image. -/
def kindOf (t : Trust) (j : Nat) : BootKind := if j = 1 then t.tfw else if j = 2 then t.sfw else t.img

def modKind (j : Nat) (f : BootKind → BootKind) : Act := modTrust fun t =>
  if j = 1 then { t with tfw := f t.tfw } else if j = 2 then { t with sfw := f t.sfw } else { t with img := f t.img }

def slotEmpty : Slot := ⟨false, 0, false, 0, none⟩
def BootKind.slot (b : BootKind) (n : Nat) : Slot := b.slots.getD n slotEmpty

/-- The slot whose object runs: the pending slot while it is being tried (R466). -/
def BootKind.runs (b : BootKind) : Nat := if b.trying then b.pending.getD b.active else b.active

/-- One measurement of a report. -/
structure Meas where
  digest : BitVec 384
  svn : Nat
  slot : Nat
  valid : Bool
  deriving DecidableEq, Repr

def objectRuns (t : Trust) (j : Nat) : Bool :=
  if j = 1 then true else if j = 2 then t.sfwUp else t.image.loaded

/-- Measurement j: 0 ROM, 1–3 the running objects, 4–6 the pending ones (R475, R479). -/
def measurement (t : Trust) (j : Nat) : Meas :=
  if j = 0 then ⟨Config.dieDigest 64, 0, 0, true⟩
  else if j < 4 then
    let b := kindOf t j
    let s := b.slot b.runs
    if objectRuns t j then ⟨s.measurement, s.svn, b.runs, true⟩ else ⟨0, 0, b.runs, false⟩
  else
    let b := kindOf t (j - 3)
    match b.pending with
    | some n => ⟨(b.slot n).measurement, (b.slot n).svn, n, true⟩
    | none => ⟨0, 0, 0, false⟩

/-- TR_MEAS, TR_SVN, and the slots and pending bits of TR_STATE follow trusted firmware's state (R479). -/
def showTrust : Act := .look fun m =>
  let t := m.trust
  acts [
    forEach (List.range 7) (fun j => forEach (List.range 6) fun w =>
      .upd (.reg (TR_MEAS (6 * j + w)) (BitVec.ofNat 64 (bitsOf (measurement t j).digest (64 * w) 64)))),
    setF TR_SVN TR_SVN_TFW t.tfw.svnMin, setF TR_SVN TR_SVN_SFW t.sfw.svnMin, setF TR_SVN TR_SVN_IMAGE t.img.svnMin,
    setF TR_STATE TR_STATE_SLOTS (t.tfw.runs + 2 * t.sfw.runs + 4 * t.img.runs),
    setF TR_STATE TR_STATE_PENDING (b01 t.tfw.pending.isSome + 2 * b01 t.sfw.pending.isSome + 4 * b01 t.img.pending.isSome)]

/-! ### Digest entries (R476, R477) -/

/-- Programs that a chamber holds, with the compute die that holds each. -/
def programDies (m : Mod) (k : Nat) : List (Nat × Nat) :=
  let resident := ((List.range 8).map fun d => ((m.cdie d).resident.filter fun r => sorusIn m k (25 * d + r.1)).map
    fun r => (r.2.digest.toNat, d)).flatten
  let held := ((List.range 8).map fun d => ((m.cdie d).launches.map fun l =>
    let key := 64 * d + l.1
    if m.lchamber key = k ∧ m.lstate key ≠ lFree ∧ m.lstate key ≠ lChecking then
      (l.2.stages.zipIdx.filter fun s => !bitOf (m.lword key 15) s.2).map fun s => (l.2.digest.toNat, s.1.die)
    else []).flatten).flatten
  ((resident ++ held).filter fun x => m.dieRuns x.2).dedup

/-- An entry of 64 B: kind with mask or slot, then the digest (log 23). -/
def digestEntry (kind arg digest : Nat) : List Byte :=
  leBytes 8 (kind + arg * 2 ^ 8) ++ leBytes 48 digest ++ leBytes 8 0

/-- Program entries by digest, then weight entries by slot. -/
def digestEntries (m : Mod) (k : Nat) : List (List Byte) :=
  let ps := programDies m k
  let ds := ((ps.map (·.1)).dedup).mergeSort (fun a b => decide (a ≤ b))
  let ws := ((m.chamber k).mslots.filter fun x => x.closed.isSome).mergeSort fun a b => decide (a.slot ≤ b.slot)
  (ds.map fun g => digestEntry 1 (maskOf ((ps.filter fun x => x.1 = g).map (·.2))) g) ++
    ws.map fun x => digestEntry 2 x.slot (x.closed.getD 0).toNat

/-- One level of the hash tree: a last odd node is carried up unchanged. -/
def treeLevel : List (BitVec 384) → List (BitVec 384)
  | a :: b :: l => Config.sha384 (leBytes 48 a.toNat ++ leBytes 48 b.toNat) :: treeLevel l
  | l => l

def treeRoot : Nat → List (BitVec 384) → BitVec 384
  | 0, l => l.headD 0
  | fuel + 1, l => if l.length ≤ 1 then l.headD 0 else treeRoot fuel (treeLevel l)

/-- What a report holds of a chamber's entries: all of them, or one tree entry (R476). -/
def reportDigests (m : Mod) (k : Nat) : List Byte :=
  let es := digestEntries m k
  if es.length ≤ 256 then es.flatten
  else digestEntry 3 es.length (treeRoot 24 (es.map Config.sha384)).toNat

/-! ### The report (R475) -/

/-- A report can be produced once the device key is derived, while trusted firmware runs (R454, R463). -/
def mayReport (m : Mod) : Bool := m.rst.powerGood && !m.trust.halted && !m.trust.testEn

/-- A part's words from its bytes. -/
def wordsOf (bs : List Byte) : List Word := (chunks 8 8193 bs).map fun c => BitVec.ofNat 64 (leNat c)

/-- DIE_TYPE as R503 codes it; 4 for the management die. -/
def dieType (n : Nat) : Nat := if n < 8 then 1 else if n < 12 then 2 else if n < 20 then 3 else if n = 20 then 4 else 5

def dieMode (m : Mod) (n : Nat) : Nat :=
  if 12 ≤ n ∧ n < 20 then ioMode m (n - 12) else if n = 21 then m.fld MOD_DIE_MODE MOD_DIE_MODE_ACC_MODE else 0

/-- The identity digest of a die (R505). -/
def dieIdentity (m : Mod) (n : Nat) : BitVec 384 := m.trust.dieIds.getD n (Config.dieDigest n)

def snapFld (m : Mod) (off : Nat) (f : Fld) : Nat := bitsOf (m.snapReg off) f.lo f.w

/-- The stepping of a die: what its IDENT record gave on a link of it, else what its own identity gives (log 23). -/
def dieStepping (m : Mod) (n : Nat) : Nat :=
  (((List.range 57).find? fun l => decide (32 ≤ l ∧ (linkEnds l).2 = n ∧ 2 ≤ (m.link l).records.length)).bind fun l =>
    ((m.link l).records[1]?).map fun r => bitsOf r 64 8).getD ((Config.dieDigest (100 + n)).toNat % 256)

/-- The content of a report before its signature, part by part in the order of R475 (log 23). -/
def reportContent (m : Mod) (nonce : List Byte) : List Word :=
  let t := m.trust
  let n64 : Nat → Word := BitVec.ofNat 64
  let bits := b01 (!t.image.loaded) + 2 * b01 t.maint + 4 * b01 t.tfw.pending.isSome + 8 * b01 t.sfw.pending.isSome +
    16 * b01 t.img.pending.isSome
  let chains := wordsOf (Config.deviceChainAt 0) ++ wordsOf (enrolment m)
  let meas := ((List.range 7).map fun j =>
    let x := measurement t j
    wordsOf (leBytes 48 x.digest.toNat) ++ [n64 (x.svn + x.slot * 2 ^ 32 + b01 x.valid * 2 ^ 40)]).flatten
  let inv := ((List.range 22).map fun d =>
    [n64 (dieType d), n64 (snapFld m MOD_DIE_STATE ⟨2 * d, 2⟩), n64 (dieMode m d + 2 ^ 8 * dieStepping m d),
      (if m.dieState d = 3 then 0 else t.resetSince.getD d 0)] ++ wordsOf (leBytes 48 (dieIdentity m d).toNat)).flatten
  let chs := ((List.range 8).map fun k =>
    let c := m.chamber k
    let es := (digestEntries m k).length
    [n64 c.tag.toNat, n64 c.st, n64 (confState m k), n64 c.clears, n64 es, n64 (b01 (decide (256 < es))), 0, 0]).flatten
  let digests := wordsOf ((List.range 8).map (reportDigests m)).flatten
  let head : List Word := [n64 (0x52534D4B + 1 * 2 ^ 32), n64 (128 + 8 * (chains.length + meas.length + inv.length + chs.length + digests.length) + 96),
    n64 t.reportSeq, n64 (m.fld TR_BOOT TR_BOOT_COLD_STARTS), n64 (m.fld TR_BOOT TR_BOOT_WARM_STARTS), m.now,
    n64 (m.fld TM_STATUS TM_STATUS_LOCKED), n64 m.selfId, n64 bits, n64 nonce.length] ++
    wordsOf (nonce ++ leBytes (48 - nonce.length) 0)
  head ++ chains ++ meas ++ inv ++ chs ++ digests

/-- A report is produced for a session, or for the SPDM requester. -/
def produceReport (session : Option Nat) (nonce : List Byte) : Act := acts [
  modTrust (fun t => { t with reportSeq := t.reportSeq + 1 }),
  .look fun m =>
    let content := reportContent m nonce
    emit (.report session content
      (Config.sign (Config.sha384 ((content.map fun w => leBytes 8 w.toNat).flatten))))]

/-! ### Session set-up (R415) -/

/-- Steps of a session: none; VERSION, CAPABILITIES, ALGORITHMS answered; digests, certificate, measurements read; key
exchanged; established. -/
def spNone : Nat := 0
def spVersion : Nat := 1
def spCaps : Nat := 2
def spAlgs : Nat := 3
def spDigests : Nat := 4
def spCert : Nat := 5
def spMeas : Nat := 6
def spKey : Nat := 7
def spUp : Nat := 8

def spdmError : Nat := 0x7F

/-- An SPDM request reaches trusted firmware: it is answered where its step of R415's order is due, else with ERROR. -/
def spdmRequest (due : Nat → Bool) (a : Act) : Act := .look fun m =>
  onlyIf (voloshUp m && !m.trust.halted)
    (if due m.volosh.spdm && !m.trust.testEn then a else emit (.spdm spdmError []))

def spdmStep (n : Nat) : Act := modVolosh fun v => { v with spdm := n }

/-- GET_VERSION opens a new set-up wherever no session is established (log 24). -/
def execGetVersion (_version : BitVec 8) (s : State) : Result :=
  done (spdmRequest (fun n => decide (n ≠ spUp)) (acts [
    spdmStep spVersion, emit (.spdm 0x04 [0x13])])) s

/-- The capabilities of R415, by the bits that SPDM gives them (log 24). -/
def spdmCaps : Nat := 2 + 4 + 16 + 64 + 128 + 256 + 512 + 8192

def execGetCapabilities (_flags : BitVec 32) (s : State) : Result :=
  done (spdmRequest (fun n => decide (n = spVersion)) (acts [
    spdmStep spCaps, emit (.spdm 0x61 (leBytes 4 spdmCaps))])) s

/-- The fixed set: ECDSA P-384, SHA-384, secp384r1, AES-256-GCM. -/
def execNegotiateAlgorithms (offersFixedSet : Bool) (s : State) : Result :=
  done (spdmRequest (fun n => decide (n = spCaps) && offersFixedSet) (acts [
    spdmStep spAlgs, emit (.spdm 0x63 [])])) s

/-- The chain of a certificate slot: 0 the device chain, 1 the enrolment chain. -/
def certChain (m : Mod) (slot : Nat) : Option (List Byte) :=
  if slot = 0 then some (Config.deviceChainAt 0) else if slot = 1 then some (enrolment m) else none

def execGetDigests (s : State) : Result :=
  done (spdmRequest (fun n => decide (spAlgs ≤ n ∧ n ≤ spCert)) (.look fun m => acts [
    spdmStep (max spDigests m.volosh.spdm),
    emit (.spdm 0x01 (leBytes 48 (Config.sha384 (Config.deviceChainAt 0)).toNat ++
      leBytes 48 (Config.sha384 (enrolment m)).toNat))])) s

def execGetCertificate (slot : BitVec 8) (off : BitVec 16) (len : BitVec 16) (s : State) : Result :=
  done (spdmRequest (fun n => decide ((n = spDigests ∨ n = spCert) ∧ slot.toNat < 2)) (.look fun m => acts [
    spdmStep spCert,
    emit (.spdm 0x02 ((((certChain m slot.toNat).getD []).drop off.toNat).take len.toNat))])) s

/-- The measurements as MEASUREMENTS carries them. -/
def measurementBytes (m : Mod) : List Byte :=
  ((List.range 7).map fun j => leBytes 48 (measurement m.trust j).digest.toNat).flatten

def signBytes (bs : List Byte) : List Byte := leBytes 96 (Config.sign (Config.sha384 bs)).toNat

def execGetMeasurements (nonce : List Byte) (signed : Bool) (s : State) : Result :=
  done (spdmRequest (fun n => decide (n = spCert ∨ n = spMeas)) (.look fun m =>
    let body := measurementBytes m
    acts [spdmStep spMeas, emit (.spdm 0x60 (body ++ if signed then signBytes (nonce ++ body) else []))])) s

/-- KEY_EXCHANGE: the responder's half of the session id and of the exchange are free; it signs, and asks for mutual
authentication where the policy requires it. -/
def execKeyExchange (reqSession : BitVec 16) (exchange : List Byte) (s : State) : Result :=
  done (spdmRequest (fun n => decide (n = spCert ∨ n = spMeas)) (acts [
    .upd .free,
    .look fun m =>
      let own := leBytes 96 (Config.nonce m.freeCount).toNat
      let half := bitsOf (Config.freeWord 0x64 m.freeCount) 0 16
      let body := leBytes 2 half ++ [if m.trust.image.mutAuth then 1 else 0] ++ own
      acts [
        modVolosh (fun v => { v with spdm := spKey, session := reqSession.toNat + half * 2 ^ 16, secret := m.freeCount }),
        emit (.spdm 0x64 (body ++ signBytes (exchange ++ body)))]])) s

/-- FINISH establishes the session where its proof holds, and where the requester has authenticated itself if it must;
otherwise the set-up is over. -/
def execFinish (verifyOk mutualOk : Bool) (s : State) : Result :=
  done (spdmRequest (fun n => decide (n = spKey)) (.look fun m =>
    if verifyOk && (mutualOk || !m.trust.image.mutAuth) then acts [spdmStep spUp, emit (.spdm 0x65 [])]
    else acts [modVolosh (fun v => { v with spdm := spNone, session := 0, secret := 0 }), emit (.spdm spdmError [])])) s

/-- KEY_UPDATE changes only the session's message keys, which the model does not hold (R417). -/
def execKeyUpdate (s : State) : Result :=
  done (spdmRequest (fun n => decide (n = spUp)) (emit (.spdm 0x69 []))) s

def execSpdmHeartbeat (s : State) : Result :=
  done (spdmRequest (fun n => decide (n = spUp)) (emit (.spdm 0x68 []))) s

/-- The session ends, and every binding made in it or under way (R425). -/
def endSession (cause : Nat) : Act := acts [
  modVolosh (fun v => { v with spdm := spNone, session := 0, secret := 0 }),
  forEach (List.range 8) fun k => endBinding k cause]

def execEndSession (s : State) : Result :=
  done (spdmRequest (fun n => decide (n = spUp)) (acts [endSession 1, emit (.spdm 0x6C [])])) s

/-- 20 s without a heartbeat. -/
def execSpdmHeartbeatTimeout (s : State) : Result := done (.look fun m =>
  onlyIf (decide (m.volosh.spdm = spUp) && !m.trust.halted) (endSession 2)) s

/-! ### Reports and digest lists over SPDM (R475, R476) -/

def execSpdmAttest (nonce : List Byte) (s : State) : Result := done (.look fun m =>
  onlyIf (voloshUp m && mayReport m)
    (if nonce.length ≤ 48 then produceReport none nonce else emit (.spdm spdmError []))) s

/-- A page of 64 entries of a chamber's digest list. -/
def execGetDigestList (k : Fin 8) (page : Nat) (s : State) : Result := done (.look fun m =>
  onlyIf (voloshUp m && !m.trust.halted)
    (emit (.spdm 0x7E (((digestEntries m k).drop (64 * page)).take 64).flatten))) s

/-! ### Binding (R416) -/

/-- The four derived values are installed, the counters start at 0, the rings wait at their START_SEQ, and BIND is
answered. -/
def finishBind (k : Nat) : Act := .look fun m =>
  let e := m.volosh.secret
  let tag := (m.chamber k).tag
  acts [
    modChamber k (fun c => { c with
      bindWanted := none
      cleared := false
      secret := e
      kIn := Config.hkdf e 0 tag
      kOut := Config.hkdf e 1 tag
      sIn := BitVec.ofNat 32 (Config.hkdf e 2 tag).toNat
      sOut := BitVec.ofNat 32 (Config.hkdf e 3 tag).toNat
      inCtr := 0
      outCtr := 0
      inProd := 0
      inCons := 0
      outProd := 0
      outCons := 0
      mslots := []
      exporting := none }),
    setF (VL_CONF_STATE k) VL_CONF_STATE_STATE 3,
    setF (VL_CONF_STATE k) VL_CONF_STATE_SESSION_ID m.volosh.session,
    setF (VL_CONF_CNT k) VL_CONF_CNT_IN_CTR 0,
    setF (VL_CONF_CNT k) VL_CONF_CNT_OUT_CTR 0,
    watchBounce k,
    forEach (ringsOf m k) (fun x => acts [
      modRing x.1 x.2 (fun r => { r with
        accepted := []
        reading := false
        reread := false
        sealedIn := none
        sealedOut := none
        nIn := 0
        nOut := 0 }),
      setF (CD_RING_STATE x.1 x.2) CD_RING_STATE_STATE 0]),
    serveRings k,
    emit (.spdm 0x7E (leBytes 2 tag.toNat))]

/-- BIND names the tag of a confidential chamber that is not bound and has no launch; it waits for a clear that runs. -/
def execBind (tag : BitVec 16) (stamp : Word) (s : State) : Result :=
  done (spdmRequest (fun n => decide (n = spUp)) (.look fun m =>
    match (List.range 8).find? fun k => (m.chamber k).valid && confidential m k && decide ((m.chamber k).tag = tag) with
    | none => emit (.spdm spdmError [])
    | some k =>
      let c := m.chamber k
      let held := (List.range 8).any fun d => (m.cdie d).launches.any fun l =>
        decide (m.lchamber (64 * d + l.1) = k ∧ m.lstate (64 * d + l.1) ≠ lFree)
      if bound m k || c.bindWanted.isSome || held then emit (.spdm spdmError [])
      else if c.clearing then modChamber k fun c => { c with bindWanted := some stamp }
      else if c.cleared then finishBind k
      else acts [
        clearChamber k,
        modChamber k (fun c => { c with bindWanted := some stamp }),
        setF (VL_CONF_STATE k) VL_CONF_STATE_STATE 2])) s

/-- A chamber clear ends (R193, R490): its stacks are in service, a waiting BIND completes, and the chamber re-enters its
state decision. -/
def execChamberClearDone (k : Fin 8) (s : State) : Result := done (.look fun m =>
  onlyIf (clearOver m k) (acts [
    stacksCleared k,
    modChamber k (fun c => { c with clearing := false, cleared := true }),
    onlyIf (confidential m k) (
      if (m.chamber k).bindWanted.isSome then finishBind k
      else setF (VL_CONF_STATE k) VL_CONF_STATE_STATE 1),
    decideChamber k,
    serveRings k])) s

end Sys2Proof.Machine
end

