-- ==== Sys2Proof/Machine/Clocks.lean ====
section
/-! DEFINITION. The drip clock, junction sensors, clamps and thermal isolation (R430, R438–R444). -/

namespace Sys2Proof.Machine

/-! ### The drip clock (R430) -/

def execDripLoss (s : State) : Result := done (.look fun m =>
  onlyIf (!m.flag TM_STATUS TM_STATUS_DRIP_LOST) (acts [
    setF TM_STATUS TM_STATUS_DRIP_LOST 1,
    setLocked false,
    record (qDie mgmtDie) 0x0D01 clsLasting .plain none dpNone mpTfw 0])) s

def execDripRestore (s : State) : Result := done (.look fun m =>
  onlyIf (m.flag TM_STATUS TM_STATUS_DRIP_LOST) (acts [
    setF TM_STATUS TM_STATUS_DRIP_LOST 0,
    record (qDie mgmtDie) 0x0D02 clsTransient .plain none dpNone mpTfw 0])) s

/-! ### Sensors (R438, R439) -/

/-- A temperature in the unit of a reading, 1/64 °C. -/
def degC (t : Int) : Int := 64 * t

/-- The keys of a die's sensors: four for each sorus, eight for a memory-side die, sixteen for an I/O die. -/
def sensorsOf (n : Nat) : List Nat :=
  if n < 8 then (List.range 100).map (100 * n + ·)
  else if n < 12 then (List.range 8).map (800 + 8 * (n - 8) + ·)
  else if n < 20 then (List.range 16).map (832 + 16 * (n - 12) + ·)
  else []

def sensorKey : Sensor → Nat
  | .sorus g j => 4 * g + j
  | .memside m j => 800 + 8 * m + j
  | .io i j => 832 + 16 * i + j

def sensorDie : Sensor → Nat
  | .sorus g _ => g / 25
  | .memside m _ => 8 + m
  | .io i _ => 12 + i

/-- A reading within −40 °C to 150 °C. -/
def goodReading (r : Option Int) : Option Int := r.filter fun v => decide (degC (-40) ≤ v ∧ v ≤ degC 150)

def tempFld (j : Nat) : Fld := ⟨16 * j, 16⟩

/-- What an excluded sensor's field reads. -/
def noReading : Nat := 0x8000

/-- A sorus whose four sensors are all excluded. -/
def sorusBlind (m : Mod) (g : Nat) : Bool := (List.range 4).all fun j => (m.sensor (4 * g + j)).excluded

/-- The temperatures that a die's rules see: every included reading, and 105 °C for a sorus with none. -/
def dieTemps (m : Mod) (n : Nat) : List Int :=
  ((sensorsOf n).filterMap fun k => (m.sensor k).last) ++
    (if n < 8 then (((List.range 25).map (25 * n + ·)).filter (sorusBlind m)).map fun _ => degC 105 else [])

def hottest (l : List Int) : Option Int := l.foldl (fun a t => some (match a with | none => t | some x => max x t)) none

/-- The register field of a sensor: only those of sori have one (R450). -/
def showTemp (sn : Sensor) (v : Nat) : Act :=
  match sn with
  | .sorus g j => setF (TH_SORUS g) (tempFld j) v
  | _ => .nop

def sensorRecord (sn : Sensor) (cls : Nat) : Act :=
  record (qDie (sensorDie sn)) 0x0603 cls .plain none dpNone
    (match sn with
     | .sorus g j => mpath 4 (g / 25) 0 g j
     | .memside m j => mpath 4 (8 + m) 0 0 j
     | .io i j => mpath 4 (12 + i) 0 0 j) 0

/-- The module keeps a sensor's state. -/
def putSensor (n : Nat) (x : SensorSt) : Act := .look fun m => .upd (.sensors (m.sensors.put n x))

/-- A sample with no good reading: the sensor is excluded (R439). -/
def sampleBad (sn : Sensor) : Act := .look fun m =>
  let n := sensorKey sn
  acts [
    putSensor n { m.sensor n with last := none, goods := 0, excluded := true },
    showTemp sn noReading,
    onlyIf (!(m.sensor n).excluded) (acts [
      sensorRecord sn clsTransient,
      .look fun m => match sn with
        | .sorus g _ => onlyIf (sorusBlind m g) (sensorRecord sn clsLasting)
        | _ => .nop])]

/-- A good sample; an excluded sensor returns at its hundredth in a row. -/
def sampleGood (sn : Sensor) (v : Int) (awake : Nat) : Act := .look fun m =>
  let n := sensorKey sn
  let x := m.sensor n
  if x.excluded ∧ x.goods + 1 < 100 then putSensor n { x with goods := x.goods + 1, awake := awake }
  else acts [
    putSensor n ⟨some v, 0, false, awake⟩,
    showTemp sn (ofSigned 16 v)]

/-- A sorus is awake for the slope detector unless power-gated or waking (R440). -/
def sensorAwake (m : Mod) : Sensor → Bool
  | .sorus g _ => decide (2 ≤ m.domain g)
  | _ => false

/-- A slope: a rise of more than 0.040 °C over the interval that this sample ends, from the second sample after the
wake on (R440). -/
def slopeSeen (m : Mod) (sn : Sensor) (v : Int) : Bool :=
  let x := m.sensor (sensorKey sn)
  sensorAwake m sn && decide (1 ≤ x.awake) &&
  (match x.last with
   | some l => decide (40 * 64 < 1000 * (v - l))
   | none => false)

/-! ### Clamps (R441–R444) -/

/-- CLAMP of a compute die (R449). -/
def clampCode (c : Clamp) : Nat := if c.hot then 2 else if c.slope then 1 else 0

def showClamp (d : Nat) : Act := .look fun m =>
  let v := if m.flag (TH_DIE d) TH_DIE_ISOLATED then 3 else clampCode (m.clamp d)
  acts [setF (CP_COMPUTE d) CP_COMPUTE_CLAMP v, setF (TH_DIE d) TH_DIE_CLAMP v]

/-- The clamps of a die after a sample: what it has read and whether this sample showed a slope. -/
def nextClamp (c : Clamp) (now : Word) (slope : Bool) (ts : List Int) : Clamp :=
  let cool := ts.all fun t => decide (t ≤ degC 100)
  let since := if cool then some (c.coolSince.getD now) else none
  let cooled := match since with
    | some t => decide (1000000 ≤ now.toNat - t.toNat)
    | none => false
  { slope := slope || (c.slope && decide (now.toNat < c.slopeFree + 1000000))
    hot := (ts.any fun t => decide (degC 105 < t)) || (c.hot && !cooled)
    slopeFree := if slope then now.toNat else c.slopeFree
    coolSince := since }

/-- A die's clamps take what a sample makes of them; each change is recorded, and scored (R442, R520). -/
def clampSample (d : Nat) (g : Nat) (slope : Bool) : Act := .look fun m =>
  let c := m.clamp d
  let c' := nextClamp c m.now slope (dieTemps m d)
  acts [
    .upd (.clamps (m.clamps.put d c')),
    onlyIf slope (acts [bumpSat (TH_DIE d) TH_DIE_SLOPES 1, scoreEvent (scSorus g) 5]),
    onlyIf (c'.hot && !c.hot) (forEach (List.range 25) fun s => scoreEvent (scSorus (25 * d + s)) 20),
    onlyIf (decide ((c.slope, c.hot) ≠ (c'.slope, c'.hot)))
      (record (qDie d) 0x0604 clsTransient .plain none (dpCompute 1 d 0 0 0) (mpSteward d)
        (detail [(32, 1, d), (33, 1, clampCode c')])),
    showClamp d]

/-- THERM_N is low while a compute die is at its 50 % clamp or a sensor reads above 105 °C (R443). -/
def thermPin : Act := .look fun m =>
  let low := ((List.range 8).any fun d => (m.clamp d).hot) || m.sensors.any fun x => match x.2.last with
    | some t => decide (degC 105 < t)
    | none => false
  acts [setF TH_STATUS TH_STATUS_THERM (b01 low), modPins fun p => { p with thermLow := low }]

/-- FAULT_N goes low, and `TH_STATUS.FAULT` shows it. -/
def raiseFault : Act := acts [setF TH_STATUS TH_STATUS_FAULT 1, modPins fun p => { p with faultLow := true }]

/-- A die above 115 °C is isolated and held in reset (R443). -/
def heatDie (n : Nat) : Act := .look fun m =>
  onlyIf (!m.flag (TH_DIE n) TH_DIE_ISOLATED) (acts [
    setF (TH_DIE n) TH_DIE_ISOLATED 1,
    bumpSat (TH_DIE n) TH_DIE_ISOLATIONS 1,
    isolate n 2,
    record (qDie mgmtDie) 0x0605 clsLasting .plain none dpNone mpTfw (detail [(32, 1, n)]),
    onlyIf (decide (n < 8)) (acts [.look fun m => .upd (.clamps (m.clamps.del n)), showClamp n]),
    raiseFault])

/-- What a die's readings now call for. -/
def heatRules (sn : Sensor) (before : Option Int) (slope : Bool) : Act := .look fun m =>
  let n := sensorDie sn
  let ts := dieTemps m n
  let top := hottest ((sensorsOf n).filterMap fun k => (m.sensor k).last)
  acts [
    setF (TH_DIE n) TH_DIE_MAX_T (match top with | some t => ofSigned 16 t | none => noReading),
    onlyIf (decide (8 ≤ n) && !decide (before.any fun t => decide (degC 105 < t))) (match top with
      | some t => onlyIf (decide (degC 105 < t))
          (record (qDie n) 0x0607 clsTransient .warning none dpNone (mpSteward n)
            (detail [(32, 1, n), (34, 2, ofSigned 16 t)]))
      | none => .nop),
    if ts.any fun t => decide (degC 115 < t) then heatDie n
    else onlyIf (decide (n < 8 ∧ m.dieState n ≠ 1)) (clampSample n (match sn with | .sorus g _ => g.val | _ => 0) slope),
    thermPin]

/-- A sample of a junction sensor, with its second reading where the first fails. -/
def execSensorSample (sn : Sensor) (first second : Option Int) (s : State) : Result := done (.look fun m =>
  let n := sensorDie sn
  let x := m.sensor (sensorKey sn)
  let before := hottest ((sensorsOf n).filterMap fun k => (m.sensor k).last)
  let awake := if sensorAwake m sn then min 2 (x.awake + 1) else 0
  if m.dieState n = 0 then .nop
  else match (goodReading first).or (goodReading second) with
    | none => acts [sampleBad sn, heatRules sn before false]
    | some v => acts [sampleGood sn v awake, heatRules sn before (!x.excluded && slopeSeen m sn v)]) s

/-- A die isolated for temperature, every sensor of which has read 85 °C or less for 1 s, is let go; its rejoin is a
command of its own (R443, R497). -/
def execThermalRelease (n : Fin 22) (s : State) : Result := done (.look fun m =>
  onlyIf (m.flag (TH_DIE n) TH_DIE_ISOLATED && (dieTemps m n).all fun t => decide (t ≤ degC 85)) (acts [
    setF (TH_DIE n) TH_DIE_ISOLATED 0,
    onlyIf (decide (n.val < 8)) (showClamp n)])) s

end Sys2Proof.Machine
end

