-- ==== Sys2Proof/Machine/Image.lean ====
section
/-! DEFINITION. Signed objects, the configuration image and its check (R461, R462, R467–R469). -/

namespace Sys2Proof.Machine

/-! ### CRC-32 (R460, R470, R503) -/

/-- CRC-32 of IEEE 802.3 over bits taken from a number, least significant first. -/
def crc32Bits : Nat → Nat → Nat → Nat
  | 0, c, _ => c
  | n + 1, c, v =>
    let x := (c + v) % 2
    crc32Bits n (if x = 1 then (c / 2) ^^^ 0xEDB88320 else c / 2) (v / 2)

def crc32 (bs : List Byte) : Nat := (crc32Bits (8 * bs.length) 0xFFFFFFFF (leNat bs)) ^^^ 0xFFFFFFFF

/-! ### Signed objects (R461, R462) -/

/-- A number at a byte offset. -/
def numAt (bs : List Byte) (at_ n : Nat) : Nat := leNat ((bs.drop at_).take n)

def objSvn (bs : List Byte) : Nat := numAt bs 8 4
def objLen (bs : List Byte) : Nat := numAt bs 12 4
def objBody (bs : List Byte) : List Byte := (bs.drop 4096).take (objLen bs)

/-- Bytes of the slot of a kind (R459). -/
def slotSize (kind : Nat) : Nat := if kind = 1 then 0x80000 else if kind = 2 then 0xC00000 else 0x400000

/-- The parts of R462 that no signature settles. -/
def objFormOk (kind : Nat) (bs : List Byte) : Bool :=
  decide (numAt bs 0 4 = 0x4F534D4B ∧ numAt bs 4 1 = kind ∧ numAt bs 5 1 = 1 ∧ 4096 + objLen bs ≤ slotSize kind ∧
    4096 + objLen bs ≤ bs.length) &&
  decide ((Config.sha384 (objBody bs)).toNat = numAt bs 16 48)

/-- The measurement of a signed object. -/
def objMeasurement (bs : List Byte) : BitVec 384 := Config.sha384 (bs.take 128)

/-! ### The sections (R467–R469) -/

/-- The directory: (type, offset, length) of each section. -/
def imgSections (body : List Byte) : List (Nat × Nat × Nat) :=
  (List.range (numAt body 4 2)).map fun j =>
    (numAt body (64 + 16 * j) 2, numAt body (68 + 16 * j) 4, numAt body (72 + 16 * j) 4)

def sectionsOk (body : List Byte) : Bool :=
  let l := imgSections body
  decide ((l.map (·.1)).mergeSort (fun a b => decide (a ≤ b)) = [1, 2, 3, 4, 5]) &&
  l.all fun x => decide (x.2.1 + x.2.2 ≤ body.length)

def imgSection (body : List Byte) (ty : Nat) : List Byte :=
  match (imgSections body).find? fun x => x.1 = ty with
  | some x => (body.drop x.2.1).take x.2.2
  | none => []

/-- The plan header's and the entries' words. -/
def planWord (plan : List Byte) (i : Nat) : Word := BitVec.ofNat 64 (numAt plan (8 * i) 8)

def validId (id : Nat) : Bool := decide (galleryOf id ≤ 288 ∧ slotOf id ≤ 23)

/-- An admission range is not empty and keeps to R302. -/
def rangeOk (own : Nat) (w : Word) : Bool :=
  let glo := bitsOf w 18 9
  let ghi := bitsOf w 27 9
  let whole := decide (glo ≤ ghi ∧ bitsOf w 36 5 ≤ bitsOf w 41 5)
  match bitsOf w 0 4 with
  | 1 => !bitOf w 46 || (whole && decide (glo = own ∧ ghi = own))
  | 2 => whole && decide (glo = own ∧ ghi = own)
  | 3 => whole && !decide (glo ≤ own ∧ own ≤ ghi)
  | 5 => whole && decide (289 ≤ glo ∧ ghi ≤ 510)
  | 0 => true
  | 4 => true
  | 6 => true
  | _ => false

/-- The limits of the roles (R39, R303): 46 gallery ports, 12 passages and 2 maintenance ports, which may serve as passages, 2 host
and 2 storage ports. -/
def rolesOk (kinds : List Nat) : Bool :=
  decide (kinds.count 1 + kinds.count 2 ≤ 46 ∧ kinds.count 3 + kinds.count 6 ≤ 14 ∧ kinds.count 6 ≤ 2 ∧ kinds.count 4 ≤ 2 ∧
    kinds.count 5 ≤ 2)

/-- The plan check (R303). -/
def planOk (pos : Nat) (plan : List Byte) : Bool :=
  let h := planWord plan 0
  let self := bitsOf h 0 14
  let own := galleryOf (if self = 0x3FFF then pos else self)
  let es := (List.range 64).map fun p => planWord plan (2 + p)
  let kinds := es.map fun w => bitsOf w 0 4
  let peers := (es.filter fun w => decide (bitsOf w 0 4 = 1)).map fun w => bitsOf w 4 14
  decide (528 ≤ plan.length) && rolesOk kinds && peers.all (fun x => decide (peers.count x ≤ 2)) &&
  es.all (rangeOk own) && (decide (self = 0x3FFF) || validId self) && validId (bitsOf h 16 14) &&
  (decide (bitsOf h 32 14 = 0x3FFF) || validId (bitsOf h 32 14))

/-! ### Windows (R332, R334) -/

/-- A window entry passes the gate's checks for a chamber template. -/
def windowOk (c : Chamber) (w : Win) : Bool :=
  let base := bitsOf w.w0 0 52
  let size := bitsOf w.w1 0 41
  let place := match locate base with
    | .stack s _ => c.stackMask.getLsbD s && decide (size ≤ roomAt base)
    | .tile t _ => c.sori.getLsbD (gsorusOf t) && decide (size ≤ roomAt base) && !bitOf w.w0 55
    | _ => false
  decide (bitsOf w.w1 48 16 = c.tag.toNat ∧ base % 4096 = 0 ∧ size % 4096 = 0 ∧ 4096 ≤ size) && place &&
  decide (bitsOf w.w3 12 13 = 0 ∨ (c.cntFirst ≤ bitsOf w.w3 0 12 ∧
    bitsOf w.w3 0 12 + bitsOf w.w3 12 13 ≤ c.cntFirst + c.cntNum)) &&
  decide (bitsOf w.w0 56 8 = 0 ∧ bitsOf w.w1 41 7 = 0 ∧ bitsOf w.w2 28 36 = 0 ∧ bitsOf w.w3 25 39 = 0)

/-! ### Chamber templates (R317, R469) -/

def templateBytes : Nat := 8704

/-- A template as a chamber. -/
def templateChamber (t : List Byte) : Chamber :=
  let w := planWord t 0
  { Chamber.init with
    tag := BitVec.ofNat 16 (bitsOf w 0 16)
    valid := bitOf w 16
    startPolicy := bitOf w 19
    minMembers := bitsOf w 20 13
    nwin := bitsOf w 40 9
    stackMask := BitVec.ofNat 32 (numAt t 8 4)
    cntFirst := bitsOf (planWord t 1) 32 12
    cntNum := bitsOf (planWord t 1) 44 13
    sori := BitVec.ofNat 200 (numAt t 16 25)
    members := (List.range 16).map fun j => planWord t (6 + j) }

def templateWin (t : List Byte) (i : Nat) : Win :=
  ⟨planWord t (64 + 4 * i), planWord t (65 + 4 * i), planWord t (66 + 4 * i), planWord t (67 + 4 * i)⟩

/-- The registers that a template sets (R467, R469): per memory-side die, then `VL_CHAMBER` and `VL_BOUNCE_SZ`. -/
def templateRegs (k : Nat) (t : List Byte) : SMap Word :=
  ((List.range 4).map fun d =>
    [(MS_REG_CFG d k, planWord t (22 + 4 * d)), (MS_KEEP d k, planWord t (23 + 4 * d)),
     (MS_JNL_BASE d k, planWord t (24 + 4 * d)), (MS_JNL_CTL d k, planWord t (25 + 4 * d))]).flatten ++
  [(VL_CHAMBER k, planWord t 38), (VL_BOUNCE_SZ k, planWord t 39)]

/-- Bytes of a bounce region (R418). -/
def bounceBytes (w : Word) : Nat :=
  let inS := 2 ^ bitsOf w 0 4 * (2 ^ bitsOf w 4 5 + 64)
  (0x1000 + inS + 0xFFF) / 0x1000 * 0x1000 + 2 ^ bitsOf w 12 4 * (2 ^ bitsOf w 16 5 + 64)

/-- The journal ring of a template lies in a stack of its die that the chamber owns, aligned to its size (R225). -/
def journalOk (c : Chamber) (d : Nat) (base ctl : Word) : Bool :=
  decide (bitsOf ctl 0 2 = 0) ||
  (let b := bitsOf base 0 52
   let n := 32 * 2 ^ bitsOf ctl 4 5
   (match locate b with
    | .stack s _ => decide (s / 8 = d) && c.stackMask.getLsbD s && decide (n ≤ roomAt b)
    | _ => false) && decide (b % n = 0))

/-- One template by itself; `winLog` is the size of the shared window (R317, R418, R469). -/
def templateOk (winLog : Nat) (t : List Byte) : Bool :=
  let c := templateChamber t
  !c.valid ||
  (decide (1 ≤ c.tag.toNat ∧ c.tag.toNat ≤ 0xFFFE ∧ 1 ≤ c.minMembers ∧ c.minMembers ≤ 6936 ∧ c.nwin ≤ 256 ∧
      c.cntFirst + c.cntNum ≤ 4096) &&
    (List.range 256).all (fun i => if i < c.nwin then windowOk c (templateWin t i) else decide (templateWin t i = Win.init)) &&
    (List.range 4).all (fun d => decide (bitsOf (planWord t (22 + 4 * d)) 16 14 ≤ bitsOf (planWord t (22 + 4 * d)) 0 14) &&
      journalOk c d (planWord t (24 + 4 * d)) (planWord t (25 + 4 * d))) &&
    (!bitOf (planWord t 38) 1 ||
      decide (0x1000 * bitsOf (planWord t 38) 12 36 + bounceBytes (planWord t 39) ≤ 2 ^ winLog)))

/-- Two templates share no tag, sorus, stack or counter. -/
def disjoint (a b : Chamber) : Bool :=
  !a.valid || !b.valid ||
  (decide (a.tag ≠ b.tag ∧ a.sori &&& b.sori = 0 ∧ a.stackMask &&& b.stackMask = 0) &&
    decide (a.cntNum = 0 ∨ b.cntNum = 0 ∨ a.cntFirst + a.cntNum ≤ b.cntFirst ∨ b.cntFirst + b.cntNum ≤ a.cntFirst))

/-! ### Registers (R21, R22, R202, R277, R467) -/

/-- The entries of REGISTERS. -/
def imgRegs (sec : List Byte) : SMap Word :=
  (List.range (sec.length / 16)).map fun i => (numAt sec (16 * i) 4, BitVec.ofNat 64 (numAt sec (16 * i + 8) 8))

/-- Registers with a field that a template sets. -/
def templateOwned (off : Nat) : Bool :=
  (List.range 4).any (fun d => (List.range 8).any fun k =>
    decide (off = MS_REG_CFG d k ∨ off = MS_KEEP d k ∨ off = MS_JNL_BASE d k ∨ off = MS_JNL_CTL d k ∨
      off = MS_STACK_STATE d k)) ||
  (List.range 8).any fun k => decide (off = VL_CHAMBER k ∨ off = VL_BOUNCE_SZ k)

def imgRegOk (e : Nat × Word) : Bool :=
  decide (accMask e.1 .lck ≠ 0 ∧ e.2 &&& ~~~(accMask e.1 .lck) = 0) && !templateOwned e.1

/-- A register's value once the entries of an image are loaded. -/
def loadedReg (regs : SMap Word) (off : Nat) : Word :=
  match (regs.filter fun e => e.1 = off).getLast? with
  | some e => (regReset off &&& ~~~(accMask off .lck)) ||| e.2
  | none => regReset off

/-- KiB of receive cells that a die's ports hold in reserve in one pool: 8 ports, 3 VCs, 32 cells (R274). -/
def reservedKib : Nat := 48

/-- The buffer limits of an I/O die (R277). -/
def buffersOk (regs : SMap Word) (i : Nat) : Bool :=
  let pool := loadedReg regs (FB_POOL_CFG i)
  let al := (List.range 8).map fun q => loadedReg regs (FB_PORT_ALLOT (8 * i + q))
  let rx := al.map fun w => bitsOf w 0 16
  let retry := al.map fun w => bitsOf w 16 16
  let req := bitsOf pool 0 16
  let rpl := bitsOf pool 16 16
  let top := rx.foldl max 0
  decide (8192 + retry.sum + req + rpl ≤ 32768 ∧ reservedKib + top ≤ req ∧ reservedKib + top ≤ rpl ∧
    rx.sum + 2 * reservedKib ≤ req + rpl) && (rx ++ retry).all fun n => decide (n ≤ 4096)

/-- The modes of R21 and R22. -/
def modesOk (w : Word) : Bool :=
  ((List.range 8).all fun i => decide (bitsOf w (2 * i) 2 ≠ 3)) && decide (bitsOf w 16 2 ≠ 3 ∧ bitsOf w 16 2 ≠ 1)

/-- The floors of one memory-side die add up to at most 4,096 GB/s (R202). -/
def floorsOk (ts : List (List Byte)) (d : Nat) : Bool :=
  decide (((ts.filter fun t => (templateChamber t).valid).map fun t => bitsOf (planWord t (22 + 4 * d)) 16 14).sum ≤ 8192)

/-! ### The image check (R467) -/

/-- The image that a body holds, where it passes the check; `pos` is the module id of the straps. -/
def parseImage (pos : Nat) (body : List Byte) : Option Image :=
  let plan := imgSection body 1
  let ts := (List.range 8).map fun k => ((imgSection body 2).drop (templateBytes * k)).take templateBytes
  let cs := ts.map templateChamber
  let regs := imgRegs (imgSection body 3)
  let floors := imgSection body 4
  let sec := imgSection body 5
  let h := planWord plan 0
  let s := planWord sec 0
  let winLog := bitsOf (loadedReg regs VL_CFG) 0 6
  let ok := sectionsOk body && planOk pos plan && decide ((imgSection body 2).length = 8 * templateBytes) &&
    ts.all (templateOk winLog) && (List.range 8).all (fun i => (List.range i).all fun j =>
      disjoint (cs.getD i Chamber.init) (cs.getD j Chamber.init)) &&
    regs.all imgRegOk && (List.range 8).all (buffersOk regs) && modesOk (loadedReg regs MOD_DIE_MODE) &&
    (List.range 4).all (floorsOk ts) && decide (bitsOf s 32 16 ≤ 1024)
  if !ok then none
  else some {
    loaded := true
    serial := BitVec.ofNat 32 (numAt body 0 4)
    self := BitVec.ofNat 14 (bitsOf h 0 14)
    timeSrc := BitVec.ofNat 14 (bitsOf h 16 14)
    timeBackup := BitVec.ofNat 14 (bitsOf h 32 14)
    discMs := bitsOf h 48 16
    standby := bitOf (planWord plan 1) 0
    plan := (List.range 64).map fun p => (p, planWord plan (2 + p))
    floors := (List.range 1024).filterMap fun i =>
      let v : BitVec 32 := BitVec.ofNat 32 (numAt floors (4 * i) 4)
      if v.getLsbD 31 then some (i, v) else none
    feedAllow := BitVec.ofNat 16 (bitsOf s 0 16)
    mutAuth := bitOf s 16
    jtagLock := bitOf s 17
    cmdAllow := BitVec.ofNat 6 (bitsOf s 18 6)
    chambers := cs
    windows := ((List.range 8).map fun k => (List.range (cs.getD k Chamber.init).nwin).filterMap fun i =>
      if (cs.getD k Chamber.init).valid then some (256 * k + i, templateWin (ts.getD k []) i) else none).flatten
    regs := regs ++ ((List.range 8).map fun k =>
      if (cs.getD k Chamber.init).valid then templateRegs k (ts.getD k []) else []).flatten
    deny := (List.range (bitsOf s 32 16)).map fun i => BitVec.ofNat 384 (numAt sec (64 + 48 * i) 48) }

end Sys2Proof.Machine
end

