-- ==== Sys2Proof/Machine/Trust.lean ====
section
/-! DEFINITION. Trusted firmware: the boot chain, slots, ledger, lockstep pair and watchdog (R453, R454, R460–R472). -/

namespace Sys2Proof.Machine

def tsRom : Nat := 0
def tsLoading : Nat := 1
def tsRunning : Nat := 2
def tsNoImage : Nat := 3
def tsMaint : Nat := 4
def tsHalted : Nat := 5

def setTrustState (v : Nat) : Act := setF TR_STATE TR_STATE_STATE v

/-- Trusted firmware answers. -/
def tfwAlive (m : Mod) : Bool := m.rst.powerGood && !m.trust.halted

/-- Trusted firmware halts: FAULT_N is low until a cold reset (R454, R463). -/
def haltTrust : Act := acts [
  modTrust (fun t => { t with halted := true }),
  setTrustState tsHalted,
  raiseFault]

/-! ### The retirement ledger (R216, R470–R472) -/

def ledgerCap : Nat := 32768

/-- A record of the current half, whole: the request with SEQ, GENERATION and CRC (R470). -/
def ledgerRec (req : BitVec 512) (seq gen : Nat) : BitVec 512 :=
  let b := leBytes 16 (req.toNat % 2 ^ 128) ++ leBytes 4 seq ++ leBytes 4 gen ++ leBytes 36 0
  BitVec.ofNat 512 (leNat (b ++ leBytes 4 (crc32 b)))

def lrKind (r : BitVec 512) : Nat := bitsOf r 0 8
def lrStack (r : BitVec 512) : Nat := bitsOf r 8 5
def lrCh (r : BitVec 512) : Nat := bitsOf r 13 3
def lrBank (r : BitVec 512) : Nat := bitsOf r 16 4
def lrRow (r : BitVec 512) : Nat := bitsOf r 20 18
def lrSpare (r : BitVec 512) : Nat := bitsOf r 38 9
def lrPage (r : BitVec 512) : Nat := bitsOf r 47 15

/-- TR_LEDGER follows (R479). -/
def showLedger : Act := .look fun m => acts [
  setF TR_LEDGER TR_LEDGER_GENERATION m.trust.generation.toNat,
  setF TR_LEDGER TR_LEDGER_RECORDS m.trust.used,
  setF TR_LEDGER TR_LEDGER_QUEUED (min 255 m.trust.ledgerQueue.length)]

/-- A request without the fields that the ledger adds. -/
def bareReq (kind s ch bank row spare page : Nat) (stamp : Word) : BitVec 512 :=
  BitVec.ofNat 512 (kind + s * 2 ^ 8 + ch * 2 ^ 13 + bank * 2 ^ 16 + row * 2 ^ 20 + spare * 2 ^ 38 + page * 2 ^ 47 +
    stamp.toNat * 2 ^ 64)

/-- The records of a compaction between KIND 6 and KIND 7: each valid remap entry and retired page, and each degraded or
failed stack (R472). -/
def compactReqs (m : Mod) : List (BitVec 512) :=
  ((List.range 32).map fun s =>
    ((remapEntries m s).map fun e => bareReq (bitsOf e.2 1 2) s (bitsOf e.2 3 3) (bitsOf e.2 6 4) (bitsOf e.2 10 18)
      (bitsOf e.2 28 9) 0 m.now) ++
    ((retiredPages m s).map fun p => bareReq 3 s 0 0 0 0 p.2 m.now) ++
    (if stackState m s = 6 then [bareReq 5 s 0 0 0 0 0 m.now]
     else if 123 ≤ (retiredPages m s).length then [bareReq 4 s 0 0 0 0 0 m.now] else [])).flatten

/-- The ledger is compacted into the other half, which becomes the current one (log 26). -/
def compactLedger : Act := .look fun m =>
  let gen := m.trust.generation.toNat + 1
  let reqs := bareReq 6 0 0 0 0 0 0 m.now :: compactReqs m ++ [bareReq 7 0 0 0 0 0 0 m.now]
  acts [
    modTrust (fun t => { t with
      generation := BitVec.ofNat 32 gen
      ledger := reqs.zipIdx.map fun r => ledgerRec r.1 r.2 gen
      used := reqs.length }),
    showLedger]

/-- The next queued request goes to flash, where none is under way. -/
def startAppend : Act := .look fun m =>
  let busy := m.trust.flash.any fun j => match j with
    | .append _ _ => true
    | _ => false
  match m.trust.ledgerQueue with
  | r :: rest => onlyIf (!busy) (acts [
      modTrust (fun t => { t with ledgerQueue := rest, flash := t.flash ++ [.append r false] }), showLedger])
  | [] => .nop

/-- A ledger write has ended and been read back (R471). -/
def appendDone (rec : BitVec 512) (again ok : Bool) : Act := .look fun m => acts [
  modTrust (fun t => { t with
    used := t.used + 1
    ledger := if ok then t.ledger ++ [ledgerRec rec t.used t.generation.toNat] else t.ledger
    flash := if !ok && !again then .append rec true :: t.flash else t.flash }),
  onlyIf (!ok && again) (acts [
    bumpSat TR_LEDGER TR_LEDGER_APPEND_FAILS 1,
    record (qDie mgmtDie) 0x0506 clsLasting .plain none (dpMemory 1 (lrStack rec / 8) (lrStack rec) 0 0 0) mpTfw
      (detail [(32, 8, rec.toNat % 2 ^ 64)])]),
  showLedger,
  onlyIf (decide (ledgerCap - (m.trust.used + 1) < 1024)) compactLedger,
  startAppend]

/-- A memory-side die's oldest request reaches trusted firmware, which queues up to 256. -/
def execLedgerRequest (d : Fin 4) (s : State) : Result := done (.look fun m =>
  match (m.mdie d).ledgerReqs with
  | [] => .nop
  | r :: rest => onlyIf (tfwAlive m && decide (m.trust.ledgerQueue.length < 256)) (acts [
      modMDie d (fun x => { x with ledgerReqs := rest }),
      modTrust (fun t => { t with ledgerQueue := t.ledgerQueue ++ [r] }),
      showLedger,
      startAppend])) s

/-- A remap of the ledger takes its entry: a row's LEVEL 2 keeps the place of its LEVEL 1 (R213). -/
def loadRemap (s : Nat) (r : BitVec 512) : Act := .look fun m =>
  let es := remapEntries m s
  let key := lrCh r + 8 * lrBank r + 128 * lrRow r
  let place := ((es.find? fun e => bitsOf e.2 3 25 = key).map (·.1)).or (lowestFree 256 (es.map (·.1)))
  match place with
  | some e => acts [
      .upd (.reg (MS_REMAP (s / 8) (s % 8) e)
        (BitVec.ofNat 64 (1 + lrKind r * 2 + key * 2 ^ 3 + lrSpare r * 2 ^ 28))),
      modStk s fun x => { x with
        spares := x.spares.put (16 * lrCh r + lrBank r) (max (x.spares.getD (16 * lrCh r + lrBank r) 0) (lrSpare r + 1)) }]
  | none => .nop

/-- A retired page of the ledger: its remaps are dropped (R216). -/
def loadPage (s page : Nat) : Act := .look fun m =>
  if (retiredPages m s).any fun p => p.2 = page then .nop
  else acts [
    forEach ((remapEntries m s).filter fun r => entryPage r.2 = page) (fun r =>
      .upd (.reg (MS_REMAP (s / 8) (s % 8) r.1) 0)),
    match lowestFree 512 ((retiredPages m s).map (·.1)) with
    | some e => .upd (.reg (MS_RETIRED (s / 8) (s % 8) e) (BitVec.ofNat 64 (1 + 2 * page)))
    | none => .nop]

/-- The tables of a stack are loaded anew from the ledger (R216, R472, R494). -/
def loadStack (s : Nat) : Act := acts [
  .look fun m => acts [
    forEach (remapEntries m s) (fun r => .upd (.reg (MS_REMAP (s / 8) (s % 8) r.1) 0)),
    forEach (retiredPages m s) fun r => .upd (.reg (MS_RETIRED (s / 8) (s % 8) r.1) 0)],
  modStk s (fun x => { x with spares := [] }),
  setF (stackReg s) MS_STACK_STATE_STATE 0,
  .look fun m => forEach (m.trust.ledger.filter fun r => lrStack r = s) fun r =>
    if lrKind r = 1 ∨ lrKind r = 2 then
      onlyIf (!(retiredPages m s).any fun p => p.2 = lrRow r / 8) (loadRemap s r)
    else if lrKind r = 3 then loadPage s (lrPage r)
    else if lrKind r = 5 then setF (stackReg s) MS_STACK_STATE_STATE 6
    else .nop,
  stackCounts s]

def loadTables (stks : List Nat) : Act := forEach stks loadStack

/-! ### Choosing slots (R462, R463, R466) -/

/-- An object in a slot verifies and is no rollback; an image also passes its check. -/
def slotGood (b : BootKind) (kind n : Nat) : Bool :=
  let s := b.slot n
  s.good && decide (b.svnMin ≤ s.svn) && (decide (kind ≠ 3) || s.image.isSome)

/-- The slot of a kind that starts: the pending slot while its tries last, else the active one; the other slot where
that one does not verify. -/
def chooseSlot (kind : Nat) : Act := .look fun m =>
  let b := kindOf m.trust kind
  let over3 := decide (3 ≤ b.tries)
  let pend := if over3 then none else b.pending
  let first := pend.getD b.active
  let use := if slotGood b kind first then some first
    else if slotGood b kind (1 - first) then some (1 - first) else none
  acts [
    onlyIf (over3 && b.pending.isSome)
      (record (qDie mgmtDie) 0x0E04 clsLasting .plain none dpNone mpTfw (detail [(32, 1, kind)])),
    onlyIf (decide (use.isSome ∧ use ≠ some first))
      (record (qDie mgmtDie) 0x0E04 clsLasting .plain none dpNone mpTfw (detail [(32, 1, kind), (33, 1, 1)])),
    modKind kind (fun b => { b with
      pending := pend
      tries := if pend.isSome then b.tries + 1 else if over3 then 0 else b.tries
      trying := pend.isSome && decide (use = pend)
      active := if pend.isSome then b.active else use.getD b.active })]

/-- True where a kind has an object that starts. -/
def kindStarts (m : Mod) (kind : Nat) : Bool := slotGood (kindOf m.trust kind) kind (kindOf m.trust kind).runs

/-! ### Loading an image (R463 step 6, R465, R468) -/

/-- An LCK register of the image takes its value. -/
def loadLck (e : Nat × Word) : Act := .look fun m =>
  let k := accMask e.1 .lck
  .upd (.reg e.1 ((m.reg e.1 &&& ~~~k) ||| (e.2 &&& k)))

/-- The Volosh ports of the plan (R399, R427). -/
def loadVoloshPorts (img : Image) : Act :=
  let ps := (List.range 64).filter fun p => bitsOf (img.plan.getD p 0) 0 4 = 4
  acts [
    setF VL_PORTS VL_PORTS_PORT0 (ps.getD 0 0), setF VL_PORTS VL_PORTS_PORT0_VALID (b01 (decide (1 ≤ ps.length))),
    setF VL_PORTS VL_PORTS_PORT1 (ps.getD 1 0), setF VL_PORTS VL_PORTS_PORT1_VALID (b01 (decide (2 ≤ ps.length)))]

/-- A chamber of the image: its stacks take their owner, and it is Held. -/
def loadChamber (k : Nat) (c : Chamber) : Act := acts [
  .look fun m => .upd (.chambers (m.chambers.put k c)),
  onlyIf c.valid (acts [
    forEach ((List.range 32).filter fun s => c.stackMask.getLsbD s) (fun s => acts [
      setF (stackReg s) MS_STACK_STATE_OWNER k, setF (stackReg s) MS_STACK_STATE_OWNER_VALID 1]),
    .look fun m => onlyIf (confidential m k) (setF (VL_CONF_STATE k) VL_CONF_STATE_STATE 1)])]

def loadImage (img : Image) : Act := acts [
  modTrust (fun t => { t with image := img }),
  forEach img.regs loadLck,
  loadVoloshPorts img,
  setF TR_IMAGE TR_IMAGE_SERIAL img.serial.toNat,
  forEach (List.range 8) (fun k => loadChamber k (img.chambers.getD k Chamber.init)),
  .upd (.windows img.windows)]

/-! ### The commissioning store at a start (R398, R473) -/

/-- The REF code at a place of a part. -/
def refAt (m : Mod) (part n : Nat) : Option Nat :=
  let bs := (((m.trust.commParts.get? part).getD []).drop (2 * n)).take 2
  if bs.length = 2 then some (leNat bs) else none

def loadRef (part n off : Nat) (f : Fld) : Act := .look fun m =>
  match refAt m part n with
  | some v => setF off f v
  | none => .nop

/-- The REF codes of lanes and comb lines. -/
def loadRefs : Act := acts [
  forEach (List.range 64) (fun p => forEach (List.range 18) fun l => acts [
    loadRef 2 (36 * p + l) (PT_TX_LANE p l) PT_TX_LANE_REF,
    loadRef 2 (36 * p + 18 + l) (PT_RX_LANE p l) PT_RX_LANE_REF]),
  forEach (List.range 16) fun f => forEach (List.range 18) fun l =>
    loadRef 3 (18 * f + l) (LS_LINE f l) LS_LINE_REF]

/-- Retired lanes with the spares that hold them (R297) and the first active feed of each die come from the store. -/
def loadStore : Act := .look fun m =>
  let t := m.trust
  acts [
    onlyIf t.commParts.isEmpty (record (qDie mgmtDie) 0x0E00 clsLasting .plain none dpNone mpTfw 0),
    forEach (List.range 64) (fun p => acts [
      modPort p (fun x => { x with retiredTx := t.svcRetiredTx.getD p [], retiredRx := t.svcRetiredRx.getD p [] }),
      forEach (t.svcSpare.getD p []) (fun s => setSpare p s.1 3 s.2),
      laneBits p]),
    loadRefs,
    forEach (List.range 8) fun i => setF (LS_DIE i) LS_DIE_ACTIVE (b01 (t.feedFailed.contains (2 * i)))]

/-- Step 4 of a start for the ledger: with no KIND 7 record it is lost (R472). -/
def loadLedger : Act := .look fun m =>
  if m.trust.ledger.any fun r => lrKind r = 7 then loadTables (List.range 32)
  else acts [
    modTrust (fun t => { t with ledger := [] }),
    loadTables (List.range 32),
    record (qDie mgmtDie) 0x0500 clsLasting .plain none dpNone mpTfw 0,
    compactLedger]

/-! ### The boot chain (R463) -/

/-- Step 8: the dies in configuration hold leave loop-back. -/
def releaseDies : Act := modRst fun r => { r with phaseB := true }

/-- Steps 5 to 8. -/
def bootImage : Act := acts [
  chooseSlot 3,
  .look fun m =>
    let img := if kindStarts m 3 then ((m.trust.img.slot m.trust.img.runs).image).getD Image.none else Image.none
    acts [
      loadImage img,
      onlyIf (img.loaded && decide (img.self ≠ 0x3FFF ∧ img.self.toNat ≠ m.selfId)) (strapRecord 2),
      onlyIf (!img.loaded) (record (qDie mgmtDie) 0x0E05 clsLasting .critical none dpNone mpTfw 0)],
  chooseSlot 2,
  .look fun m =>
    let up := kindStarts m 2
    acts [
      modTrust (fun t => { t with
        sfwUp := up
        confirmWait := t.tfw.trying || t.img.trying || t.sfw.trying }),
      onlyIf (!up) (record (qDie mgmtDie) 0x0E04 clsLasting .plain none dpNone mpTfw (detail [(32, 1, 2), (33, 1, 2)])),
      setTrustState (if !m.trust.image.loaded then tsNoImage else if m.trust.maint then tsMaint else tsRunning)],
  showTrust,
  releaseDies]

/-- The boot header is rewritten at each start; where both copies were bad it is written anew, naming the slots that
started (R460). -/
def writeHeader : Act := .look fun m =>
  let t := m.trust
  acts [
    onlyIf (!t.headerOk) (record (qDie mgmtDie) 0x0E06 clsLasting .plain none dpNone mpTfw 0),
    onlyIf (!t.headerOk) (setF TR_BOOT TR_BOOT_COLD_STARTS 1),
    modTrust fun t => { t with
      headerSeq := if t.headerOk then t.headerSeq + 1 else 1
      coldStarts := if t.headerOk then t.coldStarts else 1
      headerOk := true }]

/-- Steps 3 to 8 of a start (R463): the update under way is abandoned (R464). -/
def bootSteps : Act := acts [
  setTrustState tsLoading,
  modTrust (fun t => { t with
    updates := []
    commPend := []
    maint := false
    tfw := if t.headerOk then t.tfw else { t.tfw with active := 0, pending := none, tries := 0 }
    sfw := if t.headerOk then t.sfw else { t.sfw with active := 0, pending := none, tries := 0 }
    img := if t.headerOk then t.img else { t.img with active := 0, pending := none, tries := 0 } }),
  .look fun m => modTrust fun t => { t with maint := decide (m.fld MOD_POSITION MOD_POSITION_BOOT_MODE = 1) },
  modPins (fun p => { p with xspiReset := true, phyReset := true }),
  chooseSlot 1,
  .look fun m =>
    if !kindStarts m 1 then haltTrust
    else acts [
      loadStore,
      loadLedger,
      bootImage,
      writeHeader]]

/-- The start goes on once the straps are known; with TEST_EN only step 1 runs (R298, R463; log 27). -/
def bootWhenReady : Act := .look fun m =>
  onlyIf (m.rst.powerGood && !m.rst.resetHeld && !m.trust.halted && m.flag MOD_POSITION MOD_POSITION_STRAPS_VALID &&
    !m.flag MOD_POSITION MOD_POSITION_TEST_EN && !m.rst.phaseB) bootSteps

/-- The straps are sampled once after cold start (R298). -/
def execStrapSample (v : Straps) (s : State) : Result := done (.look fun m =>
  if m.flag MOD_POSITION MOD_POSITION_STRAPS_VALID ∨ !m.rst.powerGood then .nop
  else
    let id := 32 * v.gallery.toNat + v.slot.toNat
    acts [
      setF MOD_POSITION MOD_POSITION_MODULE_ID id,
      setF MOD_POSITION MOD_POSITION_BOOT_MODE v.bootMode.toNat,
      setF MOD_POSITION MOD_POSITION_TEST_EN (b01 v.testEn),
      setF MOD_POSITION MOD_POSITION_STRAPS_VALID 1,
      modTrust (fun t => { t with testEn := v.testEn }),
      onlyIf (decide (v.bootMode = 3)) (strapRecord 3),
      onlyIf (decide (289 ≤ galleryOf id ∨ 24 ≤ slotOf id)) (strapRecord 1),
      bootWhenReady]) s

/-! ### Confirmation, watchdog, lockstep (R453, R454, R466) -/

/-- A pending slot that has started is confirmed: the die presence of the previous start is met. -/
def confirmKind (b : BootKind) : BootKind :=
  match b.trying, b.pending with
  | true, some n => { b with
      active := n
      pending := none
      tries := 0
      trying := false
      svnMin := if (b.slot n).commit then max b.svnMin (b.slot n).svn else b.svnMin }
  | _, _ => b

def execSlotConfirm (s : State) : Result := done (.look fun m =>
  onlyIf (m.trust.confirmWait && !m.trust.halted && m.trust.prevDies.all m.dieRuns) (acts [
    modTrust (fun t => { t with
      tfw := confirmKind t.tfw
      sfw := confirmKind t.sfw
      img := confirmKind t.img
      confirmWait := false
      headerSeq := t.headerSeq + 1 }),
    showTrust])) s

/-- Service firmware, silent for 1 s, is started again from its slot; its scores go on from those last exported (R521). -/
def execSfwWatchdog (s : State) : Result := done (.look fun m =>
  onlyIf (m.trust.sfwUp && tfwAlive m) (acts [
    modTrust (fun t => { t with sfwUp := slotGood t.sfw 2 t.sfw.runs }),
    .upd (.scores m.scoresSent (m.alerted.filter fun k => decide (0 < m.scoresSent.getD k 0))),
    record (qDie mgmtDie) 0x0E03 clsLasting .plain none dpNone mpTfw 0])) s

/-- The lockstep cores disagree: the pair restarts and gate requests in progress end with RESTART, or trusted firmware
halts at a second mismatch within 1 s. -/
def execLockstepMismatch (pc : Word) (within1s : Bool) (s : State) : Result := done (.look fun m =>
  let second := within1s && decide (0 < m.fld TR_STATE TR_STATE_LOCKSTEP)
  onlyIf (tfwAlive m) (acts [
    bumpSat TR_STATE TR_STATE_LOCKSTEP 1,
    record (qDie mgmtDie) 0x0E02 clsLasting (if second then .critical else .plain) none dpNone mpTfw
      (detail [(32, 1, if second then 2 else 1), (40, 8, pc.toNat)]),
    if second then haltTrust
    else acts [
      modTrust (fun t => { t with flash := t.flash.filter fun j => match j with
        | .gate _ _ => false
        | _ => true }),
      forEach ((List.range 3).filter fun mb => m.flag (TR_GATE_STAT mb) TR_GATE_STAT_BUSY) fun mb =>
        answerGate mb (m.fld (TR_GATE_STAT mb) TR_GATE_STAT_GATE) 9]])) s

end Sys2Proof.Machine
end

