-- ==== Sys2Proof/Machine/Gates.lean ====
section
/-! DEFINITION. The gates of trusted firmware (R222, R334, R371, R455–R458, R464, R465, R474) and the flash writes that
some of them wait for. A gate's command is the request, its arguments and staging page, as trusted firmware takes it. -/

namespace Sys2Proof.Machine

/-! ### A request (R455, R456) -/

def rOk : Nat := 0
def rUnknown : Nat := 1
def rRequester : Nat := 2
def rPolicy : Nat := 3
def rCheck : Nat := 4
def rBusy : Nat := 5
def rState : Nat := 6
def rSignature : Nat := 7
def rRollback : Nat := 8

/-- A mailbox's requester can reach it: the companion needs the TRUST bit of REG_MASK and a Volosh port, the fault
manager a control session. -/
def mbOpen (m : Mod) (mb : Nat) : Bool :=
  if mb = 0 then true
  else if mb = 1 then voloshUp m && reaches m .companion (TR_GATE_CTL 1)
  else m.sessions.any (·.control)

/-- The words of a staging page. -/
def pageWord (page : List Byte) (w : Nat) : Word := wordAt page (8 * w)

/-- The requester's writes before GO. -/
def fillMailbox (mb gate : Nat) (args : List Word) (page : Option (List Byte)) : Act := acts [
  setF (TR_GATE_CTL mb) TR_GATE_CTL_GATE gate,
  forEach args.zipIdx (fun a => .upd (.reg (TR_GATE_ARG mb a.2) a.1)),
  match page with
  | some bs => onlyIf (decide (mb = 1 ∨ mb = 2)) (forEach (List.range 512) fun w =>
      .upd (.reg (TR_STAGE mb w) (pageWord bs w)))
  | none => .nop]

/-- The mailbox holds just this request. -/
def mailboxHolds (m : Mod) (mb gate : Nat) (args : List Word) (page : Option (List Byte)) : Bool :=
  decide (m.fld (TR_GATE_CTL mb) TR_GATE_CTL_GATE = gate) && m.flag (TR_GATE_CTL mb) TR_GATE_CTL_GO &&
  (args.zipIdx.all fun a => decide (m.reg (TR_GATE_ARG mb a.2) = a.1)) &&
  (match page with
   | some bs => (List.range 512).all fun w => decide (m.reg (TR_STAGE mb w) = pageWord bs w)
   | none => true)

/-- A flash write of a mailbox's request is under way. -/
def gateInFlash (m : Mod) (mb : Nat) : Bool := m.trust.flash.any fun j => match j with
  | .gate n _ => decide (n = mb)
  | _ => false

/-- The states in which trusted firmware takes gates; without an image only an update from mailbox 2 (R468). -/
def gateAllowed (m : Mod) (mb gate : Nat) : Bool :=
  let st := m.fld TR_STATE TR_STATE_STATE
  decide (st = tsRunning ∨ st = tsMaint) || decide (st = tsNoImage ∧ mb = 2 ∧ (gate = 6 ∨ gate = 7))

/-- What a gate is: its number, the mailboxes it is open to, and whether it waits for a flash write. -/
structure Gate where
  num : Nat
  mbs : List Nat
  flash : Bool
  deriving DecidableEq, Repr

/-- A gate request: where a mailbox has none under way, the command is the requester's writes with GO; where GO has been
written before, it is trusted firmware's taking of that request. Arguments with reserved bits are UNKNOWN. -/
def gateCmd (g : Gate) (mb : Nat) (args : List Word) (page : Option (List Byte)) (reserved : Bool) (check : Mod → Nat)
    (effect : Act) : Act := .look fun m =>
  let busy := m.flag (TR_GATE_STAT mb) TR_GATE_STAT_BUSY
  let due := if busy then mailboxHolds m mb g.num args page && !gateInFlash m mb else mbOpen m mb
  if !tfwAlive m || !due then .nop
  else acts [
    onlyIf (!busy) (fillMailbox mb g.num args page),
    .look fun m =>
      let code := if !g.mbs.contains mb then rRequester
        else if reserved then rUnknown
        else if !gateAllowed m mb g.num then rState
        else check m
      if code ≠ rOk then answerGate mb g.num code
      else if g.flash then acts [
        effect,
        setF (TR_GATE_STAT mb) TR_GATE_STAT_BUSY 1,
        setF (TR_GATE_STAT mb) TR_GATE_STAT_GATE g.num,
        setF (TR_GATE_CTL mb) TR_GATE_CTL_GO 1,
        modTrust fun t => { t with flash := t.flash ++ [.gate mb g.num] }]
      else acts [effect, answerGate mb g.num rOk]]

/-! ### WINDOW (R334, R335) -/

def gWindow : Gate := ⟨1, [1, 2], false⟩

def execWindowGate (mb : Fin 3) (k win w0 w1 w2 w3 : Word) (s : State) : Result :=
  done (gateCmd gWindow mb [k, win, w0, w1, w2, w3] none (decide (8 ≤ k.toNat ∨ 256 ≤ win.toNat))
    (fun m => let c := m.chamber k.toNat
      if c.valid && windowOk c ⟨w0, w1, w2, w3⟩ then rOk else rCheck)
    (.look fun m => .upd (.winNext (m.winNext.put (256 * k.toNat + win.toNat) ⟨w0, w1, w2, w3⟩)))) s

/-! ### Feeds (R371, R391) -/

def gFeed : Gate := ⟨2, [0, 2], false⟩

def execFeedEnable (mb : Fin 3) (feed : Word) (s : State) : Result :=
  done (gateCmd gFeed mb [feed, 1] none (decide (16 ≤ feed.toNat))
    (fun m => if !m.trust.image.feedAllow.getLsbD feed.toNat then rPolicy
      else if feedMayRise m feed.toNat then rOk else rCheck)
    (.look fun m => acts [
      setF (LS_FEED_CTL feed.toNat) LS_FEED_CTL_ENABLE 1,
      onlyIf (!m.pins.laserEn.getLsbD feed.toNat) (startPilot feed.toNat)])) s

/-- A disabled feed goes dark: no lane selects it. -/
def execFeedDisable (mb : Fin 3) (feed : Word) (s : State) : Result :=
  done (gateCmd gFeed mb [feed, 0] none (decide (16 ≤ feed.toNat))
    (fun m => if feedSelected m feed.toNat then rState else rOk)
    (acts [
      setF (LS_FEED_CTL feed.toNat) LS_FEED_CTL_ENABLE 0,
      setLaser feed.toNat false,
      .look fun m => setF (LS_FEED_STAT feed.toNat) LS_FEED_STAT_STATE
        (if m.flag (LS_FEED_STAT feed.toNat) LS_FEED_STAT_FAULT_N then 0 else 5)])) s

def gHand : Gate := ⟨3, [0, 2], false⟩

def execFeedHandover (mb : Fin 3) (io feed : Word) (s : State) : Result :=
  done (gateCmd gHand mb [io, feed] none (decide (8 ≤ io.toNat ∨ 16 ≤ feed.toNat))
    (fun m =>
      if (m.iodie io.toNat).hand.isSome then rBusy
      else if feed.toNat / 2 = io.toNat ∧ feed.toNat ≠ activeFeed m io.toNat then rOk else rCheck)
    (acts [
      setF (LS_DIE io.toNat) LS_DIE_REQ (feed.toNat % 2),
      handOver io.toNat feed.toNat])) s

/-! ### STACK_MAINT (R222, R223) -/

def gStack : Gate := ⟨4, [0, 2], false⟩

def stackNo (d c : Word) : Nat := 8 * d.toNat + c.toNat

/-- The gate's checks: maintenance mode, or no owner; a stack not clearing or margining; margining only on a stack out of
service; one isolated for temperature is touched only once it reads below 85 °C (R220). -/
def stackCheck (margin : Bool) (d c : Word) (m : Mod) : Nat :=
  let s := stackNo d c
  let st := stackState m s
  if st = 7 ∨ st = 4 ∨ m.flag (MS_MAINT d.toNat) MS_MAINT_BUSY then rBusy
  else if !(m.trust.maint || (stackOwner m s).isNone) then rState
  else if !m.dieRuns (memDie d.toNat) then rState
  else if margin then
    (if st = 3 ∨ (st = 5 ∧ toSigned 8 (m.fld (stackReg s) MS_STACK_STATE_TEMP) < 85) then rOk else rCheck)
  else if st = 1 ∨ st = 2 ∨ st = 3 ∨ (st = 5 ∧ toSigned 8 (m.fld (stackReg s) MS_STACK_STATE_TEMP) < 85) then rOk
  else rCheck

def maintWords (d c : Word) (action : Nat) : Act := acts [
  setF (MS_MAINT d.toNat) MS_MAINT_STACK c.toNat,
  setF (MS_MAINT d.toNat) MS_MAINT_ACTION action]

/-- Margining begins: admission closes, held accesses complete with UNAVAILABLE, the stack's lines go. -/
def startMargin (d c : Word) (action : Nat) : Act := acts [
  maintWords d c action,
  setF (MS_MAINT d.toNat) MS_MAINT_BUSY 1,
  setF (stackReg (stackNo d c)) MS_STACK_STATE_STATE 4,
  failHeld (stackNo d c),
  dropLines (stackNo d c),
  modStk (stackNo d c) fun x => { x with action := action, selfRefresh := false }]

def execStackMargin (mb : Fin 3) (d c : Word) (s : State) : Result :=
  done (gateCmd gStack mb [d, c, 1] none (decide (4 ≤ d.toNat ∨ 8 ≤ c.toNat)) (stackCheck true d c)
    (startMargin d c 1)) s

def execStackMarginReturn (mb : Fin 3) (d c : Word) (s : State) : Result :=
  done (gateCmd gStack mb [d, c, 2] none (decide (4 ≤ d.toNat ∨ 8 ≤ c.toNat)) (stackCheck true d c)
    (startMargin d c 2)) s

def execStackRemove (mb : Fin 3) (d c : Word) (s : State) : Result :=
  done (gateCmd gStack mb [d, c, 3] none (decide (4 ≤ d.toNat ∨ 8 ≤ c.toNat)) (stackCheck false d c)
    (acts [
      maintWords d c 3,
      failHeld (stackNo d c),
      setF (stackReg (stackNo d c)) MS_STACK_STATE_STATE 3,
      serveStack (stackNo d c)])) s

/-! ### TIME_START (R326) -/

/-- The value from which the source counts. The hardware loads it once, as the fabric starts (R448, R484): one that comes later
is not loaded (log 30). -/
def startTime (v : Word) : Act := .upd (.reg TM_START v)

def gTime : Gate := ⟨5, [1, 2], false⟩

def execTimeStart (mb : Fin 3) (v : Word) (s : State) : Result :=
  done (gateCmd gTime mb [v] none false
    (fun m => if isSource m && !m.fabric.opened then rOk else rState)
    (startTime v)) s

/-! ### Updates (R464, R465) -/

def gChunk : Gate := ⟨6, [1, 2], true⟩
def gCommit : Gate := ⟨7, [1, 2], true⟩

def updateOf (t : Trust) (kind : Nat) : Option Update := t.updates.find? fun u => u.kind = kind

/-- The slot that an update writes. -/
def BootKind.inactive (b : BootKind) : Nat := 1 - b.active

/-- A kind's open update takes a chunk; the first one erases the slot. -/
def putChunk (kind mb idx : Nat) (page : List Byte) : Act := .look fun m => acts [
  onlyIf (updateOf m.trust kind).isNone
    (modKind kind fun b => { b with slots := setAt b.slots b.inactive slotEmpty }),
  modTrust fun t =>
    let old := ((updateOf t kind).map (·.chunks)).getD []
    { t with updates := (t.updates.filter fun u => u.kind ≠ kind) ++
        [⟨kind, mb, (old.filter fun c => c.1 ≠ idx) ++ [(idx, page)]⟩] }]

def execUpdateChunk (mb : Fin 3) (kind idx : Word) (page : List Byte) (s : State) : Result :=
  done (gateCmd gChunk mb [kind, idx] (some page) false
    (fun m =>
      if !(decide (1 ≤ kind.toNat ∧ kind.toNat ≤ 3)) then rCheck
      else if (updateOf m.trust kind.toNat).any fun u => u.mailbox ≠ mb.val then rBusy
      else if idx.toNat < slotSize kind.toNat / 4096 then rOk else rCheck)
    (putChunk kind.toNat mb idx.toNat page)) s

/-- The bytes that an update has written, from the slot's start, up to a length; none where a chunk is missing. -/
def updateBytes (u : Update) (len : Nat) : Option (List Byte) :=
  let cs := (List.range ((len + 4095) / 4096)).map fun i => (u.chunks.find? fun c => c.1 = i).map (·.2)
  if cs.all (·.isSome) then some ((cs.map fun c => c.getD []).flatten) else none

/-- R462 and R467 for a written slot. -/
def commitCode (m : Mod) (mb kind len : Nat) (sigOk : Bool) : Nat :=
  match updateOf m.trust kind with
  | none => rState
  | some u =>
    if u.mailbox ≠ mb then rBusy
    else match updateBytes u len with
      | none => rCheck
      | some bs =>
        if !objFormOk kind bs ∨ len < 4096 + objLen bs then rCheck
        else if !sigOk then rSignature
        else if objSvn bs < (kindOf m.trust kind).svnMin then rRollback
        else if kind = 3 ∧ (parseImage (m.fld MOD_POSITION MOD_POSITION_MODULE_ID) (objBody bs)).isNone then rCheck
        else rOk

/-- The slot of a verified object. -/
def writtenSlot (m : Mod) (kind : Nat) (bs : List Byte) : Slot :=
  { good := true
    svn := objSvn bs
    commit := decide (numAt bs 6 1 = 1)
    measurement := objMeasurement bs
    image := if kind = 3 then parseImage (m.fld MOD_POSITION MOD_POSITION_MODULE_ID) (objBody bs) else none }

/-- A commit closes the update: the slot holds the object, and PENDING follows once the boot header is written. -/
def commitSlot (kind len : Nat) : Act := .look fun m =>
  match updateOf m.trust kind with
  | none => .nop
  | some u => acts [
      modKind kind (fun b => { b with
        slots := setAt b.slots b.inactive (writtenSlot m kind ((updateBytes u len).getD [])) }),
      modTrust fun t => { t with updates := t.updates.filter fun u => u.kind ≠ kind }]

def execUpdateCommit (mb : Fin 3) (kind len : Word) (sigOk : Bool) (s : State) : Result :=
  done (gateCmd gCommit mb [kind, len] none false
    (fun m => if !(decide (1 ≤ kind.toNat ∧ kind.toNat ≤ 3)) ∨ slotSize kind.toNat < len.toNat then rCheck
      else commitCode m mb kind.toNat len.toNat sigOk)
    (commitSlot kind.toNat len.toNat)) s

/-! ### COMMAND (R458) -/

def gCommand : Gate := ⟨8, [2], false⟩

/-- A command of the fault manager, where CMD_ALLOW has its bit. -/
def command (mb : Nat) (n : Nat) (operands : List Word) (reserved : Bool) (check : Mod → Nat) (effect : Act) : Act :=
  gateCmd gCommand mb (BitVec.ofNat 64 n :: operands) none reserved
    (fun m => if !m.trust.image.cmdAllow.getLsbD (n - 1) then rPolicy else check m) effect

def execIsolateDie (mb : Fin 3) (die : Word) (s : State) : Result :=
  done (command mb 1 [die] (decide (22 ≤ die.toNat))
    (fun m => if die.toNat = mgmtDie ∨ m.dieState die.toNat < 2 then rCheck else rOk)
    (acts [isolate die.toNat 1, setF (DD_DIE die.toNat) DD_DIE_HELD 1])) s

def execWithdrawCommand (mb : Fin 3) (s : State) : Result :=
  done (command mb 2 [] false
    (fun m => if m.fabric.withdrawing ∨ m.fabric.withdrawn then rState else rOk)
    (startWithdraw 1)) s

/-- START_SHADOW's fields (R524). -/
def shChamber (a : Word) : Nat := bitsOf a 0 3
def shType (a : Word) : Nat := bitsOf a 3 3
def shElem (ty : Nat) : Nat := if ty = 0 then 4 else if ty = 3 then 1 else 2

def execStartShadow (mb : Fin 3) (a0 a1 a2 a3 a4 : Word) (s : State) : Result :=
  let k := shChamber a1
  let len := a3.toNat
  let step := bitsOf a4 0 12
  let fin := bitsOf a4 16 12
  done (command mb 3 [a0, a1, a2, a3, a4]
    (decide (2 ^ 14 ≤ a0.toNat ∨ 2 ^ 6 ≤ a1.toNat ∨ 4 ≤ shType a1 ∨ bitsOf a4 12 4 ≠ 0 ∨ 2 ^ 28 ≤ a4.toNat))
    (fun m =>
      let c := m.chamber k
      let place := match locate a2.toNat with
        | .stack st _ => decide (stackOwner m st = some k ∧ len ≤ roomAt a2.toNat)
        | _ => false
      let inR : Nat → Bool := fun n => decide (c.cntFirst ≤ n ∧ n < c.cntFirst + c.cntNum)
      if m.shadow.isSome then rBusy
      else if c.valid && place && decide (a2.toNat % 64 = 0 ∧ len ≤ 2 ^ 26 ∧ len % shElem (shType a1) = 0) &&
        inR step && inR fin && validId a0.toNat then rOk else rCheck)
    (.look fun m => acts [
      .upd (.shadow (some {
        source := BitVec.ofNat 14 a0.toNat
        chamber := k
        ety := shType a1
        base := a2.toNat
        len := len
        stepCnt := step
        doneCnt := fin
        steps := []
        running := none
        own := []
        peer := []
        lastStep := 0 })),
      .upd (.reg ER_SHADOW_STAT 0),
      setF ER_SHADOW_STAT ER_SHADOW_STAT_ROLE (if a0.toNat = m.selfId then 1 else 2)])) s

def execClearChamber (mb : Fin 3) (k : Word) (s : State) : Result :=
  done (command mb 4 [k] (decide (8 ≤ k.toNat))
    (fun m => if !(m.chamber k.toNat).valid then rCheck else if (m.chamber k.toNat).clearing then rBusy else rOk)
    (clearChamber k.toNat)) s

/-- Every launch is cancelled and the chambers are Held. -/
def enterMaint : Act := acts [
  modTrust (fun t => { t with maint := true }),
  setTrustState tsMaint,
  .look fun m => forEach (List.range 8) fun k => onlyIf (m.chamber k).valid (acts [
    forEach (launchesOf m k) cancelLaunch,
    setChamber k chHeld])]

def execMaintEnter (mb : Fin 3) (s : State) : Result :=
  done (command mb 5 [] false (fun m => if m.trust.maint then rState else rOk) enterMaint) s

def execMaintLeave (mb : Fin 3) (s : State) : Result :=
  done (command mb 6 [] false
    (fun m => if !m.trust.maint ∨ m.fld MOD_POSITION MOD_POSITION_BOOT_MODE = 1 then rState else rOk)
    (acts [
      modTrust (fun t => { t with maint := false }),
      setTrustState tsRunning,
      decideChambers])) s

/-! ### COMMISSION (R473, R474) -/

def gCommission : Gate := ⟨9, [2], true⟩

/-- Bytes of the parts that COMMISSION writes, numbered in the order of R473 (log 28). -/
def partSize (n : Nat) : Nat :=
  if n = 0 then 4096 else if n = 1 then 8192 else if n = 2 then 4608 else if n = 3 then 608 else 1024

/-- OPERATOR_ROOT as the header part holds it (log 28). -/
def rootOf (part0 : List Byte) : List Byte := (part0.drop 64).take 48

/-- A change of the root, or of the enrolment chain, once a root is set. -/
def rootGuarded (m : Mod) (part : Nat) (page : List Byte) : Bool :=
  m.trust.operatorRoot && (decide (part = 1) ||
    decide (part = 0 ∧ rootOf page ≠ rootOf (m.trust.commParts.getD 0 [])))

def execCommission (mb : Fin 3) (part : Word) (last : Bool) (page : List Byte) (rootSigned : Bool) (s : State) : Result :=
  done (gateCmd gCommission mb [part, BitVec.ofNat 64 (b01 last)] (some page) (decide (5 ≤ part.toNat))
    (fun m => if !m.trust.maint then rState
      else if rootGuarded m part.toNat page && !rootSigned then rSignature else rOk)
    (modTrust fun t => { t with commPend := t.commPend ++ [(part.toNat, page)] })) s

/-! ### Flash writes that end (R455, R465, R471, R474) -/

/-- A mailbox's argument word as a number. -/
def argOf (m : Mod) (mb w : Nat) : Nat := (m.reg (TR_GATE_ARG mb w)).toNat

/-- The pages of a part, applied together. -/
def applyPart (part : Nat) : Act := modTrust fun t =>
  let bs := (((t.commPend.filter fun x => x.1 = part).map (·.2)).flatten).take (partSize part)
  { t with
    commParts := t.commParts.put part bs
    commPend := t.commPend.filter fun x => x.1 ≠ part
    operatorRoot := if part = 0 then decide (leNat (rootOf bs) ≠ 0) else t.operatorRoot }

/-- The last page taken for a part is dropped. -/
def dropPage (part : Nat) (l : List (Nat × List Byte)) : List (Nat × List Byte) :=
  match l.reverse.find? (fun x => x.1 = part) with
  | some x => (l.reverse.erase x).reverse
  | none => l

/-- What a gate's flash write brings where it succeeds. -/
def gateWritten (mb gate : Nat) : Act := .look fun m =>
  if gate = 7 then acts [
    modKind (argOf m mb 0) (fun b => { b with pending := some b.inactive, tries := 0 }),
    modTrust (fun t => { t with headerSeq := t.headerSeq + 1 }),
    showTrust]
  else if gate = 9 then onlyIf (decide (argOf m mb 1 = 1)) (applyPart (argOf m mb 0))
  else .nop

/-- An update without one chunk of a kind. -/
def dropChunk (kind idx : Nat) (u : Update) : Update :=
  if u.kind = kind then { u with chunks := u.chunks.filter fun c => c.1 ≠ idx } else u

/-- What is undone where it fails. -/
def gateUnwritten (mb gate : Nat) : Act := .look fun m =>
  let a0 := argOf m mb 0
  let a1 := argOf m mb 1
  if gate = 6 then modTrust (fun t => { t with updates := t.updates.map (dropChunk a0 a1) })
  else if gate = 9 then modTrust (fun t => { t with commPend := dropPage a0 t.commPend })
  else .nop

/-- The oldest flash write ends. RESULT of a gate whose write failed is a free value (log 12). -/
def execFlashWriteDone (ok : Bool) (s : State) : Result := done (.look fun m =>
  match m.trust.flash with
  | [] => .nop
  | j :: rest => onlyIf (tfwAlive m) (acts [
      modTrust (fun t => { t with flash := rest }),
      match j with
      | .append r again => appendDone r again ok
      | .gate mb gate => if ok then acts [gateWritten mb gate, answerGate mb gate rOk]
        else acts [
          gateUnwritten mb gate,
          .upd .free,
          answerGate mb gate (bitsOf (Config.freeWord 0x0E m.freeCount) 0 4)]])) s

end Sys2Proof.Machine
end

