-- ==== Sys2Proof/Machine/Dies.lean ====
section
/-! DEFINITION. Bring-up of dies, stand-alone tests, Zalaoft negotiation, rejoin and the accessory die (R483, R484,
R491–R507). -/

namespace Sys2Proof.Machine

/-! ### Stand-alone test and loop-back (R483, R498, R499) -/

/-- The other end of a link. -/
def farEnd (l n : Nat) : Nat := if (linkEnds l).1 = n then (linkEnds l).2 else (linkEnds l).1

/-- A die has passed its test and waits in configuration hold, or runs. -/
def dieHolds (m : Mod) (n : Nat) : Bool :=
  m.dieRuns n || (decide (m.dieState n = 2 ∧ m.fld (DD_DIE n) DD_DIE_TEST_RESULT = 1) && m.rst.phaseB)

/-- A die runs its stand-alone test: every die-to-die port of it is in loop-back (R23, R498). -/
def phaseA (n : Nat) : Act := acts [
  setF (DD_DIE n) DD_DIE_TEST_RESULT 0,
  setF (DD_DIE n) DD_DIE_NEG_RESULT 0,
  forEach (linksOf n) fun l => acts [
    modLink l (fun x => { Link.init with dead := x.dead }),
    setF (DD_LINK l) DD_LINK_STATE dlLoop]]

/-- A die in configuration hold leaves loop-back: its links to dies that have done so train (R483), those to a die that is
absent or Isolated show it. -/
def leaveHold (n : Nat) : Act := .look fun m =>
  onlyIf (dieHolds m n) (forEach (linksOf n) fun l =>
    let far := farEnd l n
    onlyIf (decide (m.fld (DD_LINK l) DD_LINK_STATE = dlLoop) && !decide (m.fld (DD_DIE n) DD_DIE_TEST_RESULT = 0 ∧ n ≠ mgmtDie))
      (if dieHolds m far ∧ m.fld (DD_DIE far) DD_DIE_TEST_RESULT ≠ 0 then setF (DD_LINK l) DD_LINK_STATE dlTraining
       else if m.dieState far = 0 then setF (DD_LINK l) DD_LINK_STATE dlDown
       else onlyIf (decide (m.dieState far = 1)) (setF (DD_LINK l) DD_LINK_STATE dlIsolated)))

/-! ### Entering service (R46, R494) -/

/-- Every link that a die needs has negotiated: those to Running dies, and at a start also those to dies that are still
joining (R484, R494; log 29). -/
def linksReady (m : Mod) (n : Nat) : Bool :=
  (linksOf n).all fun l =>
    let o := m.dieState (farEnd l n)
    !decide (o = 3 ∨ (o = 2 ∧ !m.fabric.started)) || decide (m.fld (DD_LINK l) DD_LINK_STATE = dlRunning)

/-- The pools of an I/O die are whole: every cell is free (R273, R274). -/
def freshCells (i : Nat) : Act := .look fun m => acts [
  setF (FB_POOL_STAT i) FB_POOL_STAT_REQ_FREE (16 * m.fld (FB_POOL_CFG i) FB_POOL_CFG_REQ_KIB),
  setF (FB_POOL_STAT i) FB_POOL_STAT_RPL_FREE (16 * m.fld (FB_POOL_CFG i) FB_POOL_CFG_RPL_KIB)]

/-- A die enters service: frozen pools are closed, a memory-side die's tables come from the ledger, an I/O die's ports
train on a lit feed, a compute die has no clamp. -/
def dieEnters (n : Nat) : Act := .look fun m => acts [
  onlyIf m.fabric.started (forEach (poolsOf m n) (closePool n)),
  onlyIf (decide (8 ≤ n ∧ n < 12)) (acts [
    onlyIf m.fabric.started (loadTables ((List.range 8).map (8 * (n - 8) + ·))),
    resetMemory (n - 8)]),
  dieChange n 3 0,
  setF (DD_DIE n) DD_DIE_ATTEMPTS 0,
  modTrust (fun t => { t with resetSince := t.resetSince.del n }),
  onlyIf (decide (n < 8)) (acts [
    .look fun m => .upd (.clamps (m.clamps.del n)),
    showClamp n]),
  onlyIf (decide (12 ≤ n ∧ n < 20)) (acts [
    freshCells (n - 12),
    forEach (portsOfDie (n - 12)) fun p => .look fun m =>
      onlyIf (portUsed m p && decide (m.linkState p = lkDown ∧
        m.fld (LS_FEED_STAT (activeFeed m (n - 12))) LS_FEED_STAT_STATE = 3)) (setLink p lkTraining)]),
  onlyIf (decide (n = 21)) (setF MOD_DIE_PRESENT MOD_DIE_PRESENT_ACCESSORY 1)]

/-- An allowed feed comes into use at a start: at once where its laser has stayed on (R487), else after its pilot check. -/
def startFeed (f : Nat) : Act := .look fun m =>
  onlyIf (m.trust.image.feedAllow.getLsbD f) (acts [
    setF (LS_FEED_CTL f) LS_FEED_CTL_ENABLE 1,
    if m.pins.laserEn.getLsbD f then feedUp f
    else onlyIf (feedMayRise m f) (startPilot f)])

/-- The module starts its fabric (R313, R326, R484). -/
def startFabric : Act := .look fun m => acts [
  modFabric (fun f => { f with started := true }),
  onlyIf (isSource m && decide (m.reg TM_START ≠ 0)) (.upd (.now (m.reg TM_START))),
  onlyIf (decide (m.fld MOD_POSITION MOD_POSITION_TEST_EN = 0)) (forEach (List.range 16) startFeed),
  updateTime,
  decideChambers]

/-- Bring-up as far as it can go: dies leave loop-back and enter service, and the fabric starts once no die is joining. -/
def bringUp : Act := .look fun m => onlyIf (m.rst.powerGood && m.rst.phaseB) (acts [
  forEach (List.range 22) leaveHold,
  forEach (List.range 22) (fun n => .look fun m =>
    onlyIf (decide (m.dieState n = 2) && dieHolds m n && linksReady m n) (dieEnters n)),
  .look fun m => onlyIf (!m.fabric.started && (List.range 22).all fun n => decide (m.dieState n ≠ 2)) startFabric])

/-- A test ends: it passes with code 1; a die that fails is Isolated. -/
def execStandaloneTestDone (n : Fin 22) (code : BitVec 4) (s : State) : Result := done (.look fun m =>
  onlyIf (decide (2 ≤ m.dieState n ∧ n.val ≠ mgmtDie ∧ m.fld (DD_DIE n) DD_DIE_TEST_RESULT = 0 ∧ code ≠ 0)) (acts [
    setF (DD_DIE n) DD_DIE_TEST_RESULT code.toNat,
    record (qDie mgmtDie) 0x0F04 (if code = 1 then clsTransient else clsLasting) .plain none dpNone mpTfw
      (detail [(32, 1, n), (33, 1, code.toNat)]),
    onlyIf (decide (code ≠ 1)) (isolate n 7),
    bringUp])) s

/-- The test from outside: with JTAG_LOCK only under TEST_EN. -/
def execJtagStandaloneTest (n : Fin 22) (s : State) : Result := done (.look fun m =>
  onlyIf ((!m.trust.image.jtagLock || m.trust.testEn) && decide (2 ≤ m.dieState n ∧ n.val ≠ mgmtDie))
    (phaseA n)) s

/-! ### Isolation and rejoin (R491, R497) -/

/-- Four drip ticks without a heartbeat. -/
def execHeartbeatLoss (n : Fin 22) (s : State) : Result := done (.look fun m =>
  onlyIf (decide (2 ≤ m.dieState n ∧ n.val ≠ mgmtDie)) (acts [isolate n 3, bringUp])) s

/-- The cause of an isolation has cleared: the die is released from reset, never while HELD. -/
def execDieRejoin (n : Fin 22) (s : State) : Result := done (.look fun m =>
  onlyIf (decide (m.dieState n = 1) && m.rst.powerGood && m.rst.phaseB && !m.flag (DD_DIE n) DD_DIE_HELD &&
      !m.flag (TH_DIE n) TH_DIE_ISOLATED) (acts [
    dieChange n 2 0,
    phaseA n])) s

/-! ### Zalaoft records (R502–R506) -/

def zIdent : Nat := 0x01
def zLink : Nat := 0x02
def zFabric : Nat := 0x03
def zPorts : Nat := 0x04
def zPool : Nat := 0x05
def zLedger : Nat := 0x06
def zTime : Nat := 0x07
def zMgmt : Nat := 0x08
def zAccessory : Nat := 0x09
def zCapEnd : Nat := 0x0F
def zAgree : Nat := 0x10
def zAgreeAck : Nat := 0x11

/-- A field of a record: byte offset and bytes. -/
def rf (r : BitVec 512) (at_ n : Nat) : Nat := bitsOf r (8 * at_) (8 * n)

/-- A record with its CRC. -/
def mkRecord (type count : Nat) (fields : List (Nat × Nat × Nat)) : BitVec 512 :=
  let v := type + 2 ^ 8 + count % 2 ^ 16 * 2 ^ 16 + layNat fields
  BitVec.ofNat 512 (v + crc32 (leBytes 60 v) * 2 ^ 480)

/-- TYPE, VERSION, COUNT and CRC of a record as its receiver checks them. -/
def recordOk (type count : Nat) (r : BitVec 512) : Bool :=
  decide (rf r 0 1 = type ∧ rf r 1 1 = 1 ∧ rf r 2 2 = count ∧ rf r 60 4 = crc32 (leBytes 60 (rf r 0 60)))

/-- The host and the peer of a link (R502); a link between a compute and a memory-side die does not negotiate. -/
def negotiates (l : Nat) : Bool := decide (32 ≤ l)
def hostOf (l : Nat) : Nat := (linkEnds l).1
def peerOf (l : Nat) : Nat := if l < 32 then l / 4 else (linkEnds l).2

/-- The die that a failed negotiation isolates. -/
def negVictim (l : Nat) : Nat := linkVictim l

/-- Modules of a link, working and in all (R500, R501). -/
def linkModules (l : Nat) : Nat := if l = 56 then 1 else 4

def showModules (l : Nat) : Act := .look fun m =>
  setF (DD_LINK l) DD_LINK_MODULES (linkModules l - (m.link l).dead.length)

/-- The host's own IDENT. -/
def hostIdent (m : Mod) (l : Nat) : BitVec 512 :=
  let h := hostOf l
  mkRecord zIdent 0 [(4, 2, 0x4B4D), (6, 1, dieType h), (7, 1, 0x0C),
    (8, 1, bitsOf (Config.dieDigest (100 + h)) 0 8), (9, 1, 1), (12, 48, (dieIdentity m h).toNat)]

/-- Step 2: the host sends its IDENT. -/
def sendIdent (l : Nat) : Act := .look fun m =>
  let r := hostIdent m l
  acts [
    setF (DD_LINK l) DD_LINK_STATE dlNegotiating,
    modLink l (fun x => { x with step := 2, sender := 0, records := [r], agreed := 0 }),
    emit (.zalaoft l r)]

/-- A negotiation step fails: once it is made again, then the peer is isolated (R502). -/
def negFail (l code : Nat) : Act := .look fun m =>
  let training := decide (m.fld (DD_LINK l) DD_LINK_STATE = dlTraining)
  acts [
    setF (DD_DIE (peerOf l)) DD_DIE_NEG_RESULT code,
    if (m.link l).tries = 0 then acts [
      modLink l (fun x => { x with tries := 1 }),
      onlyIf (!training) (sendIdent l)]
    else acts [isolate (negVictim l) 6, bringUp]]

/-- The link runs: its epoch opens. -/
def linkRuns (l : Nat) : Act := acts [
  modLink l (fun x => { x with step := 6, tries := 0 }),
  setF (DD_LINK l) DD_LINK_STATE dlRunning,
  bumpWrap (DD_LINK l) DD_LINK_EPOCH 1,
  showModules l,
  bringUp]

/-- Training of a link ends (step 1). -/
def execUcieTrainingDone (l : Fin 57) (pass : Bool) (s : State) : Result := done (.look fun m =>
  onlyIf (decide (m.fld (DD_LINK l) DD_LINK_STATE = dlTraining)) (
    if !pass then negFail l 7
    else acts [showModules l, if negotiates l then sendIdent l else linkRuns l])) s

/-- Lane repair of a module ends: one that fails is lost, and with its last module the link. -/
def execUcieLaneRepairDone (l : Fin 57) (k : Fin 4) (pass : Bool) (s : State) : Result := done (.look fun m =>
  let dead := if pass ∨ (m.link l).dead.contains k.val then (m.link l).dead else (m.link l).dead ++ [k.val]
  onlyIf (decide (m.fld (DD_LINK l) DD_LINK_STATE = dlRunning ∧ k.val < linkModules l)) (acts [
    bumpWrap (DD_LINK l) DD_LINK_RETRAINS 1,
    modLink l (fun x => { x with dead := dead }),
    showModules l,
    onlyIf (decide (linkModules l ≤ dead.length)) (acts [isolate (linkVictim l) 5, bringUp])])) s

/-- A record of the peer reaches the host in its step: kept in order, or a failure. -/
def peerRecord (l type step : Nat) (r : BitVec 512) (more : Act) : Act := .look fun m =>
  let x := m.link l
  onlyIf (decide (m.fld (DD_LINK l) DD_LINK_STATE = dlNegotiating ∧ x.step = step)) (
    if !recordOk type x.sender r then negFail l 5
    else acts [
      modLink l (fun x => { x with sender := x.sender + 1, records := x.records ++ [r] }),
      more])

def execZalaoftIdent (l : Fin 57) (r : BitVec 512) (s : State) : Result :=
  done (peerRecord l zIdent 2 r (acts [
    modLink l (fun x => { x with step := 3, identity := BitVec.ofNat 384 (rf r 12 48) }),
    onlyIf (decide (l.val = 56)) (forEach (List.range 8) fun w =>
      .upd (.reg (DD_ACC_IDENT w) (BitVec.ofNat 64 (rf r (8 * w) 8))))])) s

def execZalaoftLink (l : Fin 57) (r : BitVec 512) (s : State) : Result := done (peerRecord l zLink 3 r .nop) s
def execZalaoftFabric (l : Fin 57) (r : BitVec 512) (s : State) : Result := done (peerRecord l zFabric 3 r .nop) s
def execZalaoftPorts (l : Fin 57) (r : BitVec 512) (s : State) : Result := done (peerRecord l zPorts 3 r .nop) s
def execZalaoftPool (l : Fin 57) (r : BitVec 512) (s : State) : Result := done (peerRecord l zPool 3 r .nop) s
def execZalaoftLedger (l : Fin 57) (r : BitVec 512) (s : State) : Result := done (peerRecord l zLedger 3 r .nop) s
def execZalaoftTime (l : Fin 57) (r : BitVec 512) (s : State) : Result := done (peerRecord l zTime 3 r .nop) s
def execZalaoftMgmt (l : Fin 57) (r : BitVec 512) (s : State) : Result := done (peerRecord l zMgmt 3 r .nop) s
def execZalaoftAccessory (l : Fin 57) (r : BitVec 512) (s : State) : Result :=
  done (peerRecord l zAccessory 3 r .nop) s

/-! ### Requirements and agreement (R504, R506) -/

/-- A record of a type that the peer has sent; the host's own IDENT stands first. -/
def sent (rs : List (BitVec 512)) (type : Nat) : Option (BitVec 512) := (rs.drop 1).find? fun r => rf r 0 1 = type

def need (rs : List (BitVec 512)) (type : Nat) (p : BitVec 512 → Bool) : Bool :=
  match sent rs type with
  | some r => p r
  | none => false

/-- Every data OP: the codes that the 64-bit mask of R503 can name. -/
def dataOps : Nat := 0xFE

/-- PORTS of the three I/O modes. -/
def portsOk (mode : Nat) (r : BitVec 512) : Bool :=
  let lanes := rf r 5 1
  let spares := rf r 6 1
  let rate := rf r 7 1
  decide (rf r 4 1 = 8) &&
  (if mode = 0 then decide (lanes = 18 ∧ 2 ≤ spares ∧ 64 ≤ rate ∧ rf r 8 1 % 8 = 7)
   else if mode = 1 then decide (lanes = 16 ∧ rate = 48)
   else decide ((lanes = 16 ∨ lanes = 18) ∧ spares ≤ 2 ∧ (rate = 48 ∨ rate = 64)))

/-- The first requirement of a mode that the peer's records do not meet, as NEG_RESULT codes it; 0 for none. -/
def requirement (mode : Nat) (acc : Bool) (rs : List (BitVec 512)) : Nat :=
  let vendor := mode = 2 || need rs zIdent fun r =>
    decide (rf r 4 2 = 0x4B4D ∧ rf r 7 1 = if mode = 1 then 0x0B else 0x0C)
  let type := need rs zIdent fun r => decide (rf r 6 1 = if acc then 5 else 3)
  let link := need rs zLink fun r => decide (32 ≤ rf r 5 1 ∧ rf r 4 1 % 16 ≠ 0) && r.getLsbD 48
  let caps :=
    if acc then (sent rs zAccessory).isSome && need rs zMgmt fun r => r.getLsbD 32
    else (need rs zFabric fun r => decide (rf r 4 8 &&& dataOps = dataOps)) && need rs zPorts (portsOk mode) &&
      (need rs zPool fun r => decide (32768 ≤ rf r 4 4 ∧ 2048 ≤ rf r 9 2) && r.getLsbD 64) &&
      (need rs zLedger fun r => r.getLsbD 48) && (need rs zTime fun r => decide (rf r 4 1 % 4 = 3)) &&
      need rs zMgmt fun r => decide (rf r 4 1 % 4 = 3)
  if !vendor then 3 else if !type then 4 else if !(link && caps) then 5 else 0

/-- The AGREE record: the lesser of what both sides offer (R504). -/
def agreeRecord (m : Mod) (l : Nat) (rs : List (BitVec 512)) : BitVec 512 :=
  let f : Nat → Nat → Nat → Nat := fun ty a n => ((sent rs ty).map fun r => rf r a n).getD 0
  let own := (2 ^ linkModules l - 1) - maskOf (m.link l).dead
  mkRecord zAgree 1 [(4, 1, f zLink 4 1 % 16 &&& own), (5, 1, min 32 (f zLink 5 1)), (6, 1, dieMode m (peerOf l)),
    (8, 8, f zFabric 4 8 &&& dataOps), (16, 1, min 18 (f zPorts 5 1)), (17, 1, min 2 (f zPorts 6 1)),
    (18, 1, min 64 (f zPorts 7 1)), (20, 4, crc32 ((rs.map fun r => leBytes 64 r.toNat).flatten))]

/-- CAP_END: the host checks mode and requirements and sends AGREE. -/
def execCapEnd (l : Fin 57) (r : BitVec 512) (s : State) : Result :=
  done (peerRecord l zCapEnd 3 r (.look fun m =>
    let x := m.link l
    let code := if rf r 4 2 ≠ x.sender - 1 then 5 else requirement (dieMode m (peerOf l)) (decide (l.val = 56)) x.records
    if code ≠ 0 then negFail l code
    else
      let a := agreeRecord m l x.records
      acts [
        modLink l (fun x => { x with step := 4, agreed := a }),
        emit (.zalaoft l a)])) s

/-- The AGREE_ACK that answers an AGREE: the same bytes 4–59. -/
def ackOf (sender : Nat) (a : BitVec 512) : BitVec 512 := mkRecord zAgreeAck sender [(4, 56, rf a 4 56)]

/-- AGREE reaches the peer, a die of this module, which echoes it. -/
def execAgree (l : Fin 57) (r : BitVec 512) (s : State) : Result := done (.look fun m =>
  let x := m.link l
  onlyIf (decide (m.fld (DD_LINK l) DD_LINK_STATE = dlNegotiating ∧ x.step = 4)) (
    if r = x.agreed then emit (.zalaoft l (ackOf x.sender r)) else negFail l 6)) s

/-- The identity of the die at a link's far end, as it gave it (R505). -/
def noteIdentity (l : Nat) : Act := .look fun m =>
  let n := peerOf l
  let id := (m.link l).identity
  acts [
    match m.trust.dieIds.get? n with
    | some old => onlyIf (decide (old ≠ id)) (record (qDie mgmtDie) 0x0F03 clsLasting .plain none dpNone mpTfw
        (detail [(32, 16, old.toNat % 2 ^ 128), (48, 16, id.toNat % 2 ^ 128)]))
    | none => .nop,
    modTrust fun t => { t with dieIds := t.dieIds.put n id }]

/-- AGREE_ACK: where it echoes AGREE, the link's epoch opens. -/
def execAgreeAck (l : Fin 57) (r : BitVec 512) (s : State) : Result := done (.look fun m =>
  let x := m.link l
  onlyIf (decide (m.fld (DD_LINK l) DD_LINK_STATE = dlNegotiating ∧ x.step = 4)) (
    if !(recordOk zAgreeAck x.sender r && decide (rf r 4 56 = rf x.agreed 4 56)) then negFail l 6
    else acts [
      setF (DD_DIE (peerOf l)) DD_DIE_NEG_RESULT 1,
      setF (DD_DIE (peerOf l)) DD_DIE_MODE (dieMode m (peerOf l)),
      noteIdentity l,
      linkRuns l])) s

/-- A negotiation step exceeds its limit. -/
def execNegotiationTimeout (l : Fin 57) (s : State) : Result := done (.look fun m =>
  let st := m.fld (DD_LINK l) DD_LINK_STATE
  onlyIf (decide (st = dlNegotiating ∨ st = dlTraining)) (negFail l 2)) s

/-! ### The accessory die (R507) -/

/-- The accessory's form of a request: RCLASS 0, the own module, a local address, an operation of the list. -/
def accessoryForm (m : Mod) (pk : Packet) : Bool :=
  decide (pk.hdr.rclass = 0 ∧ pk.hdr.dst.toNat = m.selfId ∧ pk.hdr.addr.toNat < 2 ^ 63 ∧ 1 ≤ pk.hdr.op.toNat ∧
    pk.hdr.op.toNat ≤ 5)

/-- A reply toward the accessory die. -/
def accessoryReply (pk : Packet) (st : Nat) (bs : List Byte) : Act :=
  emit (.accessory ⟨{ hdrZero with
    dst := pk.hdr.src
    net := true
    tag := pk.hdr.tag
    op := pk.hdr.op + 0x40
    len := BitVec.ofNat 13 bs.length
    status := BitVec.ofNat 4 st
    addr := pk.hdr.addr }, bs⟩)

/-- The accessory agrees the memory agent. -/
def accessoryMem (m : Mod) : Bool :=
  ((sent (m.link 56).records zAccessory).map fun r => r.getLsbD 32).getD false

/-- A request of the accessory die, retagged, checked as an access of its chamber and performed at its home. -/
def execAccessoryRequest (pk : Packet) (e : Ecc) (s : State) : Result :=
  if 4096 < pk.data.length then .fault .oversizePacket
  else done (.look fun m =>
    let k := m.fld DD_ACC_CFG DD_ACC_CFG_CHAMBER
    let a := pk.hdr.addr.toNat
    let size := (touched pk).1
    let local_ := match locate a with
      | .stack _ _ => true
      | _ => false
    if !m.dieRuns accDie || !m.dieRuns (memDie 0) || !accessoryMem m then .nop
    else if !m.flag DD_ACC_CFG DD_ACC_CFG_CHAMBER_VALID || !m.flag DD_ACC_CFG DD_ACC_CFG_MEM_EN || !accessoryForm m pk ||
        !formOk pk || (!isMark pk.hdr && (!local_ || decide (a % (touched pk).2 ≠ 0))) then accessoryReply pk stDenied []
    else
      let op := pk.hdr.op.toNat
      let cnt := if isMark pk.hdr ∨ (oCen pk.hdr ∧ (op = 4 ∨ (op = 3 ∧ oArray pk.hdr))) then some (oDcnt pk.hdr) else none
      if cnt.any fun c => !(decide ((m.chamber k).cntFirst ≤ c ∧ c < (m.chamber k).cntFirst + (m.chamber k).cntNum)) then
        accessoryReply pk stDenied []
      else if isMark pk.hdr then
        if counterRefused m cnt then accessoryReply pk stUnavailable []
        else acts [arrive (oDcnt pk.hdr) 1, accessoryReply pk stOk []]
      else arriveAccess
        { org := .accessory pk.hdr
          kind := requestKind pk Win.init
          addr := a
          size := size
          hint := 0
          chamber := k
          cnt := cnt
          stat := false
          tag := pk.hdr.tag
          pc := 0
          word := 0
          stamp := m.now
          rd := 0
          run := 0 } e) s

end Sys2Proof.Machine
end

