-- ==== Sys2Proof/Machine/Pools.lean ====
section
/-! DEFINITION. The pools of the conservation ledger as they stand (R285, R287): what each has in flight, which are live, and
their counts. -/

namespace Sys2Proof.Machine

/-- The count in flight of a pool, measured from the state of its unit (R285). On-package links carry no credits of their
own in this model, and their pools stay at zero. -/
def poolInFlight (m : Mod) (i : Nat) : Nat :=
  if i < 0x1000 then (m.counter i).toNat
  else if i < 0x1200 then (m.port ((i - 0x1000) / 8)).heldCells (i % 8)
  else if i < 0x1240 then (m.port (i - 0x1200)).retryBuf.length
  else if i < 0x1250 then
    let d := (i - 0x1240) / 2
    let net := i % 2
    16 * m.fld (FB_POOL_CFG d) (if net = 0 then FB_POOL_CFG_REQ_KIB else FB_POOL_CFG_RPL_KIB) -
      m.fld (FB_POOL_STAT d) (poolFld net)
  else if i < 0x1270 then (m.regulator ((i - 0x1250) / 8) (i % 8)).level
  else if i < 0x1278 then (m.cdie (i - 0x1270)).queues.foldl (fun a q => a + q.2.pend.length) 0
  else if i < 0x12C0 then 0
  else if i < 0x12C4 then (m.mdie (i - 0x12C0)).sump.length
  else if 0x12C8 ≤ i ∧ i < 0x12D0 then
    let d := m.iodie (i - 0x12C8)
    64 * (d.bufs.filter fun b => b.tag.isNone).length + 4 * (d.fetches.filter (·.sent)).length
  else 0

/-- A pool of a running unit; a regulator that is off has none. -/
def livePool (m : Mod) (i : Nat) : Bool :=
  m.poolRuns i &&
  !decide (0x1250 ≤ i ∧ i < 0x1270 ∧ m.fld (MS_REG_CFG ((i - 0x1250) / 8) ((i - 0x1250) % 8)) MS_REG_CFG_RATE = 0)

/-- The pools of every running unit, in index order. -/
def livePools (m : Mod) : List Nat := (List.range 0x12D0).filter (livePool m)

/-- The four counts of a pool now. -/
def poolCounts (m : Mod) (i : Nat) : PoolSnap :=
  ⟨(m.pool i).issued, (m.pool i).returned, poolInFlight m i, (m.pool i).retired⟩

/-- The snapshot that every pool of a running unit takes at a tick boundary (R287). -/
def poolBoundary (m : Mod) : SMap PoolSnap := (livePools m).map fun i => (i, poolCounts m i)

end Sys2Proof.Machine
end

