-- ==== Sys2Proof/Machine/Tick.lean ====
section
/-! DEFINITION. A drip tick (R25, R29): what passes while no command waits (log 1). -/

namespace Sys2Proof.Machine

/-- Memory-side cycles in one drip tick of 40 ns at 2 GHz (R201, R433). -/
def mintCycles : Nat := 80

/-- The slew toward the upstream (R325): 200 ppm is 1 ns in 125 drip ticks; the counter never runs backwards. -/
def slewStep (m : Mod) : Int :=
  if m.tick % 125 ≠ 0 then 0 else if 0 < m.fabric.slew then 1 else if m.fabric.slew < 0 then -1 else 0

/-- Unplanned loss (R527): a die isolated for another cause than ISOLATE_DIE, a start that was not asked for, or a
fail-stopped port of the plan; time in maintenance mode is planned. -/
def unplanned (m : Mod) : Bool := !m.trust.maint &&
  ((List.range 22).any (fun n => decide (m.dieState n = 1 ∧ m.fld (DD_DIE n) DD_DIE_CAUSE ≠ 1)) ||
   (!m.rst.planned && m.rst.powerGood && !m.fabric.started) ||
   (List.range 64).any fun p => decide (bitsOf (m.trust.image.plan.getD p 0) 0 4 ≠ 0 ∧
     m.fld (FB_PORT_LINK p) FB_PORT_LINK_STATE = 5))

/-- The window entries accepted since the last boundary are written to all eight copies (R335). -/
def applyWindows : Act := .look fun m => acts [
  .upd (.windows (m.winNext.foldl (fun ws e => ws.put e.1 e.2) m.windows)),
  .upd (.winNext [])]

/-- One drip tick: the stratum counter grows by the tick's 40 ns, every regulator mints (R201), and at the boundary the
accepted window entries are written and the register space takes its snapshot (R29), and the pools theirs where the tick is a multiple of 1,024 (R287). -/
def tickAct : Act := .look fun m => acts [
  .upd (.now (m.now + BitVec.ofNat 64 (40 + slewStep m).toNat)),
  onlyIf (decide (slewStep m ≠ 0)) (modFabric fun f => { f with slew := f.slew - slewStep m }),
  .upd .tick,
  onlyIf (unplanned m) (acts [
    .upd (.loss (m.lossNs + 40) m.lossHour),
    setF ER_AVAIL ER_AVAIL_LOSS_MS ((m.lossNs + 40) / 1000000)]),
  forEach (List.range 4) fun d => forEach (List.range 8) fun k => mint d k mintCycles,
  applyWindows,
  .upd .snap,
  .look fun m => onlyIf (decide (m.tick % 1024 = 0)) (.upd (.poolBound (poolBoundary m)))]

end Sys2Proof.Machine
end

