-- ==== Sys2Proof/Machine/Resets.lean ====
section
/-! DEFINITION. Cold, power-fail and warm starts, the inputs that cause them, and what passes with no command waiting
(R446, R447, R463, R481–R487, R541, R542). -/

namespace Sys2Proof.Machine

/-! ### What a reset of every die loses (R481, R487) -/

/-- Every pool starts afresh, and the ledger with it: counters and their pools at zero. -/
def resetPools : Act := .look fun m => acts [
  forEach m.counters (fun c => .upd (.freshCounter c.1)),
  forEach (m.pools.filter fun p => p.1 < 4096) (fun p => .upd (.freshCounter p.1)),
  forEach m.pools (fun p => .upd (.pool p.1 poolZero)),
  forEach m.poolSnap (fun p => .upd (.poolSnap p.1 ⟨0, 0, 0, 0⟩)),
  .upd (.cntFrozen []),
  .upd (.poolBound []), .upd (.poolRead []), .upd (.ledgerTodo [])]

/-- Everything on the dies is as their reset leaves it. -/
def loseDies : Act := acts [
  endReqs (fun _ => true),
  resetPools,
  .upd (.zero 0 (2 ^ 52)),
  .upd (.thalli []), .upd (.cdies []), .upd (.mdies []), .upd (.stks []), .upd (.ports []), .upd (.links []),
  .upd (.iodies []), .upd (.windows []), .upd (.winNext []), .upd (.chambers []), .upd (.fabric Fabric.init),
  .upd (.flight []), .upd (.replies []), .upd (.volosh Volosh.init), .upd (.scores [] []), .upd (.scoreIn []), .upd (.scoresSent []),
  .upd (.shadow none), .upd (.sensors []), .upd (.clamps []), .upd (.calPhase none)]

/-- What trusted firmware keeps in flash, at a start; `present` are the dies of the start before. -/
def Trust.flashOnly (t : Trust) (present : List Nat) : Trust :=
  { Trust.init with
    tfw := { t.tfw with trying := false }
    sfw := { t.sfw with trying := false }
    img := { t.img with trying := false }
    headerSeq := t.headerSeq
    headerOk := t.headerOk
    coldStarts := t.coldStarts
    used := t.used
    ledger := t.ledger
    generation := t.generation
    commParts := t.commParts
    operatorRoot := t.operatorRoot
    svcRetiredTx := t.svcRetiredTx
    svcRetiredRx := t.svcRetiredRx
    svcSpare := t.svcSpare
    feedFailed := t.feedFailed
    prevDies := present }

/-- The dies of the start that ends; those of the one before where there has been none. -/
def presentDies (m : Mod) : List Nat :=
  if m.rst.powerGood then (List.range 22).filter fun n => decide (m.dieState n ≠ 0) || m.rst.heldDies.contains n
  else m.trust.prevDies

/-- Dies start phase A (R483), each change of state with its record (R46). -/
def startDies (joins : List Nat) : Act := acts [
  forEach joins (fun n => dieChange n 2 0),
  forEach joins phaseA]

/-! ### Records across a warm reset (R518, R519) -/

/-- Every record that a queue holds enters the journal, before the queues are reset (log 31). -/
def drainQueues : Act := .look fun m => acts [
  forEach m.queues (fun q => forEach q.2.recs fun r => .look fun m => acts [
    .upd (.journal ((m.journal ++ [{ r with seq := BitVec.ofNat 32 (m.fld ER_JNL_SEQ ER_JNL_SEQ_NEXT) }]).drop
      (m.journal.length + 1 - 16384))),
    bumpWrap ER_JNL_SEQ ER_JNL_SEQ_NEXT 1]),
  .upd (.queues [])]

/-! ### Warm reset (R487) -/

/-- Counters, levels and queues are retired with record. -/
def retireAll : Act := .look fun m => acts [
  forEach m.counters (fun c => retireCounter c.1 5),
  forEach (List.range 4) (fun d => forEach (List.range 8) fun k => retireLevel d k 5),
  forEach (List.range 8) fun d => retireRecord (qDie d) (gatherPool d) 5 (pendingOn m d)]

/-- Ledger requests that wait are written before the start goes on (R478). -/
def writeRequests : Act := .look fun m =>
  let flying := m.trust.flash.filterMap fun j => match j with
    | .append r _ => some r
    | _ => none
  let all := flying ++ m.trust.ledgerQueue ++ ((List.range 4).map fun d => (m.mdie d).ledgerReqs).flatten
  acts [
    modTrust (fun t => { t with flash := [], ledgerQueue := [] }),
    forEach all fun r => modTrust fun t => { t with
      used := t.used + 1
      ledger := t.ledger ++ [ledgerRec r t.used t.generation.toNat] },
    showLedger]

/-- A field keeps its value over a wipe. -/
def keepF (m : Mod) (off : Nat) (f : Fld) : Act := setF off f (m.fld off f)

/-- The register space as a warm reset leaves it: what R45, R451, R480, R509, R511 and R531 keep, the pins' levels, and the inventory of
the last cold start (R44; log 5); the accessory's Zalaoft discovery is made anew. -/
def warmRegs : Act := .look fun m => acts [
  .upd (.regsClear [(MOD_POSITION, MOD_POSITION + 1), (MOD_DIE_STATE, MOD_DIE_STATE + 1), (TR_BOOT, TR_BOOT + 1), (TR_LEDGER, TR_LEDGER + 1),
    (ER_JNL_SEQ, ER_JNL_SEQ + 1), (ER_AVAIL, ER_AVAIL + 1)]),
  forEach (List.range 19) (fun n => acts [keepF m (CP_INPUT n) CP_INPUT_LEVEL, keepF m (CP_INPUT n) CP_INPUT_MASKED]),
  keepF m MOD_DIE_PRESENT ⟨0, 21⟩,
  keepF m TH_STATUS TH_STATUS_FAULT,
  forEach (List.range 22) (fun n => acts [
    keepF m (TH_DIE n) TH_DIE_ISOLATED,
    keepF m (DD_DIE n) DD_DIE_HELD,
    keepF m (DD_DIE n) DD_DIE_ISOLATIONS,
    onlyIf (m.flag (TH_DIE n) TH_DIE_ISOLATED) (keepF m (DD_DIE n) DD_DIE_CAUSE),
    onlyIf (decide (m.dieState n = 2)) (keepF m (DD_DIE n) DD_DIE_ATTEMPTS)]),
  forEach (List.range 16) (fun f => acts [
    keepF m (LS_FEED_STAT f) LS_FEED_STAT_FAULT_N, keepF m (LS_FEED_STAT f) LS_FEED_STAT_EN]),
  keepF m TR_STATE TR_STATE_LOCKSTEP,
  bumpWrap TR_BOOT TR_BOOT_WARM_STARTS 1]

/-- The end of a binding that a warm reset brings. -/
def dropBindings : Act := forEach (List.range 8) fun k => dropBinding k 5

/-- The reset itself, once the module has withdrawn: every die but the management die, then phase A. -/
def warmCore : Act := .look fun m =>
  let there := (List.range 22).filter fun n => decide (m.dieState n ≠ 0 ∧ n ≠ mgmtDie)
  acts [
    dropBindings,
    retireAll,
    abandonShadow none,
    writeRequests,
    drainQueues,
    warmRegs,
    loseDies,
    modTrust (fun t => { t.flashOnly (presentDies m) with
      halted := t.halted
      testEn := t.testEn
      reportSeq := t.reportSeq }),
    setTrustState (if m.trust.halted then tsHalted else tsLoading),
    modPins (fun p => { p with thermLow := false }),
    modRst (fun r => { r with
      warmPending := false
      phaseB := false
      planned := true
      stacksZeroing := []
      heldDies := []
      resetHeld := !m.flag (CP_INPUT 0) CP_INPUT_LEVEL }),
    dieChange mgmtDie 3 0,
    startDies (there.filter fun n => !m.flag (TH_DIE n) TH_DIE_ISOLATED),
    bootWhenReady,
    bringUp]

/-- MOD_RESET_N has been accepted low: the module withdraws first, where a gallery, passage or maintenance port is up, or
where a withdrawal runs already (R509). -/
def warmAct : Act := .look fun m =>
  let up := (List.range 64).any fun p => m.portUp p && decide (m.planKind p = 1 ∨ m.planKind p = 2 ∨ m.planKind p = 3 ∨
    m.planKind p = 6)
  onlyIf m.rst.powerGood (
    if m.fabric.withdrawing then modRst fun r => { r with warmPending := true }
    else if up ∧ !m.fabric.withdrawn then acts [modRst (fun r => { r with warmPending := true }), startWithdraw 0]
    else warmCore)

def execWarmReset (s : State) : Result := done (acceptLevel 0 false warmAct) s

/-- MOD_RESET_N has been accepted high: the start goes on, with the dies that a cold start has kept in reset (R552). -/
def warmRelease : Act := .look fun m => acts [
  modRst (fun r => { r with
    resetHeld := false
    heldDies := [] }),
  startDies m.rst.heldDies,
  bootWhenReady,
  bringUp]

def execModResetRelease (s : State) : Result := done (acceptLevel 0 true warmRelease) s

/-- The drain step of a withdrawal is reached (R294); a warm reset that waits follows. -/
def execWithdrawDrainEnd (s : State) : Result := done (.look fun m =>
  onlyIf m.fabric.withdrawing (acts [
    withdrawEnd,
    onlyIf m.rst.warmPending warmCore])) s

/-! ### Power (R481, R541, R542) -/

/-- The always-on domain's own registers over a power failure: the strap sample and the inputs. -/
def powerRegs : Act := .upd (.regsClear [(MOD_POSITION, MOD_POSITION + 1), (CP_INPUT 0, CP_INPUT 18 + 1)])

/-- Every die but the always-on domain loses its state; what a cold start begins from. -/
def loseModule : Act := .look fun m => acts [
  loseDies,
  modTrust (fun t => { t.flashOnly (presentDies m) with testEn := t.testEn }),
  .upd (.queues []), .upd (.recPtr 0), .upd (.journal []), .upd (.sessions []), .upd (.interlocked []), .upd (.loss 0 0),
  modPins (fun _ => { laserEn := 0, thermLow := false, faultLow := false, xspiReset := false, phyReset := false, phy := none }),
  modRst fun r => { r with
    powerGood := false
    resetHeld := false
    warmPending := false
    phaseB := false
    stacksZeroing := []
    heldDies := [] }]

/-- PWR_GOOD has been accepted low. -/
def powerFailAct : Act := acts [loseModule, powerRegs]

def execPowerFail (s : State) : Result := done (acceptLevel 1 false powerFailAct) s

/-- VAON leaves tolerance: the always-on domain resets too. -/
def vaonAct : Act := acts [
  loseModule,
  .upd (.regsClear []),
  .upd (.tagsDone []),
  .upd (.now 0),
  modTrust (fun t => { t with testEn := false }),
  modRst (fun r => { r with edges := [] }),
  .upd .snap]

def execVaonLoss (s : State) : Result := done vaonAct s

/-- PWR_GOOD has been accepted high: step 1 of R463 runs and the dies that answer start phase A, or stay in reset while
MOD_RESET_N is low (R552). -/
def coldAct (present : List Nat) : Act := .look fun m =>
  let held := !m.flag (CP_INPUT 0) CP_INPUT_LEVEL
  let joins := present.filter fun n => decide (n ≠ mgmtDie)
  acts [
  modTrust (fun t => { t with coldStarts := t.coldStarts + 1, halted := false }),
  setF TR_BOOT TR_BOOT_COLD_STARTS (m.trust.coldStarts.toNat + 1),
  setF TR_BOOT TR_BOOT_WARM_STARTS 0,
  setTrustState tsRom,
  modRst (fun r => { r with
    powerGood := true
    planned := false
    resetHeld := held
    heldDies := if held then joins else [] }),
  .upd (.reg MOD_DIE_PRESENT (BitVec.ofNat 64 (2 ^ mgmtDie ||| maskOf (present.filter (· ≠ accDie))))),
  dieChange mgmtDie 3 0,
  onlyIf (!held) (startDies joins),
  bootWhenReady,
  bringUp]

def presentList (v : BitVec 22) : List Nat := (List.range 22).filter fun n => v.getLsbD n

/-- A start after VAON has been away takes the straps anew (R542). -/
def execColdStart (vaon : Bool) (present : BitVec 22) (s : State) : Result := done (acts [
  .look fun m => onlyIf (vaon && m.flag MOD_POSITION MOD_POSITION_STRAPS_VALID) vaonAct,
  acceptLevel 1 true (coldAct (presentList present))]) s

/-! ### Masks and held levels (R446, R447) -/

/-- An input's action at an accepted level. A cold start that a mask has held back finds the dies that answer, which no
command names: free (log 12). -/
def inputAct (n : Nat) (level : Bool) : Act :=
  if n = 0 then (if level then warmRelease else warmAct)
  else if n = 1 then
    (if level then acts [.upd .free, .look fun m =>
      coldAct (presentList (BitVec.ofNat 22 (bitsOf (Config.freeWord 0x0F m.freeCount) 0 22)))]
     else powerFailAct)
  else if n = 2 then (if level then .look fun m => ppsEdge m.now else .nop)
  else (if level then laserFaultGone (n - 3) else laserFault (n - 3))

/-- A mask ends: the level that now stands is accepted, and acted on where it differs. -/
def execInputMaskEnd (n : Fin 19) (level : Bool) (s : State) : Result := done (.look fun m =>
  onlyIf (m.flag (CP_INPUT n) CP_INPUT_MASKED) (acts [
    setF (CP_INPUT n) CP_INPUT_MASKED 0,
    modRst (fun r => { r with edges := r.edges.del n }),
    acceptLevel n level (inputAct n level)])) s

/-- An active level that stays is reported again each second; TIME_PPS has none. -/
def execHeldLevelReport (n : Fin 19) (s : State) : Result := done (.look fun m =>
  onlyIf (decide (n.val ≠ 2) && !m.flag (CP_INPUT n) CP_INPUT_LEVEL)
    (record (qDie mgmtDie) 0x0D04 clsTransient .plain none dpNone mpTfw (detail [(32, 1, n)]))) s

/-! ### With no command waiting (log 1) -/

/-- A step with no command waiting: a drip tick, and bring-up as far as it can go. -/
def idle (s : State) : Result := done (acts [tickAct, bringUp]) s

end Sys2Proof.Machine
end

