-- ==== Sys2Proof/Machine/Fleet.lean ====
section
/-! DEFINITION. Reporting and fleet operation: the journal (R518, R519), wear scores (R520, R521), the management port
(R522, R523, R547), shadowing (R525, R526), availability (R527) and the SMBus target (R548). -/

namespace Sys2Proof.Machine

/-! ### The journal (R518, R519) -/

/-- Records the journal holds. -/
def journalSize : Nat := 16384

/-- A record enters the journal: it is numbered, a full ring loses its oldest, and the sessions that follow learn it. -/
def enterJournal (r : Rec) : Act := .look fun m =>
  let r' := { r with seq := BitVec.ofNat 32 (m.fld ER_JNL_SEQ ER_JNL_SEQ_NEXT) }
  acts [
    .upd (.journal ((m.journal ++ [r']).drop (m.journal.length + 1 - journalSize))),
    bumpWrap ER_JNL_SEQ ER_JNL_SEQ_NEXT 1,
    forEach m.sessions fun x => match x.follow with
      | some tag => emit (.records x.id tag [r'])
      | none => .nop]

/-- How many requester indices the record arbiter has: one for each queue number. -/
def queueCount : Nat := 576

/-- True where queue entry `a` is granted before `b` (R32): the older record, then the search from the pointer. -/
def takenBefore (ptr : Nat) (a b : Nat × Rec) : Bool :=
  let turn : Nat → Nat := fun q => (q + queueCount - ptr) % queueCount
  decide (a.2.stamp.toNat < b.2.stamp.toNat ∨ (a.2.stamp = b.2.stamp ∧ turn a.1 < turn b.1))

/-- The queue whose oldest record is taken next. -/
def nextTaken (ptr : Nat) : List (Nat × Rec) → Option (Nat × Rec)
  | [] => none
  | x :: l => match nextTaken ptr l with
    | none => some x
    | some y => if takenBefore ptr y x then some y else some x

/-- The oldest record of each queue that holds one. -/
def queueHeads (m : Mod) : List (Nat × Rec) := m.queues.filterMap fun e => e.2.recs.head?.map fun r => (e.1, r)

/-- The overflow record of a queue in which a slot has come free (R518). -/
def reportOverflow (q : Nat) : Act := .look fun m =>
  let n := (m.queue q).overflow
  onlyIf (decide (0 < n)) (acts [
    .upd (.queues (m.queues.put q { m.queue q with overflow := 0 })),
    record q 0x1001 clsTransient .plain none dpNone (mpSteward (queueDie q)) (detail [(32, 8, n)])])

/-- One record is taken into the journal. -/
def takeRecord : Act := .look fun m =>
  match nextTaken m.recPtr (queueHeads m) with
  | none => .nop
  | some (q, r) => acts [
      .upd (.queues (m.queues.put q { m.queue q with recs := (m.queue q).recs.drop 1 })),
      onlyIf (decide (q < 22)) (setF (ER_QUEUE q) ER_QUEUE_DEPTH ((m.queue q).recs.length - 1)),
      .upd (.recPtr ((q + 1) % queueCount)),
      enterJournal r,
      reportOverflow q]

def execRecordTake (s : State) : Result := done (.look fun m =>
  onlyIf m.rst.powerGood (acts [takeRecord, takeRecord, takeRecord, takeRecord])) s

/-! ### Wear scores (R520, R521) -/

/-- The kinds of score in the order of R520, each with its lowest key and its number of units. -/
def scoreKinds : List (Nat × Nat) := [(0, 2304), (3000, 64), (3100, 32), (4000, 4096), (9000, 200), (9500, 288)]

/-- Where a unit's alert points: its DPATH and MPATH (R515, R521). -/
def scorePaths (m : Mod) (key : Nat) : Word × Word :=
  if key < 3000 then (dpFabric 3 m.selfId (key / 36 / 8) (key / 36) (key % 18), mpPort (key / 36))
  else if key < 3100 then (dpFabric 2 m.selfId ((key - 3000) / 8) (key - 3000) 0, mpPort (key - 3000))
  else if key < 4000 then (dpMemory 2 ((key - 3100) / 8) (key - 3100) 0 0 0, mpStack (key - 3100))
  else if key < 9000 then
    let n := key - 4000
    (dpMemory 4 (n / 1024) (n / 128) (n / 16 % 8) (n % 16) 0, mpStack (n / 128))
  else if key < 9500 then (dpCompute 2 ((key - 9000) / 25) ((key - 9000) % 25) 0 0, mpSorus (key - 9000))
  else (dpFabric 1 m.selfId ((key - 9500) / 36) 0 0, mpath 3 mgmtDie 3 ((key - 9500) / 18) ((key - 9500) % 18))

/-- A stack's points for a second at its temperature. -/
def heatPoints (t : Int) : Nat := if 105 < t then 20 else if 95 < t then 5 else if 85 < t then 1 else 0

/-- The inputs of a unit in the second that ends. Corrected SRAM errors count one point in 1,000. -/
def scoreInput (m : Mod) (key : Nat) : Nat :=
  m.scoreIn.getD key 0 +
  (if 3100 ≤ key ∧ key < 3132 then heatPoints (toSigned 8 (m.fld (stackReg (key - 3100)) MS_STACK_STATE_TEMP)) else 0) +
  (if 9000 ≤ key ∧ key < 9200 then m.scoreIn.getD (20000 + (key - 9000)) 0 / 1000 else 0)

/-- A score after its second (R520). -/
def nextScore (m : Mod) (key : Nat) : Nat :=
  min (Config.decay (m.scores.getD key 0) (m.fld ER_SCORE_CFG ER_SCORE_CFG_HALF_LIFE_H) + scoreInput m key) 65535

/-- Units whose score can change: those with points, with inputs, and every stack and sorus. -/
def scoredKeys (m : Mod) : List Nat :=
  (m.scores.map (·.1) ++ (m.scoreIn.map (·.1)).filter (· < 20000) ++ (List.range 32).map scStack ++
    (List.range 200).map scSorus).eraseDups

/-- One unit's score takes its value, with its alert (R521). -/
def updateScore (key : Nat) : Act := .look fun m =>
  let v := nextScore m key
  let alert := m.fld ER_SCORE_CFG ER_SCORE_CFG_ALERT
  let fire := decide (m.scores.getD key 0 < alert ∧ alert ≤ v ∧ ¬ m.alerted.contains key = true)
  let told := if fire then key :: m.alerted else if 2 * v < alert then m.alerted.filter (· ≠ key) else m.alerted
  acts [
    .upd (.scores (SMap.set 0 m.scores key v) told),
    onlyIf fire (record (qDie mgmtDie) 0x1003 clsTransient .plain none (scorePaths m key).1 (scorePaths m key).2
      (detail [(32, 2, v)]))]

/-- The corrected errors not yet worth a point. -/
def restInputs (m : Mod) : SMap Nat :=
  (m.scoreIn.filter fun e => decide (20000 ≤ e.1 ∧ e.2 % 1000 ≠ 0)).map fun e => (e.1, e.2 % 1000)

def execScoreUpdate (s : State) : Result := done (.look fun m =>
  onlyIf (m.trust.sfwUp && tfwAlive m) (acts [
    forEach (scoredKeys m) updateScore,
    .upd (.scoreIn (restInputs m))])) s

/-! ### Sessions (R522, R523) -/

def mtAttest : Nat := 0x01
def mtRecords : Nat := 0x02
def mtScores : Nat := 0x03
def mtRead : Nat := 0x04
def mtDigests : Nat := 0x06
def mtFeed : Nat := 0x07
def mtHeartbeat : Nat := 0x08
def mtRefused : Nat := 0xFF

/-- The lowest number that no session has and no gate's answer waits for. -/
def freeSession (m : Mod) : Nat :=
  ((List.range 5).find? fun i => !(m.sessions.any fun x => x.id = i) &&
    !decide (m.trust.mgmtWait.map (·.1) = some i)).getD 5

/-- A client's connection: refused with an unknown chain, a fifth session, or a second control session. -/
def execSessionOpen (control chainOk : Bool) (s : State) : Result := done (.look fun m =>
  onlyIf (tfwAlive m && m.pins.phy.isSome && chainOk && decide (m.sessions.length < 4) &&
    !(control && m.sessions.any (·.control)))
    (.upd (.sessions (m.sessions ++ [{ id := freeSession m, control := control, follow := none }])))) s

def execSessionTimeout (id : Nat) (s : State) : Result := done (.look fun m =>
  .upd (.sessions (m.sessions.filter fun x => x.id ≠ id))) s

/-- A message of an open session reaches trusted firmware: of a type the session may not use, or beyond the type's
limits, it is refused. -/
def message (id : Nat) (tag : Word) (controlOnly fits : Bool) (a : Act) : Act := .look fun m =>
  match m.sessions.find? fun x => x.id = id with
  | none => .nop
  | some x => onlyIf (tfwAlive m) (
      if controlOnly && !x.control then emit (.mgmt id mtRefused tag rRequester [])
      else if !fits then emit (.mgmt id mtRefused tag rUnknown [])
      else a)

def execMgmtAttest (id : Nat) (tag : Word) (nonce : List Byte) (s : State) : Result :=
  done (message id tag false (decide (nonce.length ≤ 48)) (acts [
    emit (.mgmt id mtAttest tag rOk []),
    produceReport (some id) nonce])) s

/-- The records from a journal sequence number on, the oldest held where that one is overwritten (R519). -/
def recordsFrom (m : Mod) (first count : Nat) : List Rec :=
  let oldest := m.fld ER_JNL_SEQ ER_JNL_SEQ_NEXT - m.journal.length
  (m.journal.drop (first - oldest)).take count

def execMgmtRecords (id : Nat) (tag first : Word) (count : Nat) (follow : Bool) (s : State) : Result :=
  done (message id tag false (decide (count ≤ 1024)) (.look fun m => acts [
    emit (.records id tag (recordsFrom m first.toNat count)),
    onlyIf follow (.upd (.sessions (m.sessions.map fun x => if x.id = id then { x with follow := some tag } else x)))])) s

/-- The entries of one kind of score at or above a minimum. -/
def scoreEntries (m : Mod) (kind least : Nat) (k : Nat × Nat) : List Word :=
  ((List.range k.2).filter fun i => least ≤ m.scores.getD (k.1 + i) 0).map fun i =>
    BitVec.ofNat 64 (kind + i * 2 ^ 16 + m.scores.getD (k.1 + i) 0 * 2 ^ 48)

/-- The units of a kind whose score an export shows. -/
def exported (m : Mod) (least : Nat) (k : Nat × Nat) : List Nat :=
  ((List.range k.2).filter fun i => least ≤ m.scores.getD (k.1 + i) 0).map (k.1 + ·)

def execMgmtScores (id : Nat) (tag : Word) (kinds : BitVec 8) (min : BitVec 16) (s : State) : Result :=
  done (message id tag false (decide (kinds.toNat < 64)) (.look fun m =>
    let asked := scoreKinds.zipIdx.filter fun k => kinds.getLsbD k.2
    acts [
      emit (.mgmt id mtScores tag rOk (asked.map fun k => scoreEntries m k.2 min.toNat k.1).flatten),
      .upd (.scoresSent (((asked.map fun k => exported m min.toNat k.1).flatten).foldl
        (fun x key => SMap.set 0 x key (m.scores.getD key 0)) m.scoresSent))])) s

def execMgmtRead (id : Nat) (tag : Word) (off count : Nat) (s : State) : Result :=
  done (message id tag false (decide (count ≤ 64 ∧ off % 8 = 0)) (.look fun m =>
    emit (.mgmt id mtRead tag rOk ((List.range count).map fun i =>
      if regAssigned (off + 8 * i) then regView m (off + 8 * i) else 0)))) s

/-- A gate request is written to mailbox 2 for the session, which waits for its answer. -/
def execMgmtGate (id : Nat) (tag : Word) (gate : BitVec 8) (args : List Word) (page : List Byte) (s : State) : Result :=
  done (message id tag true (decide (args.length ≤ 8 ∧ page.length ≤ 4096)) (.look fun m =>
    if m.flag (TR_GATE_STAT 2) TR_GATE_STAT_BUSY then emit (.mgmt id mtGate tag rBusy [])
    else acts [
      fillMailbox 2 gate.toNat ((args ++ List.replicate 8 0).take 8) (some page),
      setF (TR_GATE_CTL 2) TR_GATE_CTL_GO 1,
      modTrust (fun t => { t with mgmtWait := some (id, tag) }),
      gateGo 2])) s

def execMgmtHeartbeat (id : Nat) (s : State) : Result := done (message id 0 false true .nop) s

def execMgmtHeartbeatSend (s : State) : Result := done (.look fun m =>
  onlyIf (tfwAlive m) (forEach m.sessions fun x => emit (.mgmt x.id mtHeartbeat 0 rOk []))) s

/-! ### Shadowing (R525, R526) -/

/-- A mantissa rounded to its leading bits, ties to even, in a pattern without its sign (R525). -/
def bandMag (f : Fmt) (bits mag : Nat) : Nat :=
  let drop := f.m - min bits f.m
  mag / 2 ^ f.m * 2 ^ f.m + roundShift (mag % 2 ^ f.m) drop * 2 ^ drop

/-- One element banded (R525). What an overflow becomes in E4M3, which has no infinity, the manual does not say: free
(log 12). -/
def bandElem (f : Fmt) (bits b : Nat) : Nat :=
  let mag := b % 2 ^ (f.e + f.m)
  let neg := decide (b / 2 ^ (f.e + f.m) % 2 = 1)
  if (f.decode b).isNan then f.dnan
  else if mag < 2 ^ f.m then 0
  else
    let c := bandMag f bits mag
    if c ≤ f.maxCode then f.signBit neg + c
    else match f.top with
      | .ieee => f.signBit neg + (2 ^ f.e - 1) * 2 ^ f.m
      | _ => (Config.freeWord 0x525 b).toNat % 2 ^ f.width

/-- Element types of START_SHADOW (R524). -/
def shadowFmt (ty : Nat) : Fmt := if ty = 0 then fp32 else if ty = 1 then bf16 else if ty = 2 then fp16 else e4m3

/-- A range banded, element by element. -/
def bandBytes (ty bits : Nat) (bs : List Byte) : List Byte :=
  let f := shadowFmt ty
  let n := f.width / 8
  ((chunks n bs.length bs).map fun e => leBytes n (bandElem f bits (leNat e))).flatten

/-- The shadow role's range lies in a stack of this memory-side die. -/
def shadowDie (x : Shadow) : Option Nat :=
  match locate x.base with
  | .stack st _ => some (st / 8)
  | _ => none

/-- A digest that is due starts: the range is read as it stands. -/
def execShadowStep (d : Fin 4) (s : State) : Result := done (.look fun m =>
  match m.shadow with
  | none => .nop
  | some x => match x.steps with
    | [] => .nop
    | n :: rest => onlyIf (decide (shadowDie x = some d.val) && x.running.isNone && m.dieRuns (memDie d)) (
        .upd (.shadow (some { x with
          steps := rest
          running := some (n, bandBytes x.ety (m.fld ER_SHADOW_CFG ER_SHADOW_CFG_BAND_BITS)
            (homeBytes m x.base x.len)) })))) s

/-- The role ends with a result, and its record (R526, R554). -/
def endShadow (result : Nat) : Act := .look fun m =>
  match m.shadow with
  | none => .nop
  | some x => acts [
      .upd (.shadow none),
      setF ER_SHADOW_STAT ER_SHADOW_STAT_RESULT result,
      record (qDie mgmtDie) 0x1002 (if result = 2 then clsLasting else clsTransient) .plain (some x.chamber) dpNone mpTfw
        (detail [(32, 1, m.fld ER_SHADOW_STAT ER_SHADOW_STAT_ROLE), (33, 1, result),
          (34, 1, m.fld ER_SHADOW_STAT ER_SHADOW_STAT_RUN),
          (36, 4, m.fld ER_SHADOW_STAT ER_SHADOW_STAT_COMPARED), (40, 8, x.source.toNat), (48, 8, x.lastStep)]),
      setF ER_SHADOW_STAT ER_SHADOW_STAT_ROLE 0]

/-- A step that both sides have a digest of is compared (R526). -/
def compareStep (n : Nat) : Act := .look fun m =>
  match m.shadow with
  | none => .nop
  | some x => match x.own.get? n, x.peer.get? n with
    | some a, some b => acts [
        .upd (.shadow (some { x with
          own := x.own.del n
          peer := x.peer.del n
          lastStep := n })),
        bumpWrap ER_SHADOW_STAT ER_SHADOW_STAT_COMPARED 1,
        if a = b then setF ER_SHADOW_STAT ER_SHADOW_STAT_RUN 0
        else bumpSat ER_SHADOW_STAT ER_SHADOW_STAT_RUN 1,
        .look fun m =>
          if 2 ≤ m.fld ER_SHADOW_STAT ER_SHADOW_STAT_RUN then endShadow 2
          else onlyIf (decide (m.fld ER_SHADOW_CFG ER_SHADOW_CFG_PASS_STEPS ≤ m.fld ER_SHADOW_STAT ER_SHADOW_STAT_COMPARED))
            (endShadow 1)]
    | _, _ => .nop

/-- A DIGESTS message of one step on every session, signed with the device key. -/
def sendDigest (n : Nat) (dig : BitVec 384) : Act := .look fun m =>
  let body := leBytes 8 n ++ leBytes 48 dig.toNat
  let sig := Config.sign (Config.sha384 body)
  onlyIf (tfwAlive m) (forEach m.sessions fun x =>
    emit (.mgmt x.id mtDigests 0 rOk (wordsOf (body ++ leBytes 96 sig.toNat))))

/-- The running digest completes. -/
def execShadowDigestDone (s : State) : Result := done (.look fun m =>
  match m.shadow with
  | none => .nop
  | some x => match x.running with
    | none => .nop
    | some (n, bs) =>
      let dig := Config.sha384 (bs ++ leBytes 8 n)
      let source := decide (m.fld ER_SHADOW_STAT ER_SHADOW_STAT_ROLE = 1)
      acts [
        .upd (.shadow (some { x with
          running := none
          own := if source then x.own else x.own.put n dig })),
        forEach (List.range 6) (fun w => .upd (.reg (ER_SHADOW_DIG w) (BitVec.ofNat 64 (bitsOf dig (64 * w) 64)))),
        arrive x.doneCnt 1,
        if source then sendDigest n dig else compareStep n]) s

/-- The source's digests reach the shadow, which verifies and compares them. -/
def execMgmtFeed (id : Nat) (tag : Word) (source : BitVec 14) (sigOk : Bool) (steps : List (Word × BitVec 384)) (s : State) :
    Result := done (message id tag true true (.look fun m =>
  match m.shadow with
  | none => emit (.mgmt id mtFeed tag rState [])
  | some x =>
    if m.fld ER_SHADOW_STAT ER_SHADOW_STAT_ROLE ≠ 2 then emit (.mgmt id mtFeed tag rState [])
    else if !sigOk ∨ source ≠ x.source then emit (.mgmt id mtFeed tag rSignature [])
    else acts [
      forEach steps (fun e => .look fun m => match m.shadow with
        | none => .nop
        | some x => acts [
            .upd (.shadow (some { x with peer := x.peer.put e.1.toNat e.2 })),
            compareStep e.1.toNat]),
      emit (.mgmt id mtFeed tag rOk [])])) s

def execShadowUnmatched (step : Word) (s : State) : Result := done (.look fun m =>
  match m.shadow with
  | none => .nop
  | some x => onlyIf (((x.own.get? step.toNat).isSome || (x.peer.get? step.toNat).isSome)) (acts [
      .upd (.shadow (some { x with
        own := x.own.del step.toNat
        peer := x.peer.del step.toNat })),
      bumpSat ER_SHADOW_STAT ER_SHADOW_STAT_UNMATCHED 1])) s

/-! ### Availability, the management PHY, SMBus (R527, R547, R548) -/

def execAvailHourly (s : State) : Result := done (.look fun m =>
  onlyIf (decide (m.lossHour / 1000000 < m.lossNs / 1000000)) (acts [
    .upd (.loss m.lossNs m.lossNs),
    record (qDie mgmtDie) 0x1004 clsTransient .plain none dpNone mpTfw (detail [(32, 8, m.lossNs / 1000000)])])) s

/-- A scan of the MDIO addresses: the first PHY that answers is used. -/
def execPhyScan (found : Option (Fin 32)) (s : State) : Result := done (.look fun m =>
  onlyIf (tfwAlive m && m.pins.phyReset && m.pins.phy.isNone) (match found with
    | some p => modPins fun x => { x with phy := some p.val }
    | none => record (qDie mgmtDie) 0x0D06 clsLasting .plain none dpNone mpTfw 0)) s

/-- A block read of the SMBus target: no address is answered before the straps are sampled. -/
def smbusRead (offs : List Nat) : Act := .look fun m =>
  onlyIf (m.flag MOD_POSITION MOD_POSITION_STRAPS_VALID) (emit (.smbus (offs.map (regView m))))

def execSmbusReadIdent (s : State) : Result := done (smbusRead [ MOD_IDENT]) s
def execSmbusReadPosition (s : State) : Result := done (smbusRead [ MOD_POSITION]) s
def execSmbusReadState (s : State) : Result := done (smbusRead [TR_STATE, TH_STATUS]) s
def execSmbusReadDieState (s : State) : Result := done (smbusRead [ MOD_DIE_STATE]) s
def execSmbusReadThDie (n : Fin 22) (s : State) : Result := done (smbusRead [TH_DIE n]) s
def execSmbusReadAvail (s : State) : Result := done (smbusRead [ER_AVAIL]) s

end Sys2Proof.Machine
end

