-- ==== Sys2Proof/Machine/Dispatch.lean ====
section
/-! DEFINITION. The meaning of every command: one arm per constructor of Instr. -/

namespace Sys2Proof.Machine

def exec (i : Instr) (s : State) : Host.Outcome State Fault Refusal :=
  match i with
  | .registerWrite who off size val => Sys2Proof.Machine.execRegisterWrite who off size val s
  | .ringReset who d r val => Sys2Proof.Machine.execRingReset who d r val s
  | .ptCalStart who p val => Sys2Proof.Machine.execPtCalStart who p val s
  | .ptCalFlagClear who p val => Sys2Proof.Machine.execPtCalFlagClear who p val s
  | .sorusReset who val => Sys2Proof.Machine.execSorusReset who val s
  | .portReset who val => Sys2Proof.Machine.execPortReset who val s
  | .ddResetFlagClear who val => Sys2Proof.Machine.execDdResetFlagClear who val s
  | .faultClear who val => Sys2Proof.Machine.execFaultClear who val s
  | .add t e f => Sys2Proof.Machine.execAdd t e f s
  | .sub t e f => Sys2Proof.Machine.execSub t e f s
  | .and t e f => Sys2Proof.Machine.execAnd t e f s
  | .or t e f => Sys2Proof.Machine.execOr t e f s
  | .xor t e f => Sys2Proof.Machine.execXor t e f s
  | .sll t e f => Sys2Proof.Machine.execSll t e f s
  | .srl t e f => Sys2Proof.Machine.execSrl t e f s
  | .sra t e f => Sys2Proof.Machine.execSra t e f s
  | .mul t e f => Sys2Proof.Machine.execMul t e f s
  | .mulhu t e f => Sys2Proof.Machine.execMulhu t e f s
  | .divu t e f => Sys2Proof.Machine.execDivu t e f s
  | .remu t e f => Sys2Proof.Machine.execRemu t e f s
  | .slt t e f => Sys2Proof.Machine.execSlt t e f s
  | .sltu t e f => Sys2Proof.Machine.execSltu t e f s
  | .min t e f => Sys2Proof.Machine.execMin t e f s
  | .max t e f => Sys2Proof.Machine.execMax t e f s
  | .addi t e f => Sys2Proof.Machine.execAddi t e f s
  | .andi t e f => Sys2Proof.Machine.execAndi t e f s
  | .ori t e f => Sys2Proof.Machine.execOri t e f s
  | .xori t e f => Sys2Proof.Machine.execXori t e f s
  | .slli t e f => Sys2Proof.Machine.execSlli t e f s
  | .srli t e f => Sys2Proof.Machine.execSrli t e f s
  | .srai t e f => Sys2Proof.Machine.execSrai t e f s
  | .li t e f => Sys2Proof.Machine.execLi t e f s
  | .lih t e f => Sys2Proof.Machine.execLih t e f s
  | .slti t e f => Sys2Proof.Machine.execSlti t e f s
  | .clz t e f => Sys2Proof.Machine.execClz t e f s
  | .popc t e f => Sys2Proof.Machine.execPopc t e f s
  | .lb t e f => Sys2Proof.Machine.execLb t e f s
  | .lbu t e f => Sys2Proof.Machine.execLbu t e f s
  | .lh t e f => Sys2Proof.Machine.execLh t e f s
  | .lhu t e f => Sys2Proof.Machine.execLhu t e f s
  | .lw t e f => Sys2Proof.Machine.execLw t e f s
  | .lwu t e f => Sys2Proof.Machine.execLwu t e f s
  | .ld t e f => Sys2Proof.Machine.execLd t e f s
  | .sb t e f => Sys2Proof.Machine.execSb t e f s
  | .sh t e f => Sys2Proof.Machine.execSh t e f s
  | .sw t e f => Sys2Proof.Machine.execSw t e f s
  | .sd t e f => Sys2Proof.Machine.execSd t e f s
  | .beq t e f => Sys2Proof.Machine.execBeq t e f s
  | .bne t e f => Sys2Proof.Machine.execBne t e f s
  | .blt t e f => Sys2Proof.Machine.execBlt t e f s
  | .bge t e f => Sys2Proof.Machine.execBge t e f s
  | .bltu t e f => Sys2Proof.Machine.execBltu t e f s
  | .bgeu t e f => Sys2Proof.Machine.execBgeu t e f s
  | .bbs t e f => Sys2Proof.Machine.execBbs t e f s
  | .bbc t e f => Sys2Proof.Machine.execBbc t e f s
  | .jal t e f => Sys2Proof.Machine.execJal t e f s
  | .jr t e f => Sys2Proof.Machine.execJr t e f s
  | .srd t e f => Sys2Proof.Machine.execSrd t e f s
  | .endStage t e f => Sys2Proof.Machine.execEndStage t e f s
  | .nop t e f => Sys2Proof.Machine.execNop t e f s
  | .vadd t e f => Sys2Proof.Machine.execVadd t e f s
  | .vsub t e f => Sys2Proof.Machine.execVsub t e f s
  | .vmul t e f => Sys2Proof.Machine.execVmul t e f s
  | .vfma t e f => Sys2Proof.Machine.execVfma t e f s
  | .vmin t e f => Sys2Proof.Machine.execVmin t e f s
  | .vmax t e f => Sys2Proof.Machine.execVmax t e f s
  | .vand t e f => Sys2Proof.Machine.execVand t e f s
  | .vor t e f => Sys2Proof.Machine.execVor t e f s
  | .vxor t e f => Sys2Proof.Machine.execVxor t e f s
  | .vshl t e f => Sys2Proof.Machine.execVshl t e f s
  | .vshr t e f => Sys2Proof.Machine.execVshr t e f s
  | .vabs t e f => Sys2Proof.Machine.execVabs t e f s
  | .vneg t e f => Sys2Proof.Machine.execVneg t e f s
  | .vsel t e f => Sys2Proof.Machine.execVsel t e f s
  | .vcmplt t e f => Sys2Proof.Machine.execVcmplt t e f s
  | .vcmpeq t e f => Sys2Proof.Machine.execVcmpeq t e f s
  | .vcmple t e f => Sys2Proof.Machine.execVcmple t e f s
  | .vbcast t e f => Sys2Proof.Machine.execVbcast t e f s
  | .vtos t e f => Sys2Proof.Machine.execVtos t e f s
  | .vredadd t e f => Sys2Proof.Machine.execVredadd t e f s
  | .vredmax t e f => Sys2Proof.Machine.execVredmax t e f s
  | .vredmin t e f => Sys2Proof.Machine.execVredmin t e f s
  | .vexp2 t e f => Sys2Proof.Machine.execVexp2 t e f s
  | .vlog2 t e f => Sys2Proof.Machine.execVlog2 t e f s
  | .vrcp t e f => Sys2Proof.Machine.execVrcp t e f s
  | .vrsqrt t e f => Sys2Proof.Machine.execVrsqrt t e f s
  | .vtanh t e f => Sys2Proof.Machine.execVtanh t e f s
  | .vsigm t e f => Sys2Proof.Machine.execVsigm t e f s
  | .vcvt t e f => Sys2Proof.Machine.execVcvt t e f s
  | .pmov t e f => Sys2Proof.Machine.execPmov t e f s
  | .ptos t e f => Sys2Proof.Machine.execPtos t e f s
  | .pand t e f => Sys2Proof.Machine.execPand t e f s
  | .por t e f => Sys2Proof.Machine.execPor t e f s
  | .vld t e f => Sys2Proof.Machine.execVld t e f s
  | .vst t e f => Sys2Proof.Machine.execVst t e f s
  | .vgather t e f => Sys2Proof.Machine.execVgather t e f s
  | .vscatter t e f => Sys2Proof.Machine.execVscatter t e f s
  | .mma t e f => Sys2Proof.Machine.execMma t e f s
  | .mmaTs t e f => Sys2Proof.Machine.execMmaTs t e f s
  | .tfill t e f => Sys2Proof.Machine.execTfill t e f s
  | .tdrain t e f => Sys2Proof.Machine.execTdrain t e f s
  | .tmove t e f => Sys2Proof.Machine.execTmove t e f s
  | .tzero t e f => Sys2Proof.Machine.execTzero t e f s
  | .tstrm t e f => Sys2Proof.Machine.execTstrm t e f s
  | .trowst t e f => Sys2Proof.Machine.execTrowst t e f s
  | .xdesc t e f => Sys2Proof.Machine.execXdesc t e f s
  | .xcopy t e f => Sys2Proof.Machine.execXcopy t e f s
  | .xld t e f => Sys2Proof.Machine.execXld t e f s
  | .xst t e f => Sys2Proof.Machine.execXst t e f s
  | .xamo t e f => Sys2Proof.Machine.execXamo t e f s
  | .waitc t e f => Sys2Proof.Machine.execWaitc t e f s
  | .consume t e f => Sys2Proof.Machine.execConsume t e f s
  | .cread t e f => Sys2Proof.Machine.execCread t e f s
  | .fenceL t e f => Sys2Proof.Machine.execFenceL t e f s
  | .fenceF t e f => Sys2Proof.Machine.execFenceF t e f s
  | .acq t e f => Sys2Proof.Machine.execAcq t e f s
  | .flush t e f => Sys2Proof.Machine.execFlush t e f s
  | .stageStop t => Sys2Proof.Machine.execStageStop t s
  | .stageDeadlineExpiry t => Sys2Proof.Machine.execStageDeadlineExpiry t s
  | .nearCacheRefillDone t e => Sys2Proof.Machine.execNearCacheRefillDone t e s
  | .xldReply t tag => Sys2Proof.Machine.execXldReply t tag s
  | .issueStallEnd t e => Sys2Proof.Machine.execIssueStallEnd t e s
  | .fenceComplete t => Sys2Proof.Machine.execFenceComplete t s
  | .rangeOpComplete t => Sys2Proof.Machine.execRangeOpComplete t s
  | .stageEndReport t => Sys2Proof.Machine.execStageEndReport t s
  | .waitSatisfied t => Sys2Proof.Machine.execWaitSatisfied t s
  | .waitDeadline t => Sys2Proof.Machine.execWaitDeadline t s
  | .fillComplete t fr e => Sys2Proof.Machine.execFillComplete t fr e s
  | .accumulatorComplete t fr acc e => Sys2Proof.Machine.execAccumulatorComplete t fr acc e s
  | .drainComplete t fr e => Sys2Proof.Machine.execDrainComplete t fr e s
  | .wakeRequest d unit stamp => Sys2Proof.Machine.execWakeRequest d unit stamp s
  | .wakeGrant d => Sys2Proof.Machine.execWakeGrant d s
  | .sorusWakeComplete g => Sys2Proof.Machine.execSorusWakeComplete g s
  | .sorusPowerGate g => Sys2Proof.Machine.execSorusPowerGate g s
  | .sorusDeepOff g => Sys2Proof.Machine.execSorusDeepOff g s
  | .deadlineWakeTimer g => Sys2Proof.Machine.execDeadlineWakeTimer g s
  | .pllStop d => Sys2Proof.Machine.execPllStop d s
  | .pllLocked d => Sys2Proof.Machine.execPllLocked d s
  | .routerBatch d b e => Sys2Proof.Machine.execRouterBatch d b e s
  | .batchComplete d b => Sys2Proof.Machine.execBatchComplete d b s
  | .queueEnqueue d b => Sys2Proof.Machine.execQueueEnqueue d b s
  | .gatherRelease d q lost => Sys2Proof.Machine.execGatherRelease d q lost s
  | .releaseArrived d q => Sys2Proof.Machine.execReleaseArrived d q s
  | .windowExpiry d q => Sys2Proof.Machine.execWindowExpiry d q s
  | .queueFlush d q => Sys2Proof.Machine.execQueueFlush d q s
  | .ringPoll d r => Sys2Proof.Machine.execRingPoll d r s
  | .ringEntryRead d r entry => Sys2Proof.Machine.execRingEntryRead d r entry s
  | .ringLaunch d r shared e => Sys2Proof.Machine.execRingLaunch d r shared e s
  | .ringCancel d r => Sys2Proof.Machine.execRingCancel d r s
  | .ringNop d r => Sys2Proof.Machine.execRingNop d r s
  | .launchResources d unit => Sys2Proof.Machine.execLaunchResources d unit s
  | .launchLoadDone d unit e => Sys2Proof.Machine.execLaunchLoadDone d unit e s
  | .stageWakeDue d unit st => Sys2Proof.Machine.execStageWakeDue d unit st s
  | .launchEnding d unit => Sys2Proof.Machine.execLaunchEnding d unit s
  | .launchDeadline d unit => Sys2Proof.Machine.execLaunchDeadline d unit s
  | .homeAccess n e => Sys2Proof.Machine.execHomeAccess n e s
  | .journalHoldRelease m k => Sys2Proof.Machine.execJournalHoldRelease m k s
  | .sumpIdleWriteback m line => Sys2Proof.Machine.execSumpIdleWriteback m line s
  | .stackSelfRefresh stack => Sys2Proof.Machine.execStackSelfRefresh stack s
  | .readRetryResult stack good => Sys2Proof.Machine.execReadRetryResult stack good s
  | .writeRepeatResult stack good => Sys2Proof.Machine.execWriteRepeatResult stack good s
  | .remapCopyDone stack failed => Sys2Proof.Machine.execRemapCopyDone stack failed s
  | .scrubRead stack burst e => Sys2Proof.Machine.execScrubRead stack burst e s
  | .stackTempPoll stack first second => Sys2Proof.Machine.execStackTempPoll stack first second s
  | .marginingDone stack res => Sys2Proof.Machine.execMarginingDone stack res s
  | .chamberClearDone k => Sys2Proof.Machine.execChamberClearDone k s
  | .stackZeroDone m => Sys2Proof.Machine.execStackZeroDone m s
  | .ledgerRequest m => Sys2Proof.Machine.execLedgerRequest m s
  | .ledgerSnapshot => Sys2Proof.Machine.execLedgerSnapshot s
  | .ledgerCheck pool read1 read2 => Sys2Proof.Machine.execLedgerCheck pool read1 read2 s
  | .dataFlit p f => Sys2Proof.Machine.execDataFlit p f s
  | .controlFlit p f => Sys2Proof.Machine.execControlFlit p f s
  | .controlFlitSend p => Sys2Proof.Machine.execControlFlitSend p s
  | .nakRepeat p => Sys2Proof.Machine.execNakRepeat p s
  | .linkLoss p => Sys2Proof.Machine.execLinkLoss p s
  | .linkUp p => Sys2Proof.Machine.execLinkUp p s
  | .onpkgLinkLoss n => Sys2Proof.Machine.execOnpkgLinkLoss n s
  | .withdraw p moduleId reason at_ tag => Sys2Proof.Machine.execWithdraw p moduleId reason at_ tag s
  | .withdrawReply p => Sys2Proof.Machine.execWithdrawReply p s
  | .withdrawDrainEnd => Sys2Proof.Machine.execWithdrawDrainEnd s
  | .discover p msg certOk sigOk => Sys2Proof.Machine.execDiscover p msg certOk sigOk s
  | .discoverReply p stage => Sys2Proof.Machine.execDiscoverReply p stage s
  | .discoveryTimeout p => Sys2Proof.Machine.execDiscoveryTimeout p s
  | .discoveryRetryTimer p => Sys2Proof.Machine.execDiscoveryRetryTimer p s
  | .portAbsent p => Sys2Proof.Machine.execPortAbsent p s
  | .absentRetrain p => Sys2Proof.Machine.execAbsentRetrain p s
  | .routeNotice p moduleId serial reach dist tag => Sys2Proof.Machine.execRouteNotice p moduleId serial reach dist tag s
  | .routeNoticeReply p => Sys2Proof.Machine.execRouteNoticeReply p s
  | .routeNoticeTimer => Sys2Proof.Machine.execRouteNoticeTimer s
  | .passageExpiry slot => Sys2Proof.Machine.execPassageExpiry slot s
  | .timeExchangeTimer => Sys2Proof.Machine.execTimeExchangeTimer s
  | .timeExchange p t1 t2 tag => Sys2Proof.Machine.execTimeExchange p t1 t2 tag s
  | .timeExchangeReply p t1 t2 t3 t4 dist source locked => Sys2Proof.Machine.execTimeExchangeReply p t1 t2 t3 t4 dist source locked s
  | .ppsEdge stamp => Sys2Proof.Machine.execPpsEdge stamp s
  | .ppsLoss => Sys2Proof.Machine.execPpsLoss s
  | .chamberStartDecision k => Sys2Proof.Machine.execChamberStartDecision k s
  | .strapSample v => Sys2Proof.Machine.execStrapSample v s
  | .strapTimeout => Sys2Proof.Machine.execStrapTimeout s
  | .load unit pk e => Sys2Proof.Machine.execLoad unit pk e s
  | .store unit pk e => Sys2Proof.Machine.execStore unit pk e s
  | .atomic unit pk e => Sys2Proof.Machine.execAtomic unit pk e s
  | .copyWrite unit pk e => Sys2Proof.Machine.execCopyWrite unit pk e s
  | .copyRead unit pk e => Sys2Proof.Machine.execCopyRead unit pk e s
  | .blockFetch unit pk e => Sys2Proof.Machine.execBlockFetch unit pk e s
  | .aggStore unit pk e => Sys2Proof.Machine.execAggStore unit pk e s
  | .remoteReply pk => Sys2Proof.Machine.execRemoteReply pk s
  | .statusOnly pk => Sys2Proof.Machine.execStatusOnly pk s
  | .requestTimeout tag => Sys2Proof.Machine.execRequestTimeout tag s
  | .aggBufferSend unit n => Sys2Proof.Machine.execAggBufferSend unit n s
  | .descCopy t seq e => Sys2Proof.Machine.execDescCopy t seq e s
  | .descFanout t seq e => Sys2Proof.Machine.execDescFanout t seq e s
  | .descAmoArray t seq e => Sys2Proof.Machine.execDescAmoArray t seq e s
  | .descQsend t seq e => Sys2Proof.Machine.execDescQsend t seq e s
  | .descUnpack t seq e => Sys2Proof.Machine.execDescUnpack t seq e s
  | .transferComplete t seq e => Sys2Proof.Machine.execTransferComplete t seq e s
  | .feedPilotCheck f lines total => Sys2Proof.Machine.execFeedPilotCheck f lines total s
  | .feedFullPowerCheck f lines total => Sys2Proof.Machine.execFeedFullPowerCheck f lines total s
  | .feedPilotRetry f => Sys2Proof.Machine.execFeedPilotRetry f s
  | .feedPowerLoss f => Sys2Proof.Machine.execFeedPowerLoss f s
  | .ringLockLoss p tx l => Sys2Proof.Machine.execRingLockLoss p tx l s
  | .ringRelockTimeout p tx l => Sys2Proof.Machine.execRingRelockTimeout p tx l s
  | .monitorReading mon cdb => Sys2Proof.Machine.execMonitorReading mon cdb s
  | .moveReq p frame => Sys2Proof.Machine.execMoveReq p frame s
  | .trainStart p frame => Sys2Proof.Machine.execTrainStart p frame s
  | .trained p frame => Sys2Proof.Machine.execTrained p frame s
  | .mirrorOn p frame => Sys2Proof.Machine.execMirrorOn p frame s
  | .switched p frame => Sys2Proof.Machine.execSwitched p frame s
  | .calStart p frame => Sys2Proof.Machine.execCalStart p frame s
  | .calDone p frame => Sys2Proof.Machine.execCalDone p frame s
  | .lmcAbort p frame => Sys2Proof.Machine.execLmcAbort p frame s
  | .lmcMap p frame => Sys2Proof.Machine.execLmcMap p frame s
  | .lmcAck p frame => Sys2Proof.Machine.execLmcAck p frame s
  | .lmcFrameRepeat p => Sys2Proof.Machine.execLmcFrameRepeat p s
  | .laneTrained p x => Sys2Proof.Machine.execLaneTrained p x s
  | .mirrorVerified p => Sys2Proof.Machine.execMirrorVerified p s
  | .spareRetrainDone p x pass => Sys2Proof.Machine.execSpareRetrainDone p x pass s
  | .calibrationPhaseEnd pass => Sys2Proof.Machine.execCalibrationPhaseEnd pass s
  | .calSettingsRestored p => Sys2Proof.Machine.execCalSettingsRestored p s
  | .selectorRelockDone p l => Sys2Proof.Machine.execSelectorRelockDone p l s
  | .hello p version winLog2 modTags hostTags => Sys2Proof.Machine.execHello p version winLog2 modTags hostTags s
  | .helloRepeat p => Sys2Proof.Machine.execHelloRepeat p s
  | .inv off tag => Sys2Proof.Machine.execInv off tag s
  | .recall off tag => Sys2Proof.Machine.execRecall off tag s
  | .voloshData tag status state data => Sys2Proof.Machine.execVoloshData tag status state data s
  | .voloshAck tag status => Sys2Proof.Machine.execVoloshAck tag status s
  | .devRd tag addr rlen e => Sys2Proof.Machine.execDevRd tag addr rlen e s
  | .devWr tag addr data cen cnt e => Sys2Proof.Machine.execDevWr tag addr data cen cnt e s
  | .regRd tag off rlen => Sys2Proof.Machine.execRegRd tag off rlen s
  | .regWr tag off data => Sys2Proof.Machine.execRegWr tag off data s
  | .wbTimer off => Sys2Proof.Machine.execWbTimer off s
  | .voloshLoss => Sys2Proof.Machine.execVoloshLoss s
  | .getVersion version => Sys2Proof.Machine.execGetVersion version s
  | .getCapabilities flags => Sys2Proof.Machine.execGetCapabilities flags s
  | .negotiateAlgorithms offersFixedSet => Sys2Proof.Machine.execNegotiateAlgorithms offersFixedSet s
  | .getDigests => Sys2Proof.Machine.execGetDigests s
  | .getCertificate slot off len => Sys2Proof.Machine.execGetCertificate slot off len s
  | .getMeasurements nonce signed => Sys2Proof.Machine.execGetMeasurements nonce signed s
  | .keyExchange reqSession exchange => Sys2Proof.Machine.execKeyExchange reqSession exchange s
  | .finish verifyOk mutualOk => Sys2Proof.Machine.execFinish verifyOk mutualOk s
  | .bind tag stamp => Sys2Proof.Machine.execBind tag stamp s
  | .keyUpdate => Sys2Proof.Machine.execKeyUpdate s
  | .endSession => Sys2Proof.Machine.execEndSession s
  | .spdmHeartbeat => Sys2Proof.Machine.execSpdmHeartbeat s
  | .spdmHeartbeatTimeout => Sys2Proof.Machine.execSpdmHeartbeatTimeout s
  | .spdmAttest nonce => Sys2Proof.Machine.execSpdmAttest nonce s
  | .getDigestList k page => Sys2Proof.Machine.execGetDigestList k page s
  | .bounceLoad k slot => Sys2Proof.Machine.execBounceLoad k slot s
  | .bounceExport k slot e => Sys2Proof.Machine.execBounceExport k slot e s
  | .bounceNop k slot => Sys2Proof.Machine.execBounceNop k slot s
  | .dripLoss => Sys2Proof.Machine.execDripLoss s
  | .dripRestore => Sys2Proof.Machine.execDripRestore s
  | .sensorSample sn first second => Sys2Proof.Machine.execSensorSample sn first second s
  | .thermalRelease n => Sys2Proof.Machine.execThermalRelease n s
  | .warmReset => Sys2Proof.Machine.execWarmReset s
  | .modResetRelease => Sys2Proof.Machine.execModResetRelease s
  | .powerFail => Sys2Proof.Machine.execPowerFail s
  | .coldStart vaon present => Sys2Proof.Machine.execColdStart vaon present s
  | .laserFault f => Sys2Proof.Machine.execLaserFault f s
  | .inputMaskEnd n level => Sys2Proof.Machine.execInputMaskEnd n level s
  | .heldLevelReport n => Sys2Proof.Machine.execHeldLevelReport n s
  | .vaonLoss => Sys2Proof.Machine.execVaonLoss s
  | .sfwWatchdog => Sys2Proof.Machine.execSfwWatchdog s
  | .lockstepMismatch pc within1s => Sys2Proof.Machine.execLockstepMismatch pc within1s s
  | .slotConfirm => Sys2Proof.Machine.execSlotConfirm s
  | .windowGate mb k win w0 w1 w2 w3 => Sys2Proof.Machine.execWindowGate mb k win w0 w1 w2 w3 s
  | .feedEnable mb feed => Sys2Proof.Machine.execFeedEnable mb feed s
  | .feedDisable mb feed => Sys2Proof.Machine.execFeedDisable mb feed s
  | .feedHandover mb io feed => Sys2Proof.Machine.execFeedHandover mb io feed s
  | .stackMargin mb m c => Sys2Proof.Machine.execStackMargin mb m c s
  | .stackMarginReturn mb m c => Sys2Proof.Machine.execStackMarginReturn mb m c s
  | .stackRemove mb m c => Sys2Proof.Machine.execStackRemove mb m c s
  | .timeStart mb v => Sys2Proof.Machine.execTimeStart mb v s
  | .updateChunk mb kind idx page => Sys2Proof.Machine.execUpdateChunk mb kind idx page s
  | .updateCommit mb kind len sigOk => Sys2Proof.Machine.execUpdateCommit mb kind len sigOk s
  | .isolateDie mb die => Sys2Proof.Machine.execIsolateDie mb die s
  | .withdrawCommand mb => Sys2Proof.Machine.execWithdrawCommand mb s
  | .startShadow mb a0 a1 a2 a3 a4 => Sys2Proof.Machine.execStartShadow mb a0 a1 a2 a3 a4 s
  | .clearChamber mb k => Sys2Proof.Machine.execClearChamber mb k s
  | .maintEnter mb => Sys2Proof.Machine.execMaintEnter mb s
  | .maintLeave mb => Sys2Proof.Machine.execMaintLeave mb s
  | .commission mb part last page rootSigned => Sys2Proof.Machine.execCommission mb part last page rootSigned s
  | .heartbeatLoss n => Sys2Proof.Machine.execHeartbeatLoss n s
  | .dieRejoin n => Sys2Proof.Machine.execDieRejoin n s
  | .standaloneTestDone n code => Sys2Proof.Machine.execStandaloneTestDone n code s
  | .zalaoftIdent n rec => Sys2Proof.Machine.execZalaoftIdent n rec s
  | .zalaoftLink n rec => Sys2Proof.Machine.execZalaoftLink n rec s
  | .zalaoftFabric n rec => Sys2Proof.Machine.execZalaoftFabric n rec s
  | .zalaoftPorts n rec => Sys2Proof.Machine.execZalaoftPorts n rec s
  | .zalaoftPool n rec => Sys2Proof.Machine.execZalaoftPool n rec s
  | .zalaoftLedger n rec => Sys2Proof.Machine.execZalaoftLedger n rec s
  | .zalaoftTime n rec => Sys2Proof.Machine.execZalaoftTime n rec s
  | .zalaoftMgmt n rec => Sys2Proof.Machine.execZalaoftMgmt n rec s
  | .zalaoftAccessory n rec => Sys2Proof.Machine.execZalaoftAccessory n rec s
  | .capEnd n rec => Sys2Proof.Machine.execCapEnd n rec s
  | .agree n rec => Sys2Proof.Machine.execAgree n rec s
  | .agreeAck n rec => Sys2Proof.Machine.execAgreeAck n rec s
  | .negotiationTimeout n => Sys2Proof.Machine.execNegotiationTimeout n s
  | .accessoryRequest pk e => Sys2Proof.Machine.execAccessoryRequest pk e s
  | .recordTake => Sys2Proof.Machine.execRecordTake s
  | .scoreUpdate => Sys2Proof.Machine.execScoreUpdate s
  | .sessionOpen control chainOk => Sys2Proof.Machine.execSessionOpen control chainOk s
  | .sessionTimeout id => Sys2Proof.Machine.execSessionTimeout id s
  | .mgmtAttest id tag nonce => Sys2Proof.Machine.execMgmtAttest id tag nonce s
  | .mgmtRecords id tag first count follow => Sys2Proof.Machine.execMgmtRecords id tag first count follow s
  | .mgmtScores id tag kinds min => Sys2Proof.Machine.execMgmtScores id tag kinds min s
  | .mgmtRead id tag off count => Sys2Proof.Machine.execMgmtRead id tag off count s
  | .mgmtGate id tag gate args page => Sys2Proof.Machine.execMgmtGate id tag gate args page s
  | .mgmtFeed id tag source sigOk steps => Sys2Proof.Machine.execMgmtFeed id tag source sigOk steps s
  | .mgmtHeartbeat id => Sys2Proof.Machine.execMgmtHeartbeat id s
  | .mgmtHeartbeatSend => Sys2Proof.Machine.execMgmtHeartbeatSend s
  | .shadowStep m => Sys2Proof.Machine.execShadowStep m s
  | .shadowDigestDone => Sys2Proof.Machine.execShadowDigestDone s
  | .shadowUnmatched step => Sys2Proof.Machine.execShadowUnmatched step s
  | .availHourly => Sys2Proof.Machine.execAvailHourly s
  | .phyScan found => Sys2Proof.Machine.execPhyScan found s
  | .smbusReadIdent => Sys2Proof.Machine.execSmbusReadIdent s
  | .smbusReadPosition => Sys2Proof.Machine.execSmbusReadPosition s
  | .smbusReadState => Sys2Proof.Machine.execSmbusReadState s
  | .smbusReadDieState => Sys2Proof.Machine.execSmbusReadDieState s
  | .smbusReadThDie n => Sys2Proof.Machine.execSmbusReadThDie n s
  | .smbusReadAvail => Sys2Proof.Machine.execSmbusReadAvail s
  | .suspectLaneRetrained p tx l pass => Sys2Proof.Machine.execSuspectLaneRetrained p tx l pass s
  | .laserFaultCleared f => Sys2Proof.Machine.execLaserFaultCleared f s
  | .voloshUnlistedRequest opc tag => Sys2Proof.Machine.execVoloshUnlistedRequest opc tag s
  | .flashWriteDone ok => Sys2Proof.Machine.execFlashWriteDone ok s
  | .sorusResetDone g => Sys2Proof.Machine.execSorusResetDone g s
  | .ucieTrainingDone n pass => Sys2Proof.Machine.execUcieTrainingDone n pass s
  | .ucieLaneRepairDone n mod pass => Sys2Proof.Machine.execUcieLaneRepairDone n mod pass s
  | .stackTrainingDone m => Sys2Proof.Machine.execStackTrainingDone m s
  | .tokenAdmission m k e => Sys2Proof.Machine.execTokenAdmission m k e s
  | .flitSlotGrant p => Sys2Proof.Machine.execFlitSlotGrant p s
  | .ringReacquired p tx l => Sys2Proof.Machine.execRingReacquired p tx l s
  | .jtagStandaloneTest n => Sys2Proof.Machine.execJtagStandaloneTest n s
  | .issuePeriodEnd t fr e => Sys2Proof.Machine.execIssuePeriodEnd t fr e s

end Sys2Proof.Machine
end

