-- ==== Sys2Proof/Safety.lean ====
section
/-! DEFINITION. What counts as a safe step, and the vocabulary in which the statements speak of an instruction that is
ready to issue and of one that has retired. -/

namespace Sys2Proof

open Sys2Proof.Machine

/-- A result that is a next state. -/
def Safe (r : Machine.Result) : Prop := ∃ t, r = .next t

/-- The word `w` stands at the program counter of a running thallus that nothing holds, its reserved bits are zero, no
register in `regs` waits for a reply, and its fetch is good (R52, R53, R93, R112, R122). -/
abbrev Ready (m : Mod) (t : Fin 1200) (e : Env) (w : Word) (used : List (Nat × Nat)) (regs : List Nat) : Prop :=
  mayIssue m t = true ∧ (m.thallus t).held = none ∧ (m.thallus t).pc.toNat % 8 = 0 ∧
  (m.thallus t).pc.toNat < 8 * (m.thallus t).codeLen ∧ (m.thallus t).istore.getD ((m.thallus t).pc.toNat / 8) 0 = w ∧
  e.fetch = .good ∧ badBits w used = false ∧ waitsFor (m.thallus t) regs = false

/-- A module in which one thallus has taken `f` and the rest is as it was. -/
def withThallus (m : Mod) (t : Nat) (f : Thallus → Thallus) : Mod :=
  { m with thalli := m.thalli.put t (f (m.thallus t)) }

/-- The thallus after an instruction with the effect `f` on it has retired: the program counter moves past its word. -/
def retire (f : Thallus → Thallus) (th : Thallus) : Thallus :=
  { f th with pc := th.pc + 8, held := none, branchPc := none }

/-- The state after an instruction whose whole effect is `f` on its thallus has retired. -/
def retired (s : State) (t : Nat) (f : Thallus → Thallus) : State :=
  { s with mod := withThallus s.mod t (retire f) }

/-- The state after a taken branch. -/
def branched (s : State) (t : Nat) (target : Word) (f : Thallus → Thallus) : State :=
  { s with mod := withThallus s.mod t fun th => { f th with pc := target, held := none, branchPc := some th.pc } }

/-- The state after an instruction that also writes bytes of memory. -/
def storedAt (s : State) (t : Nat) (a : Nat) (bs : List Byte) : State :=
  { s with mod := { withThallus s.mod t (retire id) with mem := memWrite s.mod.mem a bs } }

end Sys2Proof
end

