-- ==== Sys2Proof/WellFormed.lean ====
section
/-! DEFINITION. Which terms of `Instr` are commands that can reach the module: the lengths and ranges that the
formats of the manual fix and that the operand types do not. -/

namespace Sys2Proof

/-- A fabric packet holds as many data bytes as its LEN says, at most 4,096 (R262, R263). -/
def Packet.wf (p : Packet) : Bool := decide (p.data.length = p.hdr.len.toNat ∧ p.data.length ≤ 4096)

/-- A packet of one operation code (R264). -/
def Packet.isOp (p : Packet) (op : Nat) : Bool := p.wf && decide (p.hdr.op.toNat = op)

/-- The lengths of a DISCOVER packet's parts (R306). -/
def DiscoverMsg.wf (d : DiscoverMsg) : Bool :=
  decide (d.nonce.length ≤ 48 ∧ d.chain.length ≤ 4032 ∧ d.signature.length ≤ 96)

/-- True for a command that the formats allow. -/
def Instr.wf : Instr → Bool
  | .load _ pk _ => pk.isOp 1
  | .store _ pk _ => pk.isOp 2
  | .atomic _ pk _ => pk.isOp 3
  | .copyWrite _ pk _ => pk.isOp 4
  | .copyRead _ pk _ => pk.isOp 5
  | .blockFetch _ pk _ => pk.isOp 6
  | .aggStore _ pk _ => pk.isOp 7
  | .remoteReply pk => pk.wf
  | .statusOnly pk => pk.isOp 0x4F
  | .accessoryRequest pk _ => pk.wf
  | .discover _ msg _ _ => msg.wf
  | .marginingDone _ res => decide (res.length = 8)
  | .feedPilotCheck _ lines _ => decide (lines.length = 18)
  | .feedFullPowerCheck _ lines _ => decide (lines.length = 18)
  | .scrubRead _ burst _ => decide (burst < 0x60000000)
  | .getMeasurements nonce _ => decide (nonce.length = 32)
  | .spdmAttest nonce => decide (nonce.length ≤ 48)
  | .mgmtAttest _ _ nonce => decide (nonce.length ≤ 48)
  | .bounceLoad _ slot => decide (64 ≤ slot.length)
  | .bounceExport _ slot _ => decide (64 ≤ slot.length)
  | .bounceNop _ slot => decide (64 ≤ slot.length)
  | .updateChunk _ _ _ page => decide (page.length = 4096)
  | .commission _ _ _ page _ => decide (page.length ≤ 4096)
  | .mgmtGate _ _ _ args page => decide (args.length ≤ 8 ∧ page.length ≤ 4096)
  | _ => true

end Sys2Proof
end

