-- ==== Sys2Proof/Certificates/Slice0/Obligations.lean ====
section
/-! DEFINITION. The statements for the provers. -/

open Sys2Proof Sys2Proof.Machine

/-- A step takes the command at the front of the queue and runs it with the queue's rest. -/
def Obligations.StepRunsFrontCommand : Prop :=
  ∀ (c : Instr) (rest : List Instr) (s : State), s.pending = c :: rest →
    step s = exec c { s with pending := rest }

/-- With no command waiting a step is one drip tick and bring-up (the model's choice, log 1): the queue stays empty, and
the tick counter grows by one. -/
def Obligations.EmptyQueueTicks : Prop :=
  ∀ s : State, s.pending = [] → ∃ t, step s = .next t ∧ t.pending = [] ∧ t.mod.tick = s.mod.tick + 1

namespace Sys2Proof.Claims

/-- Every ready word of an instruction retires with the effect `f` on its thallus, and changes nothing else, where `ok`
holds. -/
def Result (c : Fin 1200 → Env → BitVec 54 → Instr) (cls op : Nat) (used : List (Nat × Nat)) (regs : Word → List Nat)
    (ok : Mod → Nat → Env → Word → Prop) (f : Mod → Nat → Word → Thallus → Thallus) : Prop :=
  ∀ t e fl s, Ready s.mod t e (wordOf cls op fl) used (regs (wordOf cls op fl)) → ok s.mod t e (wordOf cls op fl) →
    exec (c t e fl) s = .next (retired s t (f s.mod t (wordOf cls op fl)))

/-- rd = ra op rb. -/
def RegReg (c : Fin 1200 → Env → BitVec 54 → Instr) (op : Nat) (v : Word → Word → Word) : Prop :=
  Result c 0 op [useRd, useRa, useRb] (fun w => [fRd w, fRa w, fRb w]) (fun _ _ _ _ => True)
    fun _ _ w th => th.sset (fRd w) (v (th.sget (fRa w)) (th.sget (fRb w)))

/-- rd = ra op IMM. -/
def RegImm (c : Fin 1200 → Env → BitVec 54 → Instr) (op : Nat) (v : Word → Word → Word) : Prop :=
  Result c 0 op [useRd, useRa, useImm] (fun w => [fRd w, fRa w]) (fun _ _ _ _ => True)
    fun _ _ w th => th.sset (fRd w) (v (th.sget (fRa w)) (fImm w))

/-- rd = ra shifted by IMM[5:0]. -/
def ShiftImm (c : Fin 1200 → Env → BitVec 54 → Instr) (op : Nat) (v : Word → Nat → Word) : Prop :=
  Result c 0 op [useRd, useRa, (20, 6)] (fun w => [fRd w, fRa w]) (fun _ _ _ _ => True)
    fun _ _ w th => th.sset (fRd w) (v (th.sget (fRa w)) (bitsOf w 20 6))

/-- rd = op ra. -/
def RegOne (c : Fin 1200 → Env → BitVec 54 → Instr) (op : Nat) (v : Word → Word) : Prop :=
  Result c 0 op [useRd, useRa] (fun w => [fRd w, fRa w]) (fun _ _ _ _ => True)
    fun _ _ w th => th.sset (fRd w) (v (th.sget (fRa w)))

end Sys2Proof.Claims

/-- s0 reads as zero and discards writes; every other scalar register reads as it was last written, and a write leaves
the others alone (R87). -/
def Obligations.ScalarRegisterZero : Prop :=
  (∀ th : Thallus, th.sget 0 = 0) ∧ (∀ (th : Thallus) (v : Word), th.sset 0 v = th) ∧
  (∀ (th : Thallus) (r : Nat) (v : Word), r ≠ 0 → (th.sset r v).sget r = v) ∧
  (∀ (th : Thallus) (r q : Nat) (v : Word), q ≠ r → (th.sset r v).sget q = th.sget q) ∧
  (∀ (th : Thallus) (v : BitVec 128), th.pget 0 = BitVec.allOnes 128 ∧ th.pset 0 v = th)

/-- Scalar register arithmetic (R95, R96): each instruction writes its result to rd, moves past its word, and leaves
every other register, the memory and the rest of the module as they were. -/
def Obligations.ScalarRegisterArithmetic : Prop :=
  Claims.RegReg .add 0x00 (fun a b => a + b) ∧ Claims.RegReg .sub 0x01 (fun a b => a - b) ∧
  Claims.RegReg .and 0x02 (fun a b => a &&& b) ∧ Claims.RegReg .or 0x03 (fun a b => a ||| b) ∧
  Claims.RegReg .xor 0x04 (fun a b => a ^^^ b) ∧
  Claims.RegReg .sll 0x05 (fun a b => a <<< (b.toNat % 64)) ∧ Claims.RegReg .srl 0x06 (fun a b => a >>> (b.toNat % 64)) ∧
  Claims.RegReg .sra 0x07 (fun a b => a.sshiftRight (b.toNat % 64)) ∧
  Claims.RegReg .mul 0x08 (fun a b => BitVec.ofNat 64 (a.toNat * b.toNat)) ∧
  Claims.RegReg .mulhu 0x09 (fun a b => BitVec.ofNat 64 (a.toNat * b.toNat / 2 ^ 64)) ∧
  Claims.RegReg .divu 0x0A (fun a b => if b = 0 then BitVec.allOnes 64 else BitVec.ofNat 64 (a.toNat / b.toNat)) ∧
  Claims.RegReg .remu 0x0B (fun a b => if b = 0 then a else BitVec.ofNat 64 (a.toNat % b.toNat)) ∧
  Claims.RegReg .slt 0x0C (fun a b => if a.toInt < b.toInt then 1 else 0) ∧
  Claims.RegReg .sltu 0x0D (fun a b => if a.toNat < b.toNat then 1 else 0) ∧
  Claims.RegReg .min 0x0E (fun a b => if a.toInt ≤ b.toInt then a else b) ∧
  Claims.RegReg .max 0x0F (fun a b => if a.toInt ≤ b.toInt then b else a)

/-- Scalar arithmetic with an immediate or one operand (R95). -/
def Obligations.ScalarImmediateArithmetic : Prop :=
  Claims.RegImm .addi 0x10 (fun a i => a + i) ∧ Claims.RegImm .andi 0x11 (fun a i => a &&& i) ∧
  Claims.RegImm .ori 0x12 (fun a i => a ||| i) ∧ Claims.RegImm .xori 0x13 (fun a i => a ^^^ i) ∧
  Claims.ShiftImm .slli 0x14 (fun a n => a <<< n) ∧ Claims.ShiftImm .srli 0x15 (fun a n => a >>> n) ∧
  Claims.ShiftImm .srai 0x16 (fun a n => a.sshiftRight n) ∧
  Claims.Result .li 0 0x17 [useRd, useImm] (fun w => [fRd w]) (fun _ _ _ _ => True)
    (fun _ _ w th => th.sset (fRd w) (fImm w)) ∧
  Claims.Result .lih 0 0x18 [useRd, useRa, (20, 20)] (fun w => [fRd w, fRa w]) (fun _ _ _ _ => True)
    (fun _ _ w th => th.sset (fRd w)
      (BitVec.ofNat 64 ((th.sget (fRa w)).toNat % 2 ^ 44 + bitsOf w 20 20 * 2 ^ 44))) ∧
  Claims.RegImm .slti 0x19 (fun a i => if a.toInt < i.toInt then 1 else 0) ∧
  Claims.RegOne .clz 0x1A (fun a => BitVec.ofNat 64 (if a = 0 then 64 else 63 - Nat.log2 a.toNat)) ∧
  Claims.RegOne .popc 0x1B (fun a => BitVec.ofNat 64 (popCount 64 a.toNat))

namespace Sys2Proof.Claims

/-- The effective address of a scalar access. -/
def scalarAddr (th : Thallus) (w : Word) : Word := th.sget (fRa w) + fImm w

/-- An aligned scalar access to the thallus's own tile store. -/
abbrev OwnTile (n : Nat) (m : Mod) (t : Nat) (e : Env) (w : Word) : Prop :=
  (scalarAddr (m.thallus t) w).toNat % n = 0 ∧
  tileAddr t 0 ≤ (scalarAddr (m.thallus t) w).toNat ∧ (scalarAddr (m.thallus t) w).toNat < tileAddr t 0 + tileBytes ∧
  e.tile = .good

/-- An aligned scalar access to device memory of a stack of the launch whose line is in the near cache, in way `y`. -/
abbrev NearHit (n : Nat) (y : Nat) (l : NLine) (m : Mod) (t : Nat) (w : Word) : Prop :=
  let a := scalarAddr (m.thallus t) w
  a.toNat % n = 0 ∧ scalarCheck m t a = none ∧ (stackDie a.toNat).isSome = true ∧
  nearFind (m.thallus t) a.toNat = some y ∧ (m.thallus t).near.get? (4 * nearSet a.toNat + y) = some l

/-- A load of `n` bytes: from the own tile store, and from a near-cache line, whose replacement bits follow. -/
def Load (c : Fin 1200 → Env → BitVec 54 → Instr) (op n : Nat) (signed : Bool) : Prop :=
  Result c 0 op [useRd, useRa, useImm] (fun w => [fRd w, fRa w]) (OwnTile n)
    (fun m _ w th => th.sset (fRd w) (extendLoad n signed (leNat (memRead m.mem (scalarAddr th w).toNat n)))) ∧
  ∀ y l, Result c 0 op [useRd, useRa, useImm] (fun w => [fRd w, fRa w]) (fun m t _ w => NearHit n y l m t w)
    fun _ _ w th =>
      let a := (scalarAddr th w).toNat
      ({ th with plru := th.plru.put (nearSet a) (plruTouch (th.plru.getD (nearSet a) 0) y) } : Thallus).sset (fRd w)
        (extendLoad n signed (lineGet l (a % 64) n))

/-- A store of `n` bytes: to the own tile store, whose other bytes and every other byte of memory stay; and to a
near-cache line, which becomes dirty there, while memory stays. -/
def Store (c : Fin 1200 → Env → BitVec 54 → Instr) (op n : Nat) : Prop :=
  (∀ t e fl s, let w := wordOf 0 op fl
    Ready s.mod t e w [useRd, useRa, useImm] [fRd w, fRa w] → OwnTile n s.mod t e w →
    exec (c t e fl) s = .next (storedAt s t (scalarAddr (s.mod.thallus t) w).toNat
      (leBytes n ((s.mod.thallus t).sget (fRd w)).toNat))) ∧
  ∀ y l, Result c 0 op [useRd, useRa, useImm] (fun w => [fRd w, fRa w]) (fun m t _ w => NearHit n y l m t w)
    fun _ _ w th =>
      let a := (scalarAddr th w).toNat
      { th with
        plru := th.plru.put (nearSet a) (plruTouch (th.plru.getD (nearSet a) 0) y)
        near := th.near.put (4 * nearSet a + y) (linePut l (a % 64) (leBytes n (th.sget (fRd w)).toNat)) }

end Sys2Proof.Claims

/-- Scalar loads and stores complete on an aligned address of the own tile store and on a near-cache hit (R54, R56, R95,
R98). -/
def Obligations.ScalarLoadsAndStores : Prop :=
  Claims.Load .lb 0x20 1 true ∧ Claims.Load .lbu 0x21 1 false ∧ Claims.Load .lh 0x22 2 true ∧
  Claims.Load .lhu 0x23 2 false ∧ Claims.Load .lw 0x24 4 true ∧ Claims.Load .lwu 0x25 4 false ∧
  Claims.Load .ld 0x26 8 false ∧ Claims.Store .sb 0x28 1 ∧ Claims.Store .sh 0x29 2 ∧ Claims.Store .sw 0x2A 4 ∧
  Claims.Store .sd 0x2B 8

/-- Bytes outside those a write stores read as before; those stored read as written. -/
def Obligations.MemoryReadAfterWrite : Prop :=
  (∀ (m : List Host.Cell) (a : Nat) (bs : List Byte) (i : Nat), i < a ∨ a + bs.length ≤ i →
    memByte (memWrite m a bs) i = memByte m i) ∧
  (∀ (m : List Host.Cell) (a : Nat) (bs : List Byte), memRead (memWrite m a bs) a bs.length = bs) ∧
  (∀ (m : List Host.Cell) (a n i : Nat),
    memByte (memZero m a n) i = if a ≤ i ∧ i < a + n then 0 else memByte m i)

/-- The alignment rule of R98: a scalar load or store whose address is not a multiple of its size raises the
address-fault exception and has no effect: the thallus stops with that code, and no register of it changes, nor any byte of
memory where it has no near-cache line to write back. -/
def Obligations.MisalignedScalarAccessFaults : Prop :=
  ∀ x ∈ ([(.lh, 0x22, 2), (.lhu, 0x23, 2), (.lw, 0x24, 4), (.lwu, 0x25, 4), (.ld, 0x26, 8), (.sh, 0x29, 2), (.sw, 0x2A, 4),
      (.sd, 0x2B, 8)] : List ((Fin 1200 → Env → BitVec 54 → Instr) × Nat × Nat)),
    ∀ (t : Fin 1200) (e : Env) (fl : BitVec 54) (s : State),
    let w := wordOf 0 x.2.1 fl
    let th := s.mod.thallus t
    Ready s.mod t e w [useRd, useRa, useImm] [fRd w, fRa w] → (Claims.scalarAddr th w).toNat % x.2.2 ≠ 0 →
    ∃ u, exec (x.1 t e fl) s = .next u ∧ u.mod.thState t = thStopped ∧
      u.mod.fld (thReg t) CD_THALLUS_STATE_EXCEPTION = exAddress ∧ (u.mod.thallus t).sregs = th.sregs ∧
      (u.mod.thallus t).pc = th.pc ∧ (th.near = [] → u.mod.mem = s.mod.mem)

namespace Sys2Proof.Claims

/-- A conditional branch: to pc + 8·OFF where its condition holds, else past its word. -/
def Branch (c : Fin 1200 → Env → BitVec 54 → Instr) (op : Nat) (cond : Word → Word → Prop) : Prop :=
  ∀ t e fl s, let w := wordOf 0 op fl
    let th := s.mod.thallus t
    Ready s.mod t e w [(10, 5), (15, 5), (20, 20)] [bitsOf w 10 5, bitsOf w 15 5] →
    (cond (th.sget (bitsOf w 10 5)) (th.sget (bitsOf w 15 5)) →
      exec (c t e fl) s = .next (branched s t (th.pc + 8 * fOff w) id)) ∧
    (¬ cond (th.sget (bitsOf w 10 5)) (th.sget (bitsOf w 15 5)) → exec (c t e fl) s = .next (retired s t id))

end Sys2Proof.Claims

/-- Branches (R95, R97). -/
def Obligations.Branches : Prop :=
  Claims.Branch .beq 0x30 (fun a b => a = b) ∧ Claims.Branch .bne 0x31 (fun a b => a ≠ b) ∧
  Claims.Branch .blt 0x32 (fun a b => a.toInt < b.toInt) ∧ Claims.Branch .bge 0x33 (fun a b => b.toInt ≤ a.toInt) ∧
  Claims.Branch .bltu 0x34 (fun a b => a.toNat < b.toNat) ∧ Claims.Branch .bgeu 0x35 (fun a b => b.toNat ≤ a.toNat) ∧
  Claims.Branch .bbs 0x36 (fun a b => a.getLsbD (b.toNat % 64) = true) ∧
  Claims.Branch .bbc 0x37 (fun a b => a.getLsbD (b.toNat % 64) = false)

/-- JAL, JR, SRD, NOP and END (R90, R95, R120). An END waits from here for everything before it. -/
def Obligations.JumpsContextAndEnd : Prop :=
  (∀ t e fl s, let w := wordOf 0 0x38 fl
    Ready s.mod t e w [(10, 5), (20, 20)] [fRd w] →
    exec (.jal t e fl) s = .next (branched s t ((s.mod.thallus t).pc + 8 * fOff w)
      fun th => th.sset (fRd w) (th.pc + 8))) ∧
  (∀ t e fl s, let w := wordOf 0 0x39 fl
    Ready s.mod t e w [useRd, useRa] [fRd w, fRa w] →
    exec (.jr t e fl) s = .next (branched s t ((s.mod.thallus t).sget (fRa w)) fun th => th.sset (fRd w) (th.pc + 8))) ∧
  Claims.Result .srd 0 0x3C [useRd, (20, 4)] (fun w => [fRd w])
    (fun _ _ _ w => bitsOf w 20 4 ≤ 10 ∧ bitsOf w 20 4 ≠ 7 ∧ bitsOf w 20 4 ≠ 9)
    (fun _ _ w th => th.sset (fRd w) (th.ctx.getD (bitsOf w 20 4) 0)) ∧
  Claims.Result .srd 0 0x3C [useRd, (20, 4)] (fun w => [fRd w]) (fun _ _ _ w => bitsOf w 20 4 = 7)
    (fun m _ w th => th.sset (fRd w) m.now) ∧
  Claims.Result .srd 0 0x3C [useRd, (20, 4)] (fun w => [fRd w]) (fun _ _ _ w => bitsOf w 20 4 = 9)
    (fun _ _ w th => { th.sset (fRd w) (th.ctx.getD 9 0) with ctx := (th.ctx.put 9 0).put 10 0 }) ∧
  Claims.Result .nop 0 0x3F [] (fun _ => []) (fun _ _ _ _ => True) (fun _ _ _ th => th) ∧
  (∀ t e fl s, Ready s.mod t e (wordOf 0 0x3E fl) [] [] →
    exec (.endStage t e fl) s = .next { s with
      mod := withThallus s.mod t fun th => { th with block := some .ending } })
namespace Sys2Proof.Claims

/-- The frame of a vector instruction of one type: the predicate, and va, vb, vc as lanes of the type. -/
def LaneOp (c : Fin 1200 → Env → BitVec 54 → Instr) (op : Nat) (used : List (Nat × Nat)) (ok : Nat → Prop)
    (g : ElTy → Nat → Nat → Nat → Nat) : Prop :=
  Result c 1 op used (fun _ => []) (fun _ _ _ w => ok (fType w)) fun _ _ w th =>
    let ty := vecType (fType w)
    th.vset (fRd w) (mapLanes ty.width (th.pget (fPred w)) (th.vget (fRd w)) fun j =>
      g ty (lane (th.vget (fRa w)) ty.width j) (lane (th.vget (fRb w)) ty.width j) (lane (th.vget (fRc w)) ty.width j))

def used2 : List (Nat × Nat) := [useRd, useRa, useRb, usePred, useType]
def used1 : List (Nat × Nat) := [useRd, useRa, usePred, useType]
abbrev anyTy (ty : Nat) : Prop := ty ≤ 5
abbrev fpTy (ty : Nat) : Prop := ty ≤ 2
abbrev intTy (ty : Nat) : Prop := 3 ≤ ty ∧ ty ≤ 5

/-- p[VD[2:0]] takes the lanes that are active and for which `g` holds; every other bit is 0. -/
def LaneCompare (c : Fin 1200 → Env → BitVec 54 → Instr) (op : Nat) (g : ElTy → Nat → Nat → Bool) : Prop :=
  Result c 1 op [(10, 3), useRa, useRb, usePred, useType] (fun _ => []) (fun _ _ _ w => anyTy (fType w)) fun _ _ w th =>
    let ty := vecType (fType w)
    th.pset (bitsOf w 10 3) (BitVec.ofNat 128 (maskOf ((List.range (lanesOf ty.width)).filter fun j =>
      (th.pget (fPred w)).getLsbD j &&
        g ty (lane (th.vget (fRa w)) ty.width j) (lane (th.vget (fRb w)) ty.width j))))

end Sys2Proof.Claims

/-- Lane arithmetic, logic, shifts, selection and comparison (R99, R100, R553): active lanes take the result, the others
keep their value; nothing else changes. -/
def Obligations.VectorLaneArithmetic : Prop :=
  Claims.LaneOp .vadd 0x00 Claims.used2 Claims.anyTy (fun ty a b _ => elAdd ty a b) ∧
  Claims.LaneOp .vsub 0x01 Claims.used2 Claims.anyTy (fun ty a b _ => elSub ty a b) ∧
  Claims.LaneOp .vmul 0x02 Claims.used2 Claims.anyTy (fun ty a b _ => elMul ty a b) ∧
  Claims.LaneOp .vfma 0x03 [useRd, useRa, useRb, useRc, usePred, useType] Claims.fpTy
    (fun ty a b c => match ty with | .flt f => fFma f a b c | .int _ => 0) ∧
  Claims.LaneOp .vmin 0x04 Claims.used2 Claims.anyTy (fun ty a b _ => elMin ty a b) ∧
  Claims.LaneOp .vmax 0x05 Claims.used2 Claims.anyTy (fun ty a b _ => elMax ty a b) ∧
  Claims.LaneOp .vand 0x06 Claims.used2 Claims.intTy (fun _ a b _ => a &&& b) ∧
  Claims.LaneOp .vor 0x07 Claims.used2 Claims.intTy (fun _ a b _ => a ||| b) ∧
  Claims.LaneOp .vxor 0x08 Claims.used2 Claims.intTy (fun _ a b _ => a ^^^ b) ∧
  Claims.LaneOp .vshl 0x09 Claims.used2 Claims.intTy (fun ty a b _ => a * 2 ^ (b % ty.width) % 2 ^ ty.width) ∧
  Claims.LaneOp .vshr 0x0A Claims.used2 Claims.intTy
    (fun ty a b _ => ofSigned ty.width (toSigned ty.width a / 2 ^ (b % ty.width))) ∧
  Claims.LaneOp .vabs 0x0B Claims.used1 Claims.anyTy (fun ty a _ _ => elAbs ty a) ∧
  Claims.LaneOp .vneg 0x0C Claims.used1 Claims.anyTy (fun ty a _ _ => elNeg ty a)

/-- Comparisons write a predicate register, VSEL chooses lane by lane, PMOV, PTOS, PAND and POR move and combine predicate
halves, VBCAST and VTOS move between the scalar and vector files (R99, R100). -/
def Obligations.VectorComparesAndMoves : Prop :=
  Claims.LaneCompare .vcmplt 0x0E elLt ∧ Claims.LaneCompare .vcmpeq 0x0F elEq ∧ Claims.LaneCompare .vcmple 0x10 elLe ∧
  Claims.Result .vsel 1 0x0D Claims.used2 (fun _ => []) (fun _ _ _ w => Claims.anyTy (fType w)) (fun _ _ w th =>
    let n := (vecType (fType w)).width
    th.vset (fRd w) (ofLanes n ((List.range (lanesOf n)).map fun j =>
      if (th.pget (fPred w)).getLsbD j then lane (th.vget (fRa w)) n j else lane (th.vget (fRb w)) n j))) ∧
  Claims.Result .vbcast 1 0x14 Claims.used1 (fun w => [fRa w]) (fun _ _ _ w => Claims.anyTy (fType w)) (fun _ _ w th =>
    let n := (vecType (fType w)).width
    th.vset (fRd w) (mapLanes n (th.pget (fPred w)) (th.vget (fRd w)) fun _ => (th.sget (fRa w)).toNat % 2 ^ n)) ∧
  Claims.Result .vtos 1 0x15 [useRd, useRa, useType] (fun w => [fRd w]) (fun _ _ _ w => Claims.fpTy (fType w))
    (fun _ _ w th => th.sset (fRd w) (BitVec.ofNat 64 (lane (th.vget (fRa w)) (vecType (fType w)).width 0))) ∧
  Claims.Result .vtos 1 0x15 [useRd, useRa, useType] (fun w => [fRd w]) (fun _ _ _ w => Claims.intTy (fType w))
    (fun _ _ w th => th.sset (fRd w) (BitVec.ofInt 64
      (toSigned (vecType (fType w)).width (lane (th.vget (fRa w)) (vecType (fType w)).width 0)))) ∧
  Claims.Result .pmov 1 0x2C [(10, 3), useRa, (36, 1)] (fun w => [fRa w]) (fun _ _ _ w => bitsOf w 10 3 ≠ 0) (fun _ _ w th =>
    let old := (th.pget (bitsOf w 10 3)).toNat
    let v := (th.sget (fRa w)).toNat
    th.pset (bitsOf w 10 3) (BitVec.ofNat 128
      (if bitsOf w 36 1 = 0 then old / 2 ^ 64 * 2 ^ 64 + v else old % 2 ^ 64 + v * 2 ^ 64))) ∧
  Claims.Result .pmov 1 0x2C [(10, 3), useRa, (36, 1)] (fun w => [fRa w]) (fun _ _ _ w => bitsOf w 10 3 = 0)
    (fun _ _ _ th => th) ∧
  Claims.Result .ptos 1 0x2D [useRd, (15, 3), (36, 1)] (fun w => [fRd w]) (fun _ _ _ _ => True) (fun _ _ w th =>
    th.sset (fRd w) (BitVec.ofNat 64 ((th.pget (bitsOf w 15 3)).toNat / 2 ^ (64 * bitsOf w 36 1)))) ∧
  Claims.Result .pand 1 0x2E [(10, 3), (15, 3), (20, 3)] (fun _ => []) (fun _ _ _ _ => True) (fun _ _ w th =>
    th.pset (bitsOf w 10 3) (th.pget (bitsOf w 15 3) &&& th.pget (bitsOf w 20 3))) ∧
  Claims.Result .por 1 0x2F [(10, 3), (15, 3), (20, 3)] (fun _ => []) (fun _ _ _ _ => True) (fun _ _ w th =>
    th.pset (bitsOf w 10 3) (th.pget (bitsOf w 15 3) ||| th.pget (bitsOf w 20 3)))

namespace Sys2Proof.Claims

/-- The lanes of va that the predicate leaves active, in ascending order. -/
def activeLanes (th : Thallus) (w : Word) : List Nat :=
  let n := (vecType (fType w)).width
  ((List.range (lanesOf n)).filter fun j => (th.pget (fPred w)).getLsbD j).map fun j => lane (th.vget (fRa w)) n j

/-- A reduction: with no active lane `empty`; else the active lanes in ascending order. Lane 0 holds it, the others 0. -/
def Reduction (c : Fin 1200 → Env → BitVec 54 → Instr) (op : Nat) (g : ElTy → Nat → Nat → Nat) (empty : ElTy → Nat) : Prop :=
  Result c 1 op used1 (fun _ => []) (fun m t _ w => anyTy (fType w) ∧ activeLanes (m.thallus t) w = [])
    (fun _ _ w th => th.vset (fRd w) (ofLanes (vecType (fType w)).width [empty (vecType (fType w))])) ∧
  Result c 1 op used1 (fun _ => []) (fun m t _ w => intTy (fType w) ∧ activeLanes (m.thallus t) w ≠ [])
    (fun _ _ w th => th.vset (fRd w) (ofLanes (vecType (fType w)).width
      [(activeLanes th w).tail.foldl (g (vecType (fType w))) ((activeLanes th w).headD 0)])) ∧
  ∀ f, Result c 1 op used1 (fun _ => [])
    (fun m t _ w => fpTy (fType w) ∧ vecType (fType w) = .flt f ∧ activeLanes (m.thallus t) w ≠ [])
    fun _ _ w th => th.vset (fRd w) (ofLanes f.width
      [(activeLanes th w).tail.foldl (g (.flt f)) (rnd f (f.decode ((activeLanes th w).headD 0)))])

/-- An approximation: a NaN gives the default NaN; where the domain rules of R102 fix the result, that; elsewhere the code of
the part, which is free (log 11), where the bound of R102 admits it, else the reference rounded to nearest. -/
def Approximation (c : Fin 1200 → Env → BitVec 54 → Instr) (op : Nat) (special : Fmt → FVal → Option Nat) : Prop :=
  ∀ f, Result c 1 op used1 (fun _ => []) (fun _ _ _ w => fpTy (fType w) ∧ vecType (fType w) = .flt f) fun _ _ w th =>
    th.vset (fRd w) (mapLanes f.width (th.pget (fPred w)) (th.vget (fRd w)) fun j =>
      let a := lane (th.vget (fRa w)) f.width j
      let part := (Config.approx op (fType w) (BitVec.ofNat 32 a)).toNat % 2 ^ f.width
      if (f.decode a).isNan then f.dnan
      else match special f (f.decode a), approxRef op (f.decode a) with
        | some v, _ => v
        | none, some ref => if withinBound op f ref part then part else rnd f ref
        | none, none => if (f.decode part).isNan then f.dnan else part)

end Sys2Proof.Claims

/-- Reductions, approximations and conversion (R99, R100, R102). The bits of an approximation are free within the
bound (log 11), the order of a reduction is a reading (log 59). -/
def Obligations.VectorReductionsAndApproximations : Prop :=
  Claims.Reduction .vredadd 0x18 elAdd (fun _ => 0) ∧
  Claims.Reduction .vredmax 0x19 elMax (fun ty => match ty with
    | .flt f => f.encode .inf (.inf true)
    | .int w => 2 ^ (w - 1)) ∧
  Claims.Reduction .vredmin 0x1A elMin (fun ty => match ty with
    | .flt f => f.encode .inf (.inf false)
    | .int w => 2 ^ (w - 1) - 1) ∧
  Claims.Approximation .vexp2 0x20 (fun _ _ => none) ∧
  Claims.Approximation .vlog2 0x21 (fun f v =>
    if v.isZero then some (f.encode .inf (.inf true)) else if v.belowZero then some f.dnan else none) ∧
  Claims.Approximation .vrcp 0x22 (fun f v => if v.isZero then some (f.encode .inf (.inf v.negative)) else none) ∧
  Claims.Approximation .vrsqrt 0x23 (fun f v =>
    if v.isZero then some (f.encode .inf (.inf v.negative)) else if v.belowZero then some f.dnan else none) ∧
  Claims.Approximation .vtanh 0x24 (fun _ _ => none) ∧ Claims.Approximation .vsigm 0x25 (fun _ _ => none) ∧
  Claims.Result .vcvt 1 0x28 [useRd, useRa, usePred, useType, (36, 3)] (fun _ => []) (fun _ _ _ _ => True)
    (fun _ _ w th =>
      let dst := vecType (fType w)
      let src := vecType (fType2 w)
      th.vset (fRd w) (mapLanes dst.width (th.pget (fPred w)) (th.vget (fRd w)) fun j =>
        if j < lanesOf src.width then convert src dst (lane (th.vget (fRa w)) src.width j) else 0))

namespace Sys2Proof.Claims

/-- The tile-store offset of a VM instruction. -/
def vmAddr (th : Thallus) (w : Word) : Word := th.sget (fRa w) + fVImm w
def usedRow : List (Nat × Nat) := [useRd, useRa, usePred, useType, useVImm]
def usedElems : List (Nat × Nat) := [useRd, useRa, useRb, usePred, useType, useVImm]
/-- A row offset in the tile store, of an allowed type, with a good read. -/
abbrev RowOk (m : Mod) (t : Nat) (e : Env) (w : Word) : Prop :=
  anyTy (fType w) ∧ (vmAddr (m.thallus t) w).toNat % 128 = 0 ∧ (vmAddr (m.thallus t) w).toNat < tileBytes ∧ e.tile = .good
/-- The element offset of lane `j`. -/
def elemAt (th : Thallus) (w : Word) (j : Nat) : Word :=
  let n := (vecType (fType w)).width
  vmAddr th w + BitVec.ofNat 64 (lane (th.vget (fRb w)) n j * (n / 8))
/-- Every active lane's element lies aligned in the tile store. -/
abbrev ElemsOk (m : Mod) (t : Nat) (e : Env) (w : Word) : Prop :=
  fType w ≤ 4 ∧ e.tile = .good ∧
  ∀ j < lanesOf (vecType (fType w)).width, ((m.thallus t).pget (fPred w)).getLsbD j = true →
    (elemAt (m.thallus t) w j).toNat % ((vecType (fType w)).width / 8) = 0 ∧ (elemAt (m.thallus t) w j).toNat < tileBytes

end Sys2Proof.Claims

/-- Tile-store rows and elements (R101): VLD and VGATHER take the active lanes, VST writes the row's active lanes and
keeps its others; memory outside the row is untouched. -/
def Obligations.VectorTileStoreAccesses : Prop :=
  Claims.Result .vld 1 0x30 Claims.usedRow (fun w => [fRa w]) Claims.RowOk (fun m t w th =>
    let n := (vecType (fType w)).width
    let row := rowOfBytes (memRead m.mem (tileAddr t (Claims.vmAddr th w).toNat) 128)
    th.vset (fRd w) (mapLanes n (th.pget (fPred w)) (th.vget (fRd w)) fun j => lane row n j)) ∧
  (∀ t e fl s, Ready s.mod t e (wordOf 1 0x31 fl) Claims.usedRow [fRa (wordOf 1 0x31 fl)] →
    Claims.RowOk s.mod t e (wordOf 1 0x31 fl) →
    exec (.vst t e fl) s =
      let th := s.mod.thallus t
      let w := wordOf 1 0x31 fl
      let n := (vecType (fType w)).width
      let a := tileAddr t (Claims.vmAddr th w).toNat
      .next (storedAt s t a (bytesOfRow (mapLanes n (th.pget (fPred w)) (rowOfBytes (memRead s.mod.mem a 128))
        fun j => lane (th.vget (fRd w)) n j)))) ∧
  Claims.Result .vgather 1 0x32 Claims.usedElems (fun w => [fRa w]) Claims.ElemsOk (fun m t w th =>
    let n := (vecType (fType w)).width
    th.vset (fRd w) (mapLanes n (th.pget (fPred w)) (th.vget (fRd w)) fun j =>
      if (th.pget (fPred w)).getLsbD j then leNat (memRead m.mem (tileAddr t (Claims.elemAt th w j).toNat) (n / 8)) else 0)) ∧
  (∀ t e fl s, Ready s.mod t e (wordOf 1 0x33 fl) Claims.usedElems [fRa (wordOf 1 0x33 fl)] →
    Claims.ElemsOk s.mod t e (wordOf 1 0x33 fl) →
    exec (.vscatter t e fl) s =
      let th := s.mod.thallus t
      let w := wordOf 1 0x33 fl
      let n := (vecType (fType w)).width
      let lanes := (List.range (lanesOf n)).filter fun j => (th.pget (fPred w)).getLsbD j
      .next { s with mod := { withThallus s.mod t (retire id) with
        mem := lanes.foldl (fun mem j => memWrite mem (tileAddr t (Claims.elemAt th w j).toNat)
          (leBytes (n / 8) (lane (th.vget (fRd w)) n j))) s.mod.mem } })

namespace Sys2Proof.Claims

/-- No illegal form, no frond in an issue period, no swap waiting for a fill (R66, R71, R103). -/
abbrev MatrixFree (ts : Bool) (m : Mod) (t : Nat) (w : Word) : Prop :=
  mmaIllegal w ts = false ∧ mmaWaits (m.thallus t) w = false

/-- The moving rows that a row mask leaves present. -/
def matrixRows (th : Thallus) (w : Word) : List Nat :=
  rowsPresent (if fRmen w then bitsOf (th.sget (mRm w)) 0 16 else 0)

/-- The thallus with the banks of the instruction's fronds swapped where it swaps. -/
def afterSwap (th : Thallus) (w : Word) : Thallus :=
  if fSwap w then swapBanks th (frondsOf (fMode w) (fUnit w)) else th

/-- The tags fit, some row is present, and every row and scale lies in the tile store (R103, R104). -/
abbrev MatrixRuns (m : Mod) (t : Nat) (e : Env) (w : Word) : Prop :=
  let th := m.thallus t
  let base := (th.sget (mRa w)).toNat
  let rowBytes := kPerFrond (fSparse w) * (if fMode w = 0 then 1 else 2) * matBits (fAtype w) / 8
  (∀ f ∈ frondsOf (fMode w) (fUnit w), ((afterSwap th w).frond f).active.tag = some (fBtype w, fSparse w)) ∧
  matrixRows th w ≠ [] ∧ base % 16 = 0 ∧ base < tileBytes ∧
  (∀ i ∈ matrixRows th w, base + (i + 1) * rowBytes ≤ tileBytes) ∧
  (fAtype w = 2 → (th.sget (mRs w)).toNat % 16 = 0 ∧ (th.sget (mRs w)).toNat < tileBytes) ∧ e.tile = .good

/-- The thallus after a matrix instruction that runs: banks swapped, the result accumulators of the rows present, the
fronds busy in its mode, its accumulators not yet complete. -/
def matrixEffect (m : Mod) (t : Nat) (w : Word) (th : Thallus) : Thallus :=
  pendAcc ((frondsOf (fMode w) (fUnit w)).foldl
    (fun x f => x.setFrond f { x.frond f with busy := true, mode := some (fMode w) })
    (mmaAccs m t (afterSwap th w) w (matrixRows th w))) w

end Sys2Proof.Claims

/-- MMA and MMA.TS that run write their accumulators from the active banks and moving rows and change no memory;
MMA.TS with its bit of s[RK] set only swaps and counts (R82, R103–R105). An element not yet written is free (log 10);
a skipped instruction counts as issued (log 57). -/
def Obligations.MatrixInstructions : Prop :=
  Claims.Result .mma 2 0x00 mFields (mRegs false)
    (fun m t e w => Claims.MatrixFree false m t w ∧ Claims.MatrixRuns m t e w) Claims.matrixEffect ∧
  Claims.Result .mmaTs 2 0x01 mFields (mRegs true)
    (fun m t e w => Claims.MatrixFree true m t w ∧ ((m.thallus t).sget (mRk w)).getLsbD (mBidx w) = false ∧
      Claims.MatrixRuns m t e w) Claims.matrixEffect ∧
  (∀ t e fl s, Ready s.mod t e (wordOf 2 0x01 fl) mFields (mRegs true (wordOf 2 0x01 fl)) →
    Claims.MatrixFree true s.mod t (wordOf 2 0x01 fl) →
    ((s.mod.thallus t).sget (mRk (wordOf 2 0x01 fl))).getLsbD (mBidx (wordOf 2 0x01 fl)) = true →
    ∃ u, exec (.mmaTs t e fl) s = .next u ∧
      u.mod.thallus t = retire (fun th => Claims.afterSwap th (wordOf 2 0x01 fl)) (s.mod.thallus t) ∧
      u.mod.fld (CD_MMA_COUNT (dieOf t)) CD_MMA_COUNT_COUNT =
        (s.mod.fld (CD_MMA_COUNT (dieOf t)) CD_MMA_COUNT_COUNT + 1) % 2 ^ 64 ∧
      u.mod.mem = s.mod.mem)

/-- An element of the result is the rounded sum of the products in ascending stored order (R82): a column of one dense
BF16 frond, from the accumulator's start value. -/
def Obligations.DotProductOrder : Prop :=
  ∀ (b : Bank) (n : Nat) (row : List Byte) (start : Nat),
    dotColumn [b] 4 4 0 n row (some 0) start =
      (List.range 16).foldl (fun s j => macFp s (((matType 4).value (elemOf row 16 j)).mul
        ((matType 4).value (b.vals.getD (16 * n + j) 0).toNat))) start

/-- Tile moves (R106–R109): TFILL holds the tile read for its frond, TMOVE and TZERO and TROWST write their rows and no
other byte, TSTRM sends its rows to device memory in ascending order. -/
def Obligations.TileMoves : Prop :=
  Claims.Result .tfill 3 0x00 [(12, 2), (17, 3), (20, 2), (22, 5), (27, 5), (32, 5)] (fun w => [tRa w, tRb w, tRc w])
    (fun m t e w =>
      let th := m.thallus t
      let a := (th.sget (tRa w)).toNat
      let md := (th.sget (tRb w)).toNat
      let sc := (th.sget (tRc w)).toNat
      tType w ≤ 5 ∧ tSparse w ≠ 3 ∧ (tSparse w = 0 → tRb w = 0) ∧ (tType w ≠ 2 → tRc w = 0) ∧
      a % tileSize (tType w) = 0 ∧ a < tileBytes ∧ (tSparse w ≠ 0 → md % 64 = 0 ∧ md < tileBytes) ∧
      (tType w = 2 → sc % 16 = 0 ∧ sc < tileBytes) ∧ (th.frond (fUnit w)).fill = none ∧ e.tile = .good)
    (fun m t w th => th.setFrond (fUnit w) { th.frond (fUnit w) with
      fill := some (readBank m t (tType w) (tSparse w) (th.sget (tRa w)).toNat (th.sget (tRb w)).toNat
        (th.sget (tRc w)).toNat) }) ∧
  (∀ t e fl s, Ready s.mod t e (wordOf 3 0x02 fl) [(22, 5), (27, 5), (42, 8)] [tRa (wordOf 3 0x02 fl), tRb (wordOf 3 0x02 fl)] →
    let w := wordOf 3 0x02 fl
    let a := (s.mod.thallus t).sget (tRa w)
    let b := (s.mod.thallus t).sget (tRb w)
    rowsOk a (tRows w) = true → rowsOk b (tRows w) = true → e.tile = .good →
    exec (.tmove t e fl) s = .next { s with mod := { withThallus s.mod t (retire id) with
      mem := (List.range (tRows w)).foldl (fun mem i => memWrite mem (tileAddr t (b.toNat + 128 * i))
        (memRead mem (tileAddr t (a.toNat + 128 * i)) 128)) s.mod.mem } }) ∧
  (∀ t e fl s, Ready s.mod t e (wordOf 3 0x03 fl) [(22, 5), (42, 8)] [tRa (wordOf 3 0x03 fl)] →
    let w := wordOf 3 0x03 fl
    let a := (s.mod.thallus t).sget (tRa w)
    rowsOk a (tRows w) = true →
    exec (.tzero t e fl) s = .next { s with mod := { withThallus s.mod t (retire id) with
      mem := memZero s.mod.mem (tileAddr t a.toNat) (128 * tRows w) } }) ∧
  (∀ t e fl s, Ready s.mod t e (wordOf 3 0x04 fl) [(22, 5), (27, 5), (42, 8)] [tRa (wordOf 3 0x04 fl), tRb (wordOf 3 0x04 fl)] →
    let w := wordOf 3 0x04 fl
    let a := (s.mod.thallus t).sget (tRa w)
    let b := (s.mod.thallus t).sget (tRb w)
    rowsOk a (tRows w) = true → b.toNat % 128 = 0 → xferCheck s.mod t b = none →
    (stackDie b.toNat).isSome = true → 128 * tRows w ≤ roomAt b.toNat → e.tile = .good →
    exec (.tstrm t e fl) s = .next { s with mod := { withThallus s.mod t (retire id) with
      flight := s.mod.flight ++ (List.range (tRows w)).map fun i => strmAccess s.mod t (s.mod.thallus t).pc w
        (b.toNat + 128 * i) (memRead s.mod.mem (tileAddr t (a.toNat + 128 * i)) 128) } }) ∧
  (∀ t e fl s, Ready s.mod t e (wordOf 3 0x05 fl) [(22, 5), (37, 5), (50, 3)] [tRa (wordOf 3 0x05 fl)] →
    let w := wordOf 3 0x05 fl
    let th := s.mod.thallus t
    let a := th.sget (tRa w)
    rowsOk a 1 = true →
    exec (.trowst t e fl) s = .next (storedAt s t (tileAddr t a.toNat) ((List.range 128).map fun j =>
      if (th.pget (bitsOf w 50 3)).getLsbD j then (leBytes 128 (th.vget (tRe w)).toNat).getD j 0
      else (memRead s.mod.mem (tileAddr t a.toNat) 128).getD j 0)))

namespace Sys2Proof.Claims

/-- A drain may issue: a legal form, its fronds neither draining nor with the accumulator incomplete, the accumulators
of the type drained, rows and scales inside the tile store (R76–R78, R107). -/
abbrev DrainOk (th : Thallus) (w : Word) : Prop :=
  drainIllegal w (th.sget (tRe w)).toInt = false ∧
  (∀ f ∈ drainFronds w, (th.frond f).draining = false ∧ (∀ n ∈ (th.frond f).incomplete, n % 4 ≠ fAcc w) ∧
    (th.accIsInt f (fAcc w) = true ↔ tType w = 3)) ∧
  (th.sget (tRb w)).toNat % 16 = 0 ∧ drainRow (tType w) ≤ (th.sget (tRb w)).toNat ∧
  (th.sget (tRa w)).toNat + 15 * (th.sget (tRb w)).toNat + drainRow (tType w) ≤ tileBytes ∧
  (tType w = 2 → (th.sget (tRc w)).toNat + 16 ≤ tileBytes)

/-- Row `i` of a drain, written: elements of the output type, or an FP4 row with its scale byte. -/
def drainWrite (m : Mod) (t : Nat) (w : Word) (mem : List Host.Cell) (i : Nat) : List Host.Cell :=
  let th := m.thallus t
  let vs := drainVals th t w (th.sget (tRe w)).toInt i
  let row := tileAddr t ((th.sget (tRa w)).toNat + i * (th.sget (tRb w)).toNat)
  if tType w = 2 then
    memWrite (memWrite mem row ((List.range 16).map fun j =>
      BitVec.ofNat 8 ((fp4Row vs).2.getD (2 * j) 0 + 16 * (fp4Row vs).2.getD (2 * j + 1) 0)))
      (tileAddr t ((th.sget (tRc w)).toNat + i)) [BitVec.ofNat 8 (fp4Row vs).1]
  else memWrite mem row ((vs.map fun v => leBytes (drainRow (tType w) / 16) (drainElem m t (tType w) v)).flatten)

end Sys2Proof.Claims

/-- A drain writes its 16 rows and nothing else of memory, each element its accumulator's scaled by 2^e and rounded
once to the output type; CLR clears the accumulators, and their fronds drain (R76–R78, R107). The exponent of an FP4
group is a reading (log 58). -/
def Obligations.TileDrain : Prop :=
  ∀ t e fl s, Ready s.mod t e (wordOf 3 0x01 fl)
      [(10, 2), (12, 2), (14, 2), (16, 1), (17, 3), (22, 5), (27, 5), (32, 5), (37, 5)]
      [tRa (wordOf 3 0x01 fl), tRb (wordOf 3 0x01 fl), tRc (wordOf 3 0x01 fl), tRe (wordOf 3 0x01 fl)] →
    Claims.DrainOk (s.mod.thallus t) (wordOf 3 0x01 fl) →
    ∃ u, exec (.tdrain t e fl) s = .next u ∧
      u.mod.mem = (List.range 16).foldl (Claims.drainWrite s.mod t (wordOf 3 0x01 fl)) s.mod.mem ∧
      (u.mod.thallus t).sregs = (s.mod.thallus t).sregs ∧ (u.mod.thallus t).vregs = (s.mod.thallus t).vregs ∧
      (u.mod.thallus t).pc = (s.mod.thallus t).pc + 8 ∧
      (∀ f ∈ drainFronds (wordOf 3 0x01 fl), ((u.mod.thallus t).frond f).draining = true) ∧
      (bitOf (wordOf 3 0x01 fl) 16 = false → (u.mod.thallus t).acc = (s.mod.thallus t).acc) ∧
      (bitOf (wordOf 3 0x01 fl) 16 = true → ∀ f ∈ drainFronds (wordOf 3 0x01 fl), ∀ j < 256,
        (u.mod.thallus t).accGet t ((f * 4 + fAcc (wordOf 3 0x01 fl)) * 256 + j) = 0) ∧
      (∀ t' ≠ t.val, u.mod.thallus t' = s.mod.thallus t') ∧ u.mod.regs = s.mod.regs ∧ u.pending = s.pending
namespace Sys2Proof.Claims

/-- A local transfer access is in flight to its home: the thallus has used a request tag, and a read's rd waits for the
reply under it. -/
def sent (s : State) (t : Nat) (a : Access) (waits : Bool) : State :=
  { s with mod := { withThallus s.mod t (retire fun th => { th with
      tagSerial := th.tagSerial + 1
      waitRd := if waits then th.waitRd ++ [(a.rd.toNat, a.tag)] else th.waitRd }) with
    flight := s.mod.flight ++ [a] } }

/-- An aligned address of local memory that the thallus's stage may use. -/
abbrev LocalAddr (m : Mod) (t : Nat) (a : Word) (n : Nat) : Prop :=
  a.toNat % n = 0 ∧ bitOf a 63 = false ∧ rangeCheck m t a n = none

end Sys2Proof.Claims

/-- XLD, XST and XAMO to local memory send one access with the operands the instruction names and leave memory as it is
until the access reaches its home (R110–R112). -/
def Obligations.LocalTransfers : Prop :=
  (∀ t e fl s, Ready s.mod t e (wordOf 4 0x02 fl) [useRd, useRa, (30, 2), (39, 1), (40, 2), (42, 1)]
      [fRd (wordOf 4 0x02 fl), fRa (wordOf 4 0x02 fl)] →
    Claims.LocalAddr s.mod t ((s.mod.thallus t).sget (fRa (wordOf 4 0x02 fl))) (xSize (wordOf 4 0x02 fl)) →
    exec (.xld t e fl) s = .next (Claims.sent s t (localAccess s.mod t (wordOf 4 0x02 fl) .read
      ((s.mod.thallus t).sget (fRa (wordOf 4 0x02 fl))).toNat (xSize (wordOf 4 0x02 fl)) (xHint (wordOf 4 0x02 fl))) true)) ∧
  (∀ t e fl s, Ready s.mod t e (wordOf 4 0x03 fl) [useRa, useRb, (30, 2), (39, 1), (40, 2), (42, 1)]
      [fRa (wordOf 4 0x03 fl), fRb (wordOf 4 0x03 fl)] →
    Claims.LocalAddr s.mod t ((s.mod.thallus t).sget (fRa (wordOf 4 0x03 fl))) (xSize (wordOf 4 0x03 fl)) →
    exec (.xst t e fl) s = .next (Claims.sent s t (localAccess s.mod t (wordOf 4 0x03 fl)
      (.write (leBytes (xSize (wordOf 4 0x03 fl)) ((s.mod.thallus t).sget (fRb (wordOf 4 0x03 fl))).toNat))
      ((s.mod.thallus t).sget (fRa (wordOf 4 0x03 fl))).toNat (xSize (wordOf 4 0x03 fl)) (xHint (wordOf 4 0x03 fl))) false)) ∧
  (∀ t e fl s, Ready s.mod t e (wordOf 4 0x04 fl) [useRd, useRa, useRb, useRc, (32, 4), (36, 3), (39, 1), (42, 1)]
      [fRd (wordOf 4 0x04 fl), fRa (wordOf 4 0x04 fl), fRb (wordOf 4 0x04 fl), fRc (wordOf 4 0x04 fl)] →
    amoLegal (xAop (wordOf 4 0x04 fl)) (xAtype (wordOf 4 0x04 fl)) = true →
    Claims.LocalAddr s.mod t ((s.mod.thallus t).sget (fRa (wordOf 4 0x04 fl))) (atypeBytes (xAtype (wordOf 4 0x04 fl))) →
    exec (.xamo t e fl) s = .next (Claims.sent s t (localAccess s.mod t (wordOf 4 0x04 fl)
      (.amo (xAop (wordOf 4 0x04 fl)) (xAtype (wordOf 4 0x04 fl)) ((s.mod.thallus t).sget (fRb (wordOf 4 0x04 fl)))
        ((s.mod.thallus t).sget (fRc (wordOf 4 0x04 fl))))
      ((s.mod.thallus t).sget (fRa (wordOf 4 0x04 fl))).toNat (atypeBytes (xAtype (wordOf 4 0x04 fl))) (xHint (wordOf 4 0x04 fl))) true)) ∧
  (∀ t e fl s, Ready s.mod t e (wordOf 4 0x01 fl) [useRa, useRb, useRc, (40, 2), (42, 1), (43, 12), (55, 1)]
      [fRa (wordOf 4 0x01 fl), fRb (wordOf 4 0x01 fl), fRc (wordOf 4 0x01 fl)] →
    let w := wordOf 4 0x01 fl
    let th := s.mod.thallus t
    let n := (th.sget (fRc w)).toNat
    bitOf (th.sget (fRa w)) 63 = false → bitOf (th.sget (fRb w)) 63 = false → 0 < n → n < 2 ^ 32 →
    rangeCheck s.mod t (th.sget (fRa w)) n = none → rangeCheck s.mod t (th.sget (fRb w)) n = none →
    (xCen w = true → counterCheck s.mod th (BitVec.ofNat 64 (xCnt w)) = none) →
    exec (.xcopy t e fl) s = .next (Claims.sent s t { localAccess s.mod t w
      (.copy (th.sget (fRb w)).toNat 0 []) (th.sget (fRa w)).toNat n (xHint w) with
        org := .copy t, cnt := if xCen w then some (xCnt w) else none } false))

namespace Sys2Proof.Claims

def usedDesc : List (Nat × Nat) := [useRd, useRa]
/-- The descriptor that an XDESC reads. -/
def descAt (m : Mod) (t : Nat) (w : Word) : BitVec 512 :=
  BitVec.ofNat 512 (leNat (memRead m.mem (tileAddr t ((m.thallus t).sget (fRa w)).toNat) 64))
/-- A completion-record address that is none, or an aligned one the stage may write (R350). -/
def crecOk (m : Mod) (t : Nat) (d : BitVec 512) : Bool :=
  decide (dCrec d = 0) || (decide (dCrec d % 32 = 0) && (rangeCheck m t (BitVec.ofNat 64 (dCrec d)) 32).isNone)
/-- Places of the transfer queue that are taken: a refused descriptor whose record is still to write has none (R350). -/
def placesTaken (th : Thallus) : Nat := (th.queue.filter fun x => !x.refused).length
/-- A descriptor as it enters the queue: no segment started. -/
def newXfer (m : Mod) (t : Nat) (w : Word) : Xfer :=
  let d := descAt m t w
  ⟨(m.thallus t).nextSeq, d, List.replicate (nseg d) .idle, false, 0, false, 0, [], false⟩
/-- A refused descriptor that keeps its record to write: every segment has failed. -/
def refusedXfer (m : Mod) (t : Nat) (w : Word) : Xfer :=
  let d := descAt m t w
  ⟨(m.thallus t).nextSeq, d, List.replicate (max 1 (min 64 (nseg d))) (.failed stDenied), false, 0, false, 0, [], true⟩

end Sys2Proof.Claims

/-- XDESC places a copy of its 64 B descriptor in the transfer queue under the next sequence number, which rd takes. One
that fails its checks takes no place: what stays of it is at most its completion record, with every segment failed; with the
queue full the instruction waits (R110, R112, R350). -/
def Obligations.DescriptorEnters : Prop :=
  ∀ t e fl s, Ready s.mod t e (wordOf 4 0x00 fl) Claims.usedDesc [fRd (wordOf 4 0x00 fl), fRa (wordOf 4 0x00 fl)] →
    let w := wordOf 4 0x00 fl
    let th := s.mod.thallus t
    let d := Claims.descAt s.mod t w
    (th.sget (fRa w)).toNat % 64 = 0 → (th.sget (fRa w)).toNat + 64 ≤ tileBytes → e.tile = .good →
    (Claims.placesTaken th < 32 → descOk s.mod t d = true → Claims.crecOk s.mod t d = true →
      exec (.xdesc t e fl) s = .next (retired s t fun th =>
        { th.sset (fRd w) (BitVec.ofNat 64 th.nextSeq) with
          nextSeq := th.nextSeq + 1
          queue := th.queue ++ [Claims.newXfer s.mod t w] })) ∧
    (Claims.placesTaken th < 32 → (descOk s.mod t d = false ∧ dCrec d = 0 ∨ Claims.crecOk s.mod t d = false) →
      ∃ u, exec (.xdesc t e fl) s = .next u ∧ (u.mod.thallus t).nextSeq = th.nextSeq + 1 ∧
        (u.mod.thallus t).queue = th.queue ∧ (u.mod.thallus t).pc = th.pc + 8 ∧
        (u.mod.thallus t).sregs = (th.sset (fRd w) (BitVec.ofNat 64 th.nextSeq)).sregs) ∧
    (Claims.placesTaken th < 32 → descOk s.mod t d = false → dCrec d ≠ 0 → Claims.crecOk s.mod t d = true →
      exec (.xdesc t e fl) s = .next (retired s t fun th =>
        { th.sset (fRd w) (BitVec.ofNat 64 th.nextSeq) with
          nextSeq := th.nextSeq + 1
          queue := th.queue ++ [Claims.refusedXfer s.mod t w] })) ∧
    (32 ≤ Claims.placesTaken th → exec (.xdesc t e fl) s = .next { s with
      mod := withThallus s.mod t fun th => { th with held := some w } })

namespace Sys2Proof.Claims

/-- The counter index of a Y instruction. -/
def yCounter (th : Thallus) (w : Word) : Nat := (th.sget (fRa w)).toNat
/-- A counter of the stage on a memory-side die that runs. -/
abbrev CounterOk (m : Mod) (th : Thallus) (w : Word) : Prop := counterCheck m th (th.sget (fRa w)) = none

end Sys2Proof.Claims

/-- WAITC, CREAD and the fences (R115, R117, R118): a wait that is met, or whose deadline has passed with DX, ends at
once; else the thallus waits with its entry and the sorus's state follows. A fence with nothing outstanding retires. -/
def Obligations.WaitsAndFences : Prop :=
  Claims.Result .waitc 5 0x00 [useRd, useRa, useRb, useRc, (30, 1)] (fun w => [fRd w, fRa w, fRb w, fRc w])
    (fun m t _ w => Claims.CounterOk m (m.thallus t) w ∧
      m.met (Claims.yCounter (m.thallus t) w) ((m.thallus t).sget (fRb w)) = true)
    (fun _ _ w th => th.sset (fRd w) 0) ∧
  Claims.Result .waitc 5 0x00 [useRd, useRa, useRb, useRc, (30, 1)] (fun w => [fRd w, fRa w, fRb w, fRc w])
    (fun m t _ w => Claims.CounterOk m (m.thallus t) w ∧
      m.met (Claims.yCounter (m.thallus t) w) ((m.thallus t).sget (fRb w)) = false ∧
      m.passed ((m.thallus t).sget (fRc w)) = true ∧ bitOf w 30 = true)
    (fun _ _ w th => th.sset (fRd w) 1) ∧
  (∀ t e fl s, Ready s.mod t e (wordOf 5 0x00 fl) [useRd, useRa, useRb, useRc, (30, 1)]
      [fRd (wordOf 5 0x00 fl), fRa (wordOf 5 0x00 fl), fRb (wordOf 5 0x00 fl), fRc (wordOf 5 0x00 fl)] →
    let w := wordOf 5 0x00 fl
    let th := s.mod.thallus t
    Claims.CounterOk s.mod th w → s.mod.met (Claims.yCounter th w) (th.sget (fRb w)) = false →
    s.mod.passed (th.sget (fRc w)) = false →
    ∃ u, exec (.waitc t e fl) s = .next u ∧ u.mod.thState t = thWaiting ∧
      u.mod.thallus t = { th with
        wait := some ⟨Claims.yCounter th w, th.sget (fRb w), th.sget (fRc w), BitVec.ofNat 5 (fRd w), bitOf w 30, false⟩
        held := none } ∧
      u.mod.mem = s.mod.mem ∧ u.mod.counters = s.mod.counters) ∧
  Claims.Result .cread 5 0x02 [useRd, useRa] (fun w => [fRd w, fRa w])
    (fun m t _ w => Claims.CounterOk m (m.thallus t) w)
    (fun m _ w th => th.sset (fRd w) (m.counter (Claims.yCounter th w))) ∧
  Claims.Result .fenceL 5 0x04 [] (fun _ => []) (fun m t _ _ => localPending m t = false) (fun _ _ _ th => th) ∧
  Claims.Result .fenceF 5 0x05 [] (fun _ => []) (fun m t _ _ => remotePending m t = false) (fun _ _ _ th => th)

/-- CONSUME subtracts s[RB] from its counter and writes the new value to rd, returning the amount in the counter's pool; no
other counter changes where the counter returns no stage-queue credits. An amount above the value raises the
permission-denial exception and leaves every counter as it was (R115, R116, R285). -/
def Obligations.ConsumeTakesFromCounter : Prop :=
  ∀ t e fl s, Ready s.mod t e (wordOf 5 0x01 fl) [useRd, useRa, useRb]
      [fRd (wordOf 5 0x01 fl), fRa (wordOf 5 0x01 fl), fRb (wordOf 5 0x01 fl)] →
    let w := wordOf 5 0x01 fl
    let th := s.mod.thallus t
    let c := Claims.yCounter th w
    let n := th.sget (fRb w)
    Claims.CounterOk s.mod th w →
    (n.toNat ≤ (s.mod.counter c).toNat → queuesOn s.mod c = [] → ∃ u, exec (.consume t e fl) s = .next u ∧
      u.mod.counter c = s.mod.counter c - n ∧
      (u.mod.pool c).returned = (s.mod.pool c).returned + n.toNat ∧
      (∀ d ≠ c, u.mod.counter d = s.mod.counter d) ∧
      (u.mod.thallus t).sget (fRd w) = (if fRd w = 0 then 0 else s.mod.counter c - n) ∧
      (u.mod.thallus t).pc = th.pc + 8 ∧ u.mod.mem = s.mod.mem) ∧
    ((s.mod.counter c).toNat < n.toNat → th.near = [] → ∃ u, exec (.consume t e fl) s = .next u ∧
      u.mod.thState t = thStopped ∧ u.mod.fld (thReg t) CD_THALLUS_STATE_EXCEPTION = exPermission ∧
      u.mod.counters = s.mod.counters)

/-- ACQ and FLUSH (R119): a length of zero retires at once; else the instruction waits for its write-backs, ACQ having
made every line of the range invalid and FLUSH every line of the range clean. -/
def Obligations.AcquireAndFlush : Prop :=
  Claims.Result .acq 5 0x08 [useRa, useRb] (fun w => [fRa w, fRb w])
    (fun m t _ w => (m.thallus t).sget (fRb w) = 0 ∧ ((m.thallus t).sget (fRa w)).toNat ≤ 2 ^ 52) (fun _ _ _ th => th) ∧
  Claims.Result .flush 5 0x09 [useRa, useRb] (fun w => [fRa w, fRb w])
    (fun m t _ w => (m.thallus t).sget (fRb w) = 0 ∧ ((m.thallus t).sget (fRa w)).toNat ≤ 2 ^ 52) (fun _ _ _ th => th) ∧
  (∀ t e fl s, Ready s.mod t e (wordOf 5 0x08 fl) [useRa, useRb] [fRa (wordOf 5 0x08 fl), fRb (wordOf 5 0x08 fl)] →
    let w := wordOf 5 0x08 fl
    let th := s.mod.thallus t
    let base := (th.sget (fRa w)).toNat
    let len := (th.sget (fRb w)).toNat
    0 < len → base + len ≤ 2 ^ 52 →
    ∃ u, exec (.acq t e fl) s = .next u ∧ (u.mod.thallus t).block = some (.range true base len) ∧
      (∀ l ∈ (u.mod.thallus t).near, inRange base len l.1 l.2 = false) ∧
      (u.mod.thallus t).sregs = th.sregs ∧ (u.mod.thallus t).pc = th.pc) ∧
  (∀ t e fl s, Ready s.mod t e (wordOf 5 0x09 fl) [useRa, useRb] [fRa (wordOf 5 0x09 fl), fRb (wordOf 5 0x09 fl)] →
    let w := wordOf 5 0x09 fl
    let th := s.mod.thallus t
    let base := (th.sget (fRa w)).toNat
    let len := (th.sget (fRb w)).toNat
    0 < len → base + len ≤ 2 ^ 52 →
    ∃ u, exec (.flush t e fl) s = .next u ∧ (u.mod.thallus t).block = some (.range false base len) ∧
      (∀ l ∈ (u.mod.thallus t).near, inRange base len l.1 l.2 = true → l.2.dirty = 0) ∧
      (u.mod.thallus t).near.map (·.1) = th.near.map (·.1) ∧
      (u.mod.thallus t).sregs = th.sregs ∧ (u.mod.thallus t).pc = th.pc)

namespace Sys2Proof.Claims

/-- The word `w` stands at the program counter of a running thallus that nothing holds, and its fetch is good. -/
abbrev Standing (m : Mod) (t : Fin 1200) (e : Env) (w : Word) : Prop :=
  mayIssue m t = true ∧ (m.thallus t).held = none ∧ (m.thallus t).pc.toNat % 8 = 0 ∧
  (m.thallus t).pc.toNat < 8 * (m.thallus t).codeLen ∧ (m.thallus t).istore.getD ((m.thallus t).pc.toNat / 8) 0 = w ∧
  e.fetch = .good

/-- The illegal-instruction exception: the thallus stops with that code at that program counter, its registers as they
were, and the memory too where it has no near-cache line to write back. -/
def StopsIllegal (c : Instr) (t : Fin 1200) (s : State) : Prop :=
  ∃ u, exec c s = .next u ∧ u.mod.thState t = thStopped ∧
    u.mod.fld (thReg t) CD_THALLUS_STATE_EXCEPTION = exIllegal ∧ (u.mod.thallus t).pc = (s.mod.thallus t).pc ∧
    (u.mod.thallus t).sregs = (s.mod.thallus t).sregs ∧ (u.mod.thallus t).vregs = (s.mod.thallus t).vregs ∧
    (u.mod.thallus t).pregs = (s.mod.thallus t).pregs ∧ ((s.mod.thallus t).near = [] → u.mod.mem = s.mod.mem)

/-- Instructions of one class that use the same bits of their words: the class, the bits as (low bit, width), and each
command with its opcode (R92, R93, R95, R99, R103, R106, R110, R115). Every other bit above bit 9 is reserved. -/
structure Encoding where
  cls : Nat
  used : List (Nat × Nat)
  commands : List ((Fin 1200 → Env → BitVec 54 → Instr) × Nat)

def scalarEncodings : List Encoding := [
  ⟨0, [useRd, useRa, useRb], [(.add, 0x00), (.sub, 0x01), (.and, 0x02), (.or, 0x03), (.xor, 0x04), (.sll, 0x05), (.srl, 0x06),
    (.sra, 0x07), (.mul, 0x08), (.mulhu, 0x09), (.divu, 0x0A), (.remu, 0x0B), (.slt, 0x0C), (.sltu, 0x0D), (.min, 0x0E),
    (.max, 0x0F)]⟩,
  ⟨0, [useRd, useRa, useImm], [(.addi, 0x10), (.andi, 0x11), (.ori, 0x12), (.xori, 0x13), (.slti, 0x19), (.lb, 0x20),
    (.lbu, 0x21), (.lh, 0x22), (.lhu, 0x23), (.lw, 0x24), (.lwu, 0x25), (.ld, 0x26), (.sb, 0x28), (.sh, 0x29), (.sw, 0x2A),
    (.sd, 0x2B)]⟩,
  ⟨0, [useRd, useRa, (20, 6)], [(.slli, 0x14), (.srli, 0x15), (.srai, 0x16)]⟩,
  ⟨0, [useRd, useImm], [(.li, 0x17)]⟩, ⟨0, [useRd, useRa, (20, 20)], [(.lih, 0x18)]⟩,
  ⟨0, [useRd, useRa], [(.clz, 0x1A), (.popc, 0x1B), (.jr, 0x39)]⟩,
  ⟨0, [(10, 5), (15, 5), (20, 20)], [(.beq, 0x30), (.bne, 0x31), (.blt, 0x32), (.bge, 0x33), (.bltu, 0x34), (.bgeu, 0x35),
    (.bbs, 0x36), (.bbc, 0x37)]⟩,
  ⟨0, [(10, 5), (20, 20)], [(.jal, 0x38)]⟩, ⟨0, [useRd, (20, 4)], [(.srd, 0x3C)]⟩,
  ⟨0, [], [(.endStage, 0x3E), (.nop, 0x3F)]⟩]

def vectorEncodings : List Encoding := [
  ⟨1, used2, [(.vadd, 0x00), (.vsub, 0x01), (.vmul, 0x02), (.vmin, 0x04), (.vmax, 0x05), (.vand, 0x06), (.vor, 0x07),
    (.vxor, 0x08), (.vshl, 0x09), (.vshr, 0x0A), (.vsel, 0x0D)]⟩,
  ⟨1, [useRd, useRa, useRb, useRc, usePred, useType], [(.vfma, 0x03)]⟩,
  ⟨1, used1, [(.vabs, 0x0B), (.vneg, 0x0C), (.vbcast, 0x14), (.vredadd, 0x18), (.vredmax, 0x19), (.vredmin, 0x1A),
    (.vexp2, 0x20), (.vlog2, 0x21), (.vrcp, 0x22), (.vrsqrt, 0x23), (.vtanh, 0x24), (.vsigm, 0x25)]⟩,
  ⟨1, [(10, 3), useRa, useRb, usePred, useType], [(.vcmplt, 0x0E), (.vcmpeq, 0x0F), (.vcmple, 0x10)]⟩,
  ⟨1, [useRd, useRa, useType], [(.vtos, 0x15)]⟩, ⟨1, [useRd, useRa, usePred, useType, (36, 3)], [(.vcvt, 0x28)]⟩,
  ⟨1, [(10, 3), useRa, (36, 1)], [(.pmov, 0x2C)]⟩, ⟨1, [useRd, (15, 3), (36, 1)], [(.ptos, 0x2D)]⟩,
  ⟨1, [(10, 3), (15, 3), (20, 3)], [(.pand, 0x2E), (.por, 0x2F)]⟩, ⟨1, usedRow, [(.vld, 0x30), (.vst, 0x31)]⟩,
  ⟨1, usedElems, [(.vgather, 0x32), (.vscatter, 0x33)]⟩]

def otherEncodings : List Encoding := [
  ⟨2, mFields, [(.mma, 0x00), (.mmaTs, 0x01)]⟩,
  ⟨3, [(12, 2), (17, 3), (20, 2), (22, 5), (27, 5), (32, 5)], [(.tfill, 0x00)]⟩,
  ⟨3, [(10, 2), (12, 2), (14, 2), (16, 1), (17, 3), (22, 5), (27, 5), (32, 5), (37, 5)], [(.tdrain, 0x01)]⟩,
  ⟨3, [(22, 5), (27, 5), (42, 8)], [(.tmove, 0x02), (.tstrm, 0x04)]⟩, ⟨3, [(22, 5), (42, 8)], [(.tzero, 0x03)]⟩,
  ⟨3, [(22, 5), (37, 5), (50, 3)], [(.trowst, 0x05)]⟩,
  ⟨4, usedDesc, [(.xdesc, 0x00)]⟩, ⟨4, [useRa, useRb, useRc, (40, 2), (42, 1), (43, 12), (55, 1)], [(.xcopy, 0x01)]⟩,
  ⟨4, [useRd, useRa, (30, 2), (39, 1), (40, 2), (42, 1)], [(.xld, 0x02)]⟩,
  ⟨4, [useRa, useRb, (30, 2), (39, 1), (40, 2), (42, 1)], [(.xst, 0x03)]⟩,
  ⟨4, [useRd, useRa, useRb, useRc, (32, 4), (36, 3), (39, 1), (42, 1)], [(.xamo, 0x04)]⟩,
  ⟨5, [useRd, useRa, useRb, useRc, (30, 1)], [(.waitc, 0x00)]⟩, ⟨5, [useRd, useRa, useRb], [(.consume, 0x01)]⟩,
  ⟨5, [useRd, useRa], [(.cread, 0x02)]⟩, ⟨5, [], [(.fenceL, 0x04), (.fenceF, 0x05)]⟩,
  ⟨5, [useRa, useRb], [(.acq, 0x08), (.flush, 0x09)]⟩]

end Sys2Proof.Claims

/-- R8: a word with a non-zero bit in a reserved position raises the illegal-instruction exception and is not executed,
for every instruction of every class; and so does a word whose class or opcode the tables do not list, whichever command
issues it. -/
def Obligations.IllegalInstructionStops : Prop :=
  (∀ x ∈ Claims.scalarEncodings ++ Claims.vectorEncodings ++ Claims.otherEncodings, ∀ y ∈ x.commands,
    ∀ (t : Fin 1200) (e : Env) (fl : BitVec 54) (s : State), Claims.Standing s.mod t e (wordOf x.cls y.2 fl) →
    badBits (wordOf x.cls y.2 fl) x.used = true → Claims.StopsIllegal (y.1 t e fl) t s) ∧
  (∀ x ∈ Claims.scalarEncodings ++ Claims.vectorEncodings ++ Claims.otherEncodings, ∀ y ∈ x.commands,
    ∀ (t : Fin 1200) (e : Env) (fl : BitVec 54) (w : Word) (s : State), Claims.Standing s.mod t e w →
    opDefined w = false → Claims.StopsIllegal (y.1 t e fl) t s)

namespace Sys2Proof.Claims

/-- A command completes in a next state of which `P` holds, with the queue of waiting commands as it was. -/
def After (c : Instr) (s : State) (P : Mod → Prop) : Prop :=
  ∃ u, exec c s = .next u ∧ u.pending = s.pending ∧ P u.mod

/-- A command completes, and its whole effect is a change to one thallus. -/
def OnlyThallus (c : Instr) (s : State) (t : Nat) (f : Thallus → Thallus) : Prop :=
  exec c s = .next { s with mod := withThallus s.mod t f }

/-- A thallus has stopped with a code, its registers, program counter and memory as they were. -/
def StoppedWith (m : Mod) (t : Nat) (code : Nat) (u : Mod) : Prop :=
  u.thState t = thStopped ∧ u.fld (thReg t) CD_THALLUS_STATE_EXCEPTION = code ∧
  (u.thallus t).pc = (m.thallus t).pc ∧ (u.thallus t).sregs = (m.thallus t).sregs ∧
  (u.thallus t).vregs = (m.thallus t).vregs ∧ (u.thallus t).wait = none ∧ (u.thallus t).waitRd = [] ∧ u.mem = m.mem

end Sys2Proof.Claims

/-- Stops (R122, R124): a stage stop or an expired stage deadline stops a running or waiting thallus that is not within a
refill, with code 6 or 4; nothing but its dirty near-cache lines reaches memory, and there are none here. -/
def Obligations.ThallusStops : Prop :=
  (∀ (t : Fin 1200) (s : State), active s.mod t = true → inRefill (s.mod.thallus t) = false → (s.mod.thallus t).near = [] →
    mustStop s.mod t = true →
    Claims.After (.stageStop t) s fun u => Claims.StoppedWith s.mod t exStopped u ∧ u.queues = s.mod.queues) ∧
  (∀ (t : Fin 1200) (s : State), active s.mod t = true → inRefill (s.mod.thallus t) = false → (s.mod.thallus t).near = [] →
    s.mod.passed ((s.mod.thallus t).ctx.getD 6 0) = true → asleep s.mod (gsorusOf t) = false →
    Claims.After (.stageDeadlineExpiry t) s (Claims.StoppedWith s.mod t exDeadline)) ∧
  (∀ (t : Fin 1200) (x : Wait) (s : State), active s.mod t = true → (s.mod.thallus t).wait = some x →
    (s.mod.thallus t).near = [] → asleep s.mod (gsorusOf t) = false → x.notified = false → s.mod.met x.counter x.target = false →
    s.mod.passed x.deadline = true → x.dx = false →
    Claims.After (.waitDeadline t) s (Claims.StoppedWith s.mod t exDeadline))

namespace Sys2Proof.Claims

/-- A wait of a thallus whose sorus is awake has ended with `v` in rd: the thallus runs at the next instruction. -/
def WaitEnded (m : Mod) (t : Nat) (x : Wait) (v : Word) (u : Mod) : Prop :=
  u.thallus t = { (m.thallus t).sset x.rd.toNat v with
    pc := (m.thallus t).pc + 8, held := none, branchPc := none, wait := none } ∧
  u.thState t = thRunning ∧ u.mem = m.mem ∧ u.counters = m.counters

end Sys2Proof.Claims

/-- What ends a wait, a fence, a range operation and a stage (R49, R117–R120): the instruction retires with its result;
a stage ends
once everything before it is done: its dirty lines are written back, then its thallus is idle, without a chamber. -/
def Obligations.WaitsFencesAndStagesEnd : Prop :=
  (∀ (t : Fin 1200) (x : Wait) (s : State), (s.mod.thallus t).wait = some x →
    (x.notified = true ∨ s.mod.met x.counter x.target = true) →
    asleep s.mod (gsorusOf t) = false → Claims.After (.waitSatisfied t) s (Claims.WaitEnded s.mod t x 0)) ∧
  (∀ (t : Fin 1200) (x : Wait) (s : State), (s.mod.thallus t).wait = some x → x.notified = false → s.mod.met x.counter x.target = false →
    asleep s.mod (gsorusOf t) = false → s.mod.passed ((s.mod.thallus t).ctx.getD 6 0) = false →
    s.mod.passed x.deadline = true → x.dx = true →
    Claims.After (.waitDeadline t) s (Claims.WaitEnded s.mod t x 1)) ∧
  (∀ (t : Fin 1200) (s : State), (s.mod.thallus t).block = some .fenceL → localPending s.mod t = false →
    Claims.OnlyThallus (.fenceComplete t) s t (retire fun th => { th with block := none })) ∧
  (∀ (t : Fin 1200) (s : State), (s.mod.thallus t).block = some .fenceF → remotePending s.mod t = false →
    Claims.OnlyThallus (.fenceComplete t) s t (retire fun th => { th with block := none })) ∧
  (∀ (t : Fin 1200) (a : Bool) (b n : Nat) (s : State), (s.mod.thallus t).block = some (.range a b n) →
    rangePending s.mod t b n = false →
    Claims.OnlyThallus (.rangeOpComplete t) s t (retire fun th => { th with block := none })) ∧
  (∀ (t : Fin 1200) (s : State), (s.mod.thallus t).block = some .ending → allBefore s.mod t = true →
    (∀ l ∈ (s.mod.thallus t).near, l.2.dirty = 0) → rangePending s.mod t 0 0x10000 = false →
    Claims.After (.stageEndReport t) s fun u => u.thState t = thIdle ∧ u.thChamber t = none ∧
      (u.thallus t).block = none ∧ (u.thallus t).launch = none ∧ (u.thallus t).sregs = (s.mod.thallus t).sregs ∧
      u.mem = s.mod.mem) ∧
  (∀ (t : Fin 1200) (s : State), (s.mod.thallus t).block = some .ending → allBefore s.mod t = true →
    (∃ l ∈ (s.mod.thallus t).near, l.2.dirty ≠ 0 ∧ writeBackOf s.mod t l.1 l.2 ≠ []) →
    Claims.After (.stageEndReport t) s fun u => (u.thallus t).block = some .ending ∧ u.thState t = s.mod.thState t ∧
      (∀ l ∈ (u.thallus t).near, l.2.dirty = 0) ∧ s.mod.flight.length < u.flight.length ∧ u.mem = s.mod.mem)

/-- What comes back to a thallus (R54, R112, R114): a refilled line lets a load complete; a reply writes its rd and frees
it; a failed one under STAT writes 0 and CTX_XERR, and without STAT raises its exception; an instruction that was held at issue issues. -/
def Obligations.RepliesAndRefills : Prop :=
  (∀ (t : Fin 1200) (a n : Nat) (sg : Bool) (rd : BitVec 5) (pc w : Word) (st off way : Nat) (s : State),
    let th := s.mod.thallus t
    let base := a / 64 * 64
    active s.mod t = true → th.block = some (.miss a n sg rd none pc w) → nearVictim th a = way →
    th.near.get? (4 * nearSet a + way) = none → locate base = .stack st off → 64 ≤ roomAt base →
    stackStatus s.mod st off 64 (s.mod.thChamber t) false = stOk → th.due = [] → writingBack s.mod t a = false →
    unitMay s.mod (chamberOf s.mod t) base 64 2 (dieOf t) = true →
    Claims.After (.nearCacheRefillDone t .good) s fun u =>
      (u.thallus t).block = none ∧ (u.thallus t).pc = th.pc + 8 ∧
      (u.thallus t).near.get? (4 * nearSet a + way) = some ⟨nearTag a, 0, homeBytes s.mod base 64⟩ ∧
      (u.thallus t).sget rd.toNat = (if rd.toNat = 0 then 0 else
        extendLoad n sg (lineGet ⟨nearTag a, 0, homeBytes s.mod base 64⟩ (a % 64) n)) ∧
      (u.thallus t).vregs = th.vregs) ∧
  (∀ (t : Fin 1200) (tag : BitVec 32) (r : Reply) (s : State),
    s.mod.replies.find? (fun r : Reply => decide (r.t = t.val ∧ r.tag = tag)) = some r → asleep s.mod (gsorusOf t) = false →
    (r.status = stOk → Claims.After (.xldReply t tag) s fun u =>
      u.thallus t = { s.mod.thallus t with
        waitRd := (s.mod.thallus t).waitRd.filter fun x => x.2 ≠ tag
        sregs := ((s.mod.thallus t).sset r.rd.toNat r.data).sregs } ∧ u.mem = s.mod.mem ∧ u.regs = s.mod.regs) ∧
    (r.status ≠ stOk → r.stat = true → Claims.After (.xldReply t tag) s fun u =>
      u.thallus t = { s.mod.thallus t with
        waitRd := (s.mod.thallus t).waitRd.filter fun x => x.2 ≠ tag
        sregs := ((s.mod.thallus t).sset r.rd.toNat 0).sregs
        ctx := noteXerr (s.mod.thallus t).ctx r.status r.addr } ∧ u.mem = s.mod.mem ∧ u.regs = s.mod.regs) ∧
    (r.status ≠ stOk → r.stat = false → active s.mod t = true → inRefill (s.mod.thallus t) = false →
      (s.mod.thallus t).near = [] →
      Claims.After (.xldReply t tag) s (Claims.StoppedWith s.mod t (statusException r.status)))) ∧
  (∀ (t : Fin 1200) (e : Env) (w : Word) (b : Body) (s : State), (s.mod.thallus t).held = some w →
    mayIssue s.mod t = true → bodyOf w = some b →
    Claims.After (.issueStallEnd t e) s fun u => u = (b t e w).run s.mod)

/-- What ends on a frond (R66, R71, R72, R76, R85): a fill becomes the shadow bank, a drain frees its frond, an issue
period frees the fronds of its mode, an accumulator is complete, and the last of its instruction counts it. -/
def Obligations.FrondEvents : Prop :=
  (∀ (t : Fin 1200) (fr : Fin 4) (e : Env) (b : Bank) (s : State), (s.mod.thallus t).held = none →
    ((s.mod.thallus t).frond fr).fill = some b →
    Claims.OnlyThallus (.fillComplete t fr e) s t fun th => th.setFrond fr { th.frond fr with shadow := b, fill := none }) ∧
  (∀ (t : Fin 1200) (fr : Fin 4) (e : Env) (s : State), (s.mod.thallus t).held = none →
    ((s.mod.thallus t).frond fr).draining = true →
    Claims.OnlyThallus (.drainComplete t fr e) s t fun th => th.setFrond fr { th.frond fr with draining := false }) ∧
  (∀ (t : Fin 1200) (fr : Fin 4) (e : Env) (mode : Nat) (s : State), (s.mod.thallus t).held = none →
    ((s.mod.thallus t).frond fr).busy = true → ((s.mod.thallus t).frond fr).mode = some mode →
    Claims.OnlyThallus (.issuePeriodEnd t fr e) s t fun th =>
      (frondsOf mode (if mode = 1 then fr.val / 2 else fr.val)).foldl
        (fun x f => x.setFrond f { x.frond f with busy := false }) th) ∧
  (∀ (t : Fin 1200) (fr acc : Fin 4) (e : Env) (i : Nat) (s : State), (s.mod.thallus t).held = none →
    ((s.mod.thallus t).frond fr).incomplete.find? (fun i : Nat => decide (i % 4 = acc.val)) = some i →
    Claims.After (.accumulatorComplete t fr acc e) s fun u =>
      u.thallus t = (s.mod.thallus t).setFrond fr { (s.mod.thallus t).frond fr with
        incomplete := ((s.mod.thallus t).frond fr).incomplete.erase i } ∧
      u.fld (CD_MMA_COUNT (dieOf t)) CD_MMA_COUNT_COUNT =
        (s.mod.fld (CD_MMA_COUNT (dieOf t)) CD_MMA_COUNT_COUNT + if 4 ≤ i then 1 else 0) % 2 ^ 64 ∧
      u.mem = s.mod.mem)

/-- Sleep and wake (R30, R178, R432–R435): a power-gated sorus of a die that is not Isolated is asked for with its
stamp, a granted one is waking, and one that completes its wake runs; a sorus that may sleep is power-gated; deep off
leaves nothing of its thalli; the deadline timer asks for its sorus; the PLL stops with every sorus gated and locks
where it was started, with no grant left in the window under way. What counts as waiting and awake is a reading (log 50). -/
def Obligations.SleepAndWake : Prop :=
  (∀ (d : Fin 8) (i : Fin 25) (st : Word) (s : State), s.mod.dieState d ≠ 1 → s.mod.domain (25 * d + i) = 0 →
    (s.mod.cdie d).wakeReqs.any (·.1 = i.val) = false →
    Claims.After (.wakeRequest d (some i) st) s fun u =>
      (u.cdie d).wakeReqs = (s.mod.cdie d).wakeReqs ++ [(i.val, st)] ∧
      (s.mod.fld (CP_COMPUTE d) CP_COMPUTE_PLL = 0 → u.fld (CP_COMPUTE d) CP_COMPUTE_PLL = 1) ∧ u.mem = s.mod.mem) ∧
  (∀ (d : Fin 8) (st : Word) (s : State), s.mod.dieState d ≠ 1 → s.mod.fld (CP_COMPUTE d) CP_COMPUTE_PLL = 0 →
    Claims.After (.wakeRequest d none st) s fun u => u.fld (CP_COMPUTE d) CP_COMPUTE_PLL = 1 ∧ u.cdies = s.mod.cdies) ∧
  (∀ (d : Fin 8) (i : Nat) (s : State), s.mod.fld (CP_COMPUTE d) CP_COMPUTE_PLL = 2 → s.mod.dieRuns d = true → i < 25 →
    (s.mod.cdie d).window.1 ≠ s.mod.now.toNat / 1000 + 1 → 0 < s.mod.fld (CD_LAUNCH_CFG d) CD_LAUNCH_CFG_WAKE_PACE →
    (s.mod.cdie d).resetting = [] → (s.mod.cdie d).wakeReqs = [(i, s.mod.now)] →
    Claims.After (.wakeGrant d) s fun u => (u.cdie d).wakeReqs = [] ∧
      (u.cdie d).waking = (s.mod.cdie d).waking ++ [i] ∧ u.domain (25 * d + i) = 1 ∧ (u.cdie d).wakePtr = (i + 1) % 25) ∧
  (∀ (g : Fin 200) (s : State), (s.mod.cdie (g / 25)).waking.contains (g % 25) = true → s.mod.dieRuns (g / 25) = true →
    stagesOf s.mod g = [] → s.mod.thState (6 * g) = thStopped →
    Claims.After (.sorusWakeComplete g) s fun u => u.domain g = 3 ∧
      (u.cdie (g / 25)).waking = (s.mod.cdie (g / 25)).waking.filter fun x : Nat => decide (x ≠ g.val % 25)) ∧
  (∀ (g : Fin 200) (s : State), mayGate s.mod g = true →
    Claims.After (.sorusPowerGate g) s fun u => u.domain g = 0 ∧ u.thalli = s.mod.thalli ∧ u.mem = s.mod.mem) ∧
  (∀ (g : Fin 200) (s : State), s.mod.fld CP_CFG CP_CFG_DEEP_MS ≠ 0 → s.mod.domain g ≠ 1 →
    s.mod.flag (CP_SORUS g) CP_SORUS_DEEP = false → s.mod.dieRuns (g / 25) = true →
    (∀ t ∈ thalliOf g, s.mod.thState t = thIdle) → stagesOf s.mod g = [] → loadingHolds s.mod g = false →
    (s.mod.cdie (g / 25)).wakeReqs = [] →
    Claims.After (.sorusDeepOff g) s fun u => u.domain g = 0 ∧ u.flag (CP_SORUS g) CP_SORUS_DEEP = true ∧
      (∀ t ∈ thalliOf g, (u.thallus t).sregs = [] ∧ (u.thallus t).istore = []) ∧
      (u.cdie (g / 25)).resident.get? (g % 25) = none ∧
      ∀ t ∈ thalliOf g, ∀ o < tileBytes, memByte u.mem (tileAddr t o) = 0) ∧
  (∀ (g : Fin 200) (dl : Word) (s : State), (s.mod.cdie (g / 25)).timers.get? (g % 25) = some dl →
    (dl.toNat - 1500) / 40 * 40 ≤ s.mod.now.toNat → s.mod.dieState (g / 25) ≠ 1 → s.mod.domain g = 0 →
    (s.mod.cdie (g / 25)).wakeReqs = [] →
    Claims.After (.deadlineWakeTimer g) s fun u => (u.cdie (g / 25)).wakeReqs = [(g.val % 25, dl)] ∧
      (u.cdie (g / 25)).timers.get? (g % 25) = none) ∧
  (∀ (d : Fin 8) (s : State), s.mod.fld (CP_COMPUTE d) CP_COMPUTE_PLL = 2 → (s.mod.cdie d).wakeReqs = [] →
    (∀ i < 25, s.mod.domain (25 * d + i) = 0) →
    Claims.After (.pllStop d) s fun u => u.fld (CP_COMPUTE d) CP_COMPUTE_PLL = 0 ∧ u.cdies = s.mod.cdies) ∧
  (∀ (d : Fin 8) (s : State), s.mod.fld (CP_COMPUTE d) CP_COMPUTE_PLL = 1 →
    Claims.After (.pllLocked d) s fun u => u.fld (CP_COMPUTE d) CP_COMPUTE_PLL = 2 ∧
      (u.cdie d).wakeReqs = (s.mod.cdie d).wakeReqs ∧
      (s.mod.now.toNat % 1000 = 0 → u.cdies = s.mod.cdies) ∧
      (s.mod.now.toNat % 1000 ≠ 0 → (u.cdie d).window =
        (s.mod.now.toNat / 1000 + 1, s.mod.fld (CD_LAUNCH_CFG d) CD_LAUNCH_CFG_WAKE_PACE)))

namespace Sys2Proof.Claims

/-- The batch that a router has at work. -/
def batchAt (m : Mod) (d b : Nat) : Option Batch := ((m.cdie d).routers.get? b).bind (·.batch)

/-- The ring slot that is next in turn, and the header in it. -/
def slotAt (r : Router) : Nat := r.ringBase + r.slot * r.stride
def headerAt (m : Mod) (r : Router) : BatchHdr := batchHdr (memRead m.mem (slotAt r) 128)

/-- A router of a running launch is free to take its next batch: its unit and its fast clock run, its trigger holds 128, and
no tile store of the batch sleeps (R142, R146). -/
abbrev RouterReady (m : Mod) (d b : Nat) (r : Router) : Prop :=
  (m.cdie d).routerStopped = false ∧ m.fld (CP_COMPUTE d) CP_COMPUTE_PLL = 2 ∧ m.dieRuns d = true ∧
  (m.cdie d).routers.get? b = some r ∧ r.batch = none ∧ m.lstate r.launch = lRunning ∧ 128 ≤ (m.counter r.trig).toNat ∧
  m.cntFrozen.contains r.trig = false ∧ m.dieRuns (memDie (counterDie r.trig)) = true ∧
  batchSleepers m (slotAt r) (headerAt m r) = []

/-- The home of a range answers an access of a chamber with OK. -/
def homeOk (m : Mod) (k a n : Nat) (write : Bool) : Bool :=
  decide (n ≤ roomAt a) && match locate a with
    | .stack s off => decide (stackStatus m s off n (some k) write = stOk)
    | .tile t _ => m.dieRuns (dieOf t)
    | _ => false

/-- What token `j` of a batch takes: nothing where it exits, else its ranked experts with their weights (R143, R159). -/
def batchSel (r : Router) (h : BatchHdr) (logits : List Byte) (j : Nat) : List (Nat × Nat) :=
  if h.exits.testBit j then [] else selectFor r h logits j

/-- The enqueues of a batch, token by token in rank order: each to the queue that the expert map names (R145). -/
def batchSends (r : Router) (h : BatchHdr) (logits : List Byte) : List GEntry :=
  ((List.range h.ntok).map fun j => (batchSel r h logits j).zipIdx.map fun c =>
    let x := r.experts.getD c.1.1 0
    ({ die := bitsOf x 8 3, queue := bitsOf x 0 8, token := BitVec.ofNat 32 (h.tokenBase + j)
       row := h.rowsrc + j * h.stride, rank := c.2, weight := BitVec.ofNat 32 c.1.2, time := 0, launch := r.launch }
       : GEntry)).flatten

/-- A gathering queue of a die. -/
def gqAt (m : Mod) (d q : Nat) : Option GQueue := (m.cdie d).queues.get? q

end Sys2Proof.Claims

/-- Routers and gathering queues (R142–R158): a batch takes 128 from its trigger, moves to the next slot, and is failed with
its code or routed: its result records are written and its enqueues are those of its ranked experts; an enqueue takes a
pool entry, or is dropped where its queue is not there; a batch whose enqueues are made writes its status word and counts on
DONE_CNT; a window marks a partial release as due; a queue takes its flush once every feeding binding is final; a release
takes its entries and returns them to the pool; its arrival writes the slot to every destination and counts. The
exponential is free (log 11); the order of weights, flags and padding are readings (logs 53, 54). -/
def Obligations.RoutersAndQueues : Prop :=
  (∀ (d b : Fin 8) (e : Ecc) (r : Router) (s : State), Claims.RouterReady s.mod d b r →
    let h := Claims.headerAt s.mod r
    (batchOk h = false ∨ batchReach s.mod (s.mod.lchamber r.launch) h = false) →
    Claims.After (.routerBatch d b e) s fun u => u.counter r.trig = s.mod.counter r.trig - 128 ∧
      ((u.cdie d).routers.get? b).map (·.slot) = some ((r.slot + 1) % r.nslot) ∧
      Claims.batchAt u d b = some ⟨Claims.slotAt r, [], h.final, 0, 0, if batchOk h then 2 else 1⟩ ∧ u.mem = s.mod.mem) ∧
  (∀ (d b : Fin 8) (r : Router) (s : State), Claims.RouterReady s.mod d b r →
    let h := Claims.headerAt s.mod r
    let k := s.mod.lchamber r.launch
    batchOk h = true → batchReach s.mod k h = true → unitsMay s.mod k (batchRanges h) d = true →
    Claims.homeOk s.mod k h.logits (logitBytes h) false = true → Claims.homeOk s.mod k h.result (64 * h.ntok) true = true →
    Claims.After (.routerBatch d b .good) s fun u =>
      let logits := homeBytes s.mod h.logits (logitBytes h)
      u.counter r.trig = s.mod.counter r.trig - 128 ∧
      ((u.cdie d).routers.get? b).map (·.slot) = some ((r.slot + 1) % r.nslot) ∧
      (Claims.batchAt u d b).map (fun x => (x.slotAddr, x.sends, x.final, x.routed, x.err)) =
        some (Claims.slotAt r, Claims.batchSends r h logits, h.final, 0, 0) ∧
      memRead u.mem h.result (64 * h.ntok) =
        ((List.range h.ntok).map fun j => resultOf (Claims.batchSel r h logits j)).flatten) ∧
  (∀ (d b : Fin 8) (x : Batch) (g : GEntry) (rest : List GEntry) (q : GQueue) (s : State),
    (s.mod.cdie d).routerStopped = false → Claims.batchAt s.mod d b = some x → x.sends = g :: rest →
    reachesDie s.mod d g.die = true → (s.mod.cdie g.die).routerStopped = false →
    Claims.gqAt s.mod g.die g.queue = some q → pendingOn s.mod g.die < 8192 →
    Claims.After (.queueEnqueue d b) s fun u =>
      Claims.batchAt u d b = some { x with sends := rest, routed := x.routed + 1 } ∧
      (Claims.gqAt u g.die g.queue).map (·.pend) = some (q.pend ++ [{ g with time := s.mod.now.toNat }]) ∧
      (u.pool (gatherPool g.die)).issued = (s.mod.pool (gatherPool g.die)).issued + 1 ∧ u.mem = s.mod.mem) ∧
  (∀ (d b : Fin 8) (x : Batch) (g : GEntry) (rest : List GEntry) (s : State),
    (s.mod.cdie d).routerStopped = false → Claims.batchAt s.mod d b = some x → x.sends = g :: rest →
    (s.mod.dieRuns g.die = false ∨ Claims.gqAt s.mod g.die g.queue = none) →
    Claims.After (.queueEnqueue d b) s fun u =>
      Claims.batchAt u d b = some { x with sends := rest } ∧ u.pools = s.mod.pools ∧ u.mem = s.mod.mem) ∧
  (∀ (d b : Fin 8) (r : Router) (x : Batch) (s : State), (s.mod.cdie d).routerStopped = false →
    (s.mod.cdie d).routers.get? b = some r → r.batch = some x →
    x.sends = [] → sleeper s.mod x.slotAddr = none → s.mod.cntFrozen.contains r.doneCnt = false →
    s.mod.dieRuns (memDie (counterDie r.doneCnt)) = true → (s.mod.counter r.doneCnt).toNat < 2 ^ 64 - 1 →
    Claims.After (.batchComplete d b) s fun u => Claims.batchAt u d b = none ∧
      u.counter r.doneCnt = s.mod.counter r.doneCnt + 1 ∧
      (Claims.homeOk s.mod (s.mod.lchamber r.launch) (x.slotAddr + 48) 8 true = true →
        leNat (memRead u.mem (x.slotAddr + 48) 8) = x.dropped % 2 ^ 16 + 2 ^ 16 + (if x.err = 0 then 0 else 2 ^ 17) +
          x.err % 2 ^ 8 * 2 ^ 24 + x.routed % 2 ^ 16 * 2 ^ 32)) ∧
  (∀ (d : Fin 8) (q : Fin 256) (x : GQueue) (g : GEntry) (s : State), (s.mod.cdie d).routerStopped = false →
    Claims.gqAt s.mod d q = some x →
    x.pend.head? = some g → g.time + 1000 * x.window ≤ s.mod.now.toNat → x.flush = none →
    Claims.After (.windowExpiry d q) s fun u => Claims.gqAt u d q = some { x with due := true } ∧
      u.mem = s.mod.mem ∧ u.regs = s.mod.regs) ∧
  (∀ (d : Fin 8) (q : Fin 256) (x : GQueue) (s : State), (s.mod.cdie d).routerStopped = false →
    Claims.gqAt s.mod d q = some x → x.flush = none →
    feeders s.mod x.launch d q ≠ [] → (∀ f ∈ feeders s.mod x.launch d q, x.finals.contains f = true) →
    Claims.After (.queueFlush d q) s fun u =>
      Claims.gqAt u d q = some { x with finals := [], flush := some x.pend.length, due := false } ∧
      u.mem = s.mod.mem ∧ u.regs = s.mod.regs) ∧
  (∀ (d : Fin 8) (q : Fin 256) (lost : BitVec 16) (x : GQueue) (es : List GEntry) (fl : Nat) (s : State),
    (s.mod.cdie d).routerStopped = false →
    s.mod.fld (CP_COMPUTE d) CP_COMPUTE_PLL = 2 → s.mod.dieRuns d = true → Claims.gqAt s.mod d q = some x →
    releaseOf x = some (es, fl) → x.releasing = none → (s.mod.counter x.cnt).toNat < x.nslot →
    (es.map (·.row) ++ (gqThalli x).map fun t => tileAddr t x.slotOff).filterMap (sleeper s.mod) = [] →
    unitsMay s.mod (s.mod.lchamber x.launch) (es.map fun g => (g.row, x.rowBytes)) d = true →
    Claims.After (.gatherRelease d q lost) s fun u =>
      (Claims.gqAt u d q).map (·.pend) = some (x.pend.drop es.length) ∧
      (Claims.gqAt u d q).map (·.seq) = some (x.seq + 1) ∧
      ((Claims.gqAt u d q).bind (·.releasing)).map (fun r => (r.slot, r.seq, r.entries, r.stamp)) =
        some (x.seq % x.nslot, x.seq, es, s.mod.now) ∧
      (u.pool (gatherPool d)).returned = (s.mod.pool (gatherPool d)).returned + es.length ∧ u.mem = s.mod.mem) ∧
  (∀ (d : Fin 8) (q : Fin 256) (x : GQueue) (r : Release) (s : State), (s.mod.cdie d).routerStopped = false →
    Claims.gqAt s.mod d q = some x →
    x.releasing = some r → ((gqThalli x).map fun t => tileAddr t x.slotOff).filterMap (sleeper s.mod) = [] →
    (∀ t ∈ gqThalli x, t < 1200 ∧ reachesDie s.mod d (dieOf t) = true) →
    x.slotOff + r.slot * x.slotStride + (slotBytes s.mod x r).length ≤ tileBytes →
    s.mod.cntFrozen.contains x.cnt = false → s.mod.dieRuns (memDie (counterDie x.cnt)) = true →
    (s.mod.counter x.cnt).toNat < 2 ^ 64 - 1 →
    Claims.After (.releaseArrived d q) s fun u => Claims.gqAt u d q = some { x with releasing := none } ∧
      u.counter x.cnt = s.mod.counter x.cnt + 1 ∧
      ∀ t ∈ gqThalli x, memRead u.mem (tileAddr t (x.slotOff + r.slot * x.slotStride)) (slotBytes s.mod x r).length =
        slotBytes s.mod x r)

namespace Sys2Proof.Claims

/-- The module has a new request of the shared window, behind those it had; where a Volosh port is up, nothing waits before it
and its port has a tag left, it has taken the tag and left on that port (R400, R401, R404). -/
def Requested (m : Mod) (opc off : Nat) (data : List Byte) (watch : Option (Nat × Nat)) (u : Mod) : Prop :=
  (u.volosh.reqs.map fun r => (r.opc, r.off, r.data, r.watch)) =
    (m.volosh.reqs.map fun r => (r.opc, r.off, r.data, r.watch)) ++ [(opc, off, data, watch)] ∧
  (voloshUp m = true → (∀ r ∈ m.volosh.reqs, r.port.isSome = true) → tagRoom m off = true →
    u.volosh.reqs = m.volosh.reqs ++ [⟨voloshTag m, opc, off, data, watch, some (voloshPort m off)⟩] ∧
    vPacket m opc 0 0 (voloshTag m) off (vRlen opc) data ∈ u.out)

/-- A completion entry has been written at CSEQ of a ring whose chamber is not confidential, as one WR_NC, and CSEQ has
moved on (R168, R170). -/
def Completed (m : Mod) (d r ch status det : Nat) (job mask ran : Word) (seq : Nat) (u : Mod) : Prop :=
  (u.ring d r).cseq = (m.ring d r).cseq + 1 ∧
  Requested m opWrNc (64 * m.fld (CD_RING_CMP d r) CD_RING_CMP_BASE + 64 * ((m.ring d r).cseq.toNat % ringSize m d r))
    (leBytes 64 (layNat [(0, 4, (m.ring d r).cseq.toNat), (4, 1, 0x81), (5, 1, ch), (6, 1, status), (7, 1, det),
      (8, 8, job.toNat), (16, 8, mask.toNat), (24, 8, ran.toNat), (32, 8, m.now.toNat), (40, 4, seq)])) none u

/-- A CANCEL, a NOP or a bad entry has completed with a status. -/
def EntryCompleted (m : Mod) (d r status : Nat) (e : BitVec 512) : Mod → Prop :=
  Completed m d r (eChamber e) status 0 (eJob e) 0 0 (eSeq e)

end Sys2Proof.Claims

/-- Rings (R168–R171, R182): a served ring reads its watch slot; the entry at EXPECT is accepted and EXPECT moves on,
a LAUNCH in a free slot in state Checking; any other SEQ but that of the lap before stops the ring; a NOP completes
with status 0 and a CANCEL that finds nothing with status 5; one that finds its launch running stops it. Which slots a
ring may take is a reading (log 51). -/
def Obligations.RingsAcceptAndComplete : Prop :=
  (∀ (d : Fin 8) (r : Fin 256) (s : State), ringServed s.mod d r = true → (s.mod.ring d r).reading = false →
    Claims.After (.ringPoll d r) s fun u => (u.ring d r).reading = true ∧
      Claims.Requested s.mod opRdShared (watchOff s.mod d r) [] (some (d.val, r.val)) u ∧ u.mem = s.mod.mem ∧ u.regs = s.mod.regs) ∧
  (∀ (d : Fin 8) (r : Fin 256) (e : BitVec 512) (s : State), ringServed s.mod d r = true →
    (s.mod.ring d r).reading = true → eSeq e = ringExpect s.mod d r → confidential s.mod (ringChamber s.mod d r) = false →
    eOp e = 2 ∨ eOp e = 3 → eChamber e = ringChamber s.mod d r →
    Claims.After (.ringEntryRead d r e) s fun u => (u.ring d r).accepted = (s.mod.ring d r).accepted ++ [e] ∧
      ringExpect u d r = (eSeq e + 1) % 2 ^ 32 ∧ u.mem = s.mod.mem) ∧
  (∀ (d : Fin 8) (r : Fin 256) (e : BitVec 512) (i : Nat) (s : State), ringServed s.mod d r = true →
    (s.mod.ring d r).reading = true → eSeq e = ringExpect s.mod d r → confidential s.mod (ringChamber s.mod d r) = false →
    eOp e = 1 → eChamber e = ringChamber s.mod d r → freeSlot s.mod d (r.val / 64) = some i →
    Claims.After (.ringEntryRead d r e) s fun u => (u.ring d r).accepted = (s.mod.ring d r).accepted ++ [e] ∧
      u.lstate (64 * d.val + i) = lChecking ∧ u.lword (64 * d.val + i) 1 = eJob e ∧ u.mem = s.mod.mem) ∧
  (∀ (d : Fin 8) (r : Fin 256) (e : BitVec 512) (s : State), ringServed s.mod d r = true →
    (s.mod.ring d r).reading = true → eSeq e ≠ ringExpect s.mod d r →
    (eSeq e + ringSize s.mod d r) % 2 ^ 32 ≠ ringExpect s.mod d r →
    Claims.After (.ringEntryRead d r e) s fun u => u.fld (CD_RING_STATE d r) CD_RING_STATE_STATE = 2 ∧
      (u.ring d r).accepted = (s.mod.ring d r).accepted ∧ (u.ring d r).reading = false ∧ u.mem = s.mod.mem) ∧
  (∀ (d : Fin 8) (r : Fin 256) (e : BitVec 512) (s : State), nextEntry s.mod d r 3 = some e →
    confidential s.mod (ringChamber s.mod d r) = false →
    Claims.After (.ringNop d r) s fun u => Claims.EntryCompleted s.mod d r csDone e u ∧
      (u.ring d r).accepted = ((s.mod.ring d r).accepted.eraseP fun e => eOp e = 3) ∧ u.mem = s.mod.mem ∧ u.regs = s.mod.regs) ∧
  (∀ (d : Fin 8) (r : Fin 256) (e : BitVec 512) (s : State), nextEntry s.mod d r 2 = some e →
    confidential s.mod (ringChamber s.mod d r) = false → (s.mod.cdie d).launches = [] →
    Claims.After (.ringCancel d r) s fun u => Claims.EntryCompleted s.mod d r csNotFound e u ∧
      (u.ring d r).accepted = ((s.mod.ring d r).accepted.eraseP fun e => eOp e = 2) ∧ u.mem = s.mod.mem ∧ u.regs = s.mod.regs) ∧
  (∀ (d : Fin 8) (r : Fin 256) (e : BitVec 512) (i : Fin 64) (l : Launch) (s : State),
    nextEntry s.mod d r 2 = some e → confidential s.mod (ringChamber s.mod d r) = false →
    (s.mod.cdie d).launches = [(i.val, l)] → l.home = 64 * d.val + i.val → l.satellites = [] → l.orphan = false →
    (s.mod.lword (64 * d.val + i.val) 1).toNat = eArg0 e → s.mod.lchamber (64 * d.val + i.val) = ringChamber s.mod d r →
    s.mod.lstate (64 * d.val + i.val) = lRunning →
    Claims.After (.ringCancel d r) s fun u => Claims.EntryCompleted s.mod d r csDone e u ∧
      u.launch? (64 * d.val + i.val) = some { l with cancel := l.cancel.or (some csCancelled), stopping := true } ∧
      u.mem = s.mod.mem ∧ u.regs = s.mod.regs)

namespace Sys2Proof.Claims

/-- A home that answers a read of a chamber with OK, no byte of it dropped by last use. -/
def readsWell (m : Mod) (k a n : Nat) : Bool :=
  homeOk m k a n false && match locate a with
    | .stack s _ => (m.stk s).dropped.isEmpty
    | _ => true

/-- The binding table of an image: none where it names none, else as many bytes as its header says (R173). -/
def tableOf (m : Mod) (image : List Byte) : List Byte :=
  if imgTable image = 0 then List.replicate 64 0
  else homeBytes m (imgTable image) (tableBytes (homeBytes m (imgTable image) 64))

/-- What an image describes for a slot: its stage map and its binding table as they stand. -/
def planAt (m : Mod) (image : List Byte) (key : Nat) : Plan :=
  planOf image (homeBytes m (imgMap image) (32 * imgNst image)) (tableOf m image) key

/-- Every address that the image names passes R91, its stage map and its binding table are read with OK, and the regulator
admits these reads (R174, R203). -/
def planReads (m : Mod) (d : Nat) (image : List Byte) : Bool :=
  let k := imgChamber image
  let n := tableBytes (homeBytes m (imgTable image) 64)
  !imageFar m k image && unitsMay m k (planRanges m image) d && readsWell m k (imgMap image) (32 * imgNst image) &&
  (decide (imgTable image = 0) ||
    (readsWell m k (imgTable image) 64 && chamberRange m k (imgTable image) n && readsWell m k (imgTable image) n))

/-- The LAUNCH entry of a ring that is checked next: its slot, and its image taken from the shared window. -/
abbrev SharedLaunch (m : Mod) (d r : Nat) (e : BitVec 512) (i : Nat) : Prop :=
  nextEntry m d r 1 = some e ∧ eShared e = true ∧ checkingSlot m d r e = some i

end Sys2Proof.Claims

/-- A launch through its states (R172–R185): its checked image fills its slot, which is Pending; one that fails a
check, of the image alone or of all it describes, completes as refused with that check's code; with its resources it loads;
with its code in place it runs; a stage whose wake is due is asked for once; with every stage over it ends and its slot is
Free; past its deadline a Pending launch completes and a Running one has its stages that have not started faulted; what is
left of a launch whose home is lost ends without a completion. The end of a launch in one effect is the model's (log 49),
and so is what a lost launch keeps (log 91). -/
def Obligations.LaunchStates : Prop :=
  (∀ (d : Fin 8) (r : Fin 256) (b : BitVec 1024) (e : BitVec 512) (i : Fin 64) (s : State),
    let image := leBytes 128 b.toNat
    let p := Claims.planAt s.mod image (64 * d.val + i.val)
    Claims.SharedLaunch s.mod d r e i → Claims.planReads s.mod d image = true →
    launchCheck s.mod (ringChamber s.mod d r) true p = 0 →
    Claims.After (.ringLaunch d r b .good) s fun u => u.lstate (64 * d.val + i.val) = lPending ∧
      (u.launch? (64 * d.val + i.val)).map (fun l => (l.stages, l.routers, l.gqs, l.sqs)) =
        some (p.stages, p.routers, p.gqs, p.sqs) ∧
      (u.ring d r).accepted = ((s.mod.ring d r).accepted.eraseP fun e => eOp e = 1) ∧ u.mem = s.mod.mem) ∧
  (∀ (d : Fin 8) (r : Fin 256) (b : BitVec 1024) (e : BitVec 512) (i : Fin 64) (l : Launch) (s : State),
    let image := leBytes 128 b.toNat
    let k := 64 * d.val + i.val
    let code := launchCheck s.mod (ringChamber s.mod d r) true (Claims.planAt s.mod image k)
    Claims.SharedLaunch s.mod d r e i → Claims.planReads s.mod d image = true → code ≠ 0 →
    s.mod.launch? k = some l → l.satellites = [] → l.ring = r.val → confidential s.mod (ringChamber s.mod d r) = false →
    Claims.After (.ringLaunch d r b .good) s fun u => u.lstate k = lFree ∧ u.launch? k = none ∧
      Claims.Completed s.mod d r (s.mod.lchamber k) csRefused code (s.mod.lword k 1)
        (s.mod.lword k 15) l.ran l.submitted.toNat u ∧ u.mem = s.mod.mem) ∧
  (∀ (d : Fin 8) (r : Fin 256) (b : BitVec 1024) (ecc : Ecc) (e : BitVec 512) (i : Fin 64) (l : Launch) (s : State),
    let image := leBytes 128 b.toNat
    let k := 64 * d.val + i.val
    Claims.SharedLaunch s.mod d r e i → imageFar s.mod (imgChamber image) image = true →
    s.mod.launch? k = some l → l.satellites = [] → l.ring = r.val → confidential s.mod (ringChamber s.mod d r) = false →
    Claims.After (.ringLaunch d r b ecc) s fun u => u.lstate k = lFree ∧ u.launch? k = none ∧
      Claims.Completed s.mod d r (s.mod.lchamber k) csRefused (imageCheck s.mod (ringChamber s.mod d r) 3 image)
        (s.mod.lword k 1) (s.mod.lword k 15) l.ran l.submitted.toNat u ∧ u.mem = s.mod.mem) ∧
  (∀ (d : Fin 8) (i : Fin 64) (l : Launch) (s : State),
    let k := 64 * d.val + i.val
    s.mod.launch? k = some l → s.mod.lstate k = lPending → l.home = k → mayTake s.mod k l = true →
    satelliteSlots s.mod k l = some [] → l.routers = [] → needCode s.mod l = [] →
    Claims.After (.launchResources d i) s fun u => u.lstate k = lLoading ∧
      u.launch? k = some { l with satellites := [] } ∧
      (∀ q ∈ l.gqs, ((u.cdie q.1).queues.get? q.2.1).map (·.launch) = some k) ∧ u.mem = s.mod.mem) ∧
  (∀ (d : Fin 8) (i : Fin 64) (ecc : Ecc) (l : Launch) (s : State),
    let k := 64 * d.val + i.val
    s.mod.launch? k = some l → s.mod.lstate k = lLoading → l.home = k → l.stopping = false → l.satellites = [] →
    l.orphan = false → (s.mod.cdie d).routerStopped = false → l.sqs = [] → needCode s.mod l = [] → (∀ x ∈ launchSori l, asleep s.mod x = true) →
    Claims.After (.launchLoadDone d i ecc) s fun u => u.lstate k = lRunning ∧
      u.launch? k = some { l with ran := s.mod.now } ∧ u.mem = s.mod.mem) ∧
  (∀ (d : Fin 8) (i : Fin 64) (st : Fin 64) (l : Launch) (x : Machine.Stage) (s : State),
    let k := 64 * d.val + i.val
    s.mod.launch? k = some l → l.stages[st.val]? = some x → s.mod.lstate k = lRunning → x.die = d.val → x.asked = false →
    l.stopping = false → (stageDue s.mod l x).1 ≤ s.mod.now.toNat →
    Claims.After (.stageWakeDue d i st) s fun u =>
      u.launch? k = some { l with stages := l.stages.set st.val { x with asked := true } } ∧ u.mem = s.mod.mem ∧
      u.thalli = s.mod.thalli) ∧
  (∀ (d : Fin 8) (i : Fin 64) (l : Launch) (s : State),
    let k := 64 * d.val + i.val
    s.mod.launch? k = some l → s.mod.lstate k = lRunning → l.home = k → l.satellites = [] → l.orphan = false → ownOver s.mod k = true →
    s.mod.dieRuns d = true → l.sqs = [] → launchCounters l = [] → bitOf (s.mod.lword k 12) 44 = false →
    (∀ y < 8, (s.mod.cdie y).queues = []) → confidential s.mod (ringChamber s.mod d l.ring) = false → l.ring < 256 →
    Claims.After (.launchEnding d i) s fun u => u.lstate k = lFree ∧ u.launch? k = none ∧ u.counters = s.mod.counters ∧
      Claims.Completed s.mod d l.ring (s.mod.lchamber k) (endStatus s.mod k l)
        (if s.mod.lword k 15 ≠ 0 then l.exc else 0) (s.mod.lword k 1) (s.mod.lword k 15) l.ran l.submitted.toNat u ∧
      u.mem = s.mod.mem) ∧
  (∀ (d : Fin 8) (i : Fin 64) (l : Launch) (s : State),
    let k := 64 * d.val + i.val
    s.mod.launch? k = some l → s.mod.lstate k = lPending → l.home = k → l.satellites = [] →
    s.mod.passed (s.mod.lword k 13) = true → confidential s.mod (ringChamber s.mod d l.ring) = false →
    Claims.After (.launchDeadline d i) s fun u => u.lstate k = lFree ∧ u.launch? k = none ∧
      (u.ring d l.ring).cseq = (s.mod.ring d l.ring).cseq + 1 ∧ u.mem = s.mod.mem) ∧
  (∀ (d : Fin 8) (i : Fin 64) (l : Launch) (x : Machine.Stage) (s : State),
    let k := 64 * d.val + i.val
    s.mod.launch? k = some l → s.mod.lstate k = lRunning → l.home = k → l.satellites = [] →
    s.mod.passed (s.mod.lword k 13) = true → l.stages = [x] → x.die = d.val → x.started ≠ x.sori →
    Claims.After (.launchDeadline d i) s fun u => u.launch? k = some { l with cancel := some csDeadline } ∧
      u.lword k 15 = s.mod.lword k 15 ||| 1 ∧ u.mem = s.mod.mem) ∧
  (∀ (d : Fin 8) (i : Fin 64) (l : Launch) (s : State),
    let k := 64 * d.val + i.val
    s.mod.launch? k = some l → s.mod.lstate k = lRunning → l.home = k → l.satellites = [] → l.orphan = true →
    ownOver s.mod k = true → launchCounters l = [] → (∀ y < 8, (s.mod.cdie y).queues = []) →
    Claims.After (.launchEnding d i) s fun u => u.lstate k = lFree ∧ u.launch? k = none ∧ u.volosh = s.mod.volosh ∧
      u.counters = s.mod.counters ∧ u.mem = s.mod.mem)

namespace Sys2Proof.Claims

/-- A read of a stack that its home serves at once: its level is off, nothing on its burst is under way, no sump entry and
no value dropped by last use stands in the way. -/
abbrev ServedAtOnce (m : Mod) (a : Access) (st off : Nat) : Prop :=
  locate a.addr = .stack st off ∧ staleAccess m a = false ∧ refusedEarly m a = false ∧ (m.stk st).heldRow = [] ∧
  (m.mdie (st / 8)).jnlHeld = [] ∧
  m.fld (MS_REG_CFG (st / 8) a.chamber) MS_REG_CFG_RATE = 0 ∧ (m.mdie (st / 8)).held = [] ∧ (m.stk st).remaps = [] ∧
  (m.stk st).retry = [] ∧ (m.stk st).repeating = [] ∧ (m.stk st).dropped = [] ∧ (m.stk st).lost = [] ∧
  (m.stk st).unkept = false ∧ m.fld (MS_JNL_CTL (st / 8) a.chamber) MS_JNL_CTL_MODE = 0 ∧ a.chamber < 8

end Sys2Proof.Claims

/-- Accesses at their home (R190–R192, R201, R207–R209, R232): the read of a local thallus returns the bytes of the
home, its write replaces them and no others; a first uncorrectable read waits for its one retry; a good retry
delivers; a failed repeat of a write starts the copy of its row; a held access is admitted with its tokens; a held
journalled one goes on. When tokens are charged and which check comes first are readings (logs 60, 61, 63). -/
def Obligations.AccessesAtTheirHome : Prop :=
  (∀ (a : Access) (t st off : Nat) (rest : List Access) (s : State), s.mod.flight = a :: rest →
    Claims.ServedAtOnce s.mod a st off → a.kind = .read → a.org = .thallus t → a.cnt = none →
    ((s.mod.thallus t).waitRd.any fun x => x.2 = a.tag) = true → a.size ≤ 8 →
    Claims.After (.homeAccess 0 .good) s fun u => u.flight = rest ∧ u.mem = s.mod.mem ∧
      u.replies = s.mod.replies ++ [⟨t, a.tag, a.rd, stOk, BitVec.ofNat 64 (leNat (memRead s.mod.mem a.addr a.size)),
        BitVec.ofNat 64 a.addr, a.stat, a.pc, a.word⟩]) ∧
  (∀ (a : Access) (t st off : Nat) (w : List Byte) (rest : List Access) (s : State), s.mod.flight = a :: rest →
    Claims.ServedAtOnce s.mod a st off → a.kind = .write w → a.org = .thallus t → a.cnt = none →
    Claims.After (.homeAccess 0 .good) s fun u => u.flight = rest ∧ u.mem = memWrite s.mod.mem a.addr w ∧
      u.thalli = s.mod.thalli ∧ u.counters = s.mod.counters) ∧
  (∀ (a : Access) (t st off : Nat) (rest : List Access) (e : Ecc) (s : State), s.mod.flight = a :: rest →
    Claims.ServedAtOnce s.mod a st off → a.kind = .read → a.org = .thallus t → e = .transient ∨ e = .lasting →
    Claims.After (.homeAccess 0 e) s fun u => u.flight = rest ∧ (u.stk st).retry = [a] ∧ u.mem = s.mod.mem ∧
      u.replies = s.mod.replies) ∧
  (∀ (a : Access) (t : Nat) (st : Fin 32) (off : Nat) (s : State), (s.mod.stk st).retry = [a] →
    locate a.addr = .stack st off → refusedEarly s.mod a = false → a.kind = .read → a.org = .thallus t → a.cnt = none →
    a.size ≤ 8 → ((s.mod.thallus t).waitRd.any fun x => x.2 = a.tag) = true → (s.mod.stk st).dropped = [] →
    (s.mod.stk st).unkept = false → (s.mod.stk st).heldRow = [] →
    Claims.After (.readRetryResult st true) s fun u => (u.stk st).retry = [] ∧ u.mem = s.mod.mem ∧
      u.replies = s.mod.replies ++ [⟨t, a.tag, a.rd, stOk, BitVec.ofNat 64 (leNat (memRead s.mod.mem a.addr a.size)),
        BitVec.ofNat 64 a.addr, a.stat, a.pc, a.word⟩]) ∧
  (∀ (a : Access) (t : Nat) (st : Fin 32) (off : Nat) (s : State), (s.mod.stk st).retry = [a] →
    locate a.addr = .stack st off → refusedEarly s.mod a = false → a.kind = .read → a.org = .thallus t → a.cnt = none →
    (s.mod.stk st).lost = [] → (s.mod.stk st).spares = [] → remapEntries s.mod st = [] → (s.mod.stk st).remaps = [] →
    ((s.mod.thallus t).waitRd.any fun x => x.2 = a.tag) = true → burstsOf off a.size = [off / 32] →
    dirtyBurst s.mod st (off / 32) = false → (s.mod.stk st).heldRow = [] →
    Claims.After (.readRetryResult st false) s fun u => (u.stk st).lost = [off / 32] ∧ u.mem = s.mod.mem ∧
      (u.stk st).remaps.map (·.1) = [0] ∧
      u.replies = s.mod.replies ++ [⟨t, a.tag, a.rd, stDataLost, 0, BitVec.ofNat 64 a.addr, a.stat, a.pc, a.word⟩]) ∧
  (∀ (a : Access) (w : List Byte) (t : Nat) (st : Fin 32) (off : Nat) (s : State), (s.mod.stk st).repeating = [a] →
    locate a.addr = .stack st off → refusedEarly s.mod a = false → a.kind = .write w → a.org = .thallus t → a.cnt = none →
    s.mod.fld (MS_JNL_CTL (st.val / 8) a.chamber) MS_JNL_CTL_MODE = 0 → (s.mod.stk st).dropped = [] →
    (s.mod.stk st).lost = [] → a.chamber < 8 → (s.mod.stk st).heldRow = [] →
    Claims.After (.writeRepeatResult st true) s fun u => (u.stk st).repeating = [] ∧
      u.mem = memWrite s.mod.mem a.addr w) ∧
  (∀ (a : Access) (w : List Byte) (st : Fin 32) (off : Nat) (s : State), (s.mod.stk st).repeating = [a] →
    locate a.addr = .stack st off → refusedEarly s.mod a = false → a.kind = .write w → 0 < w.length →
    (s.mod.stk st).spares = [] → remapEntries s.mod st = [] → (s.mod.stk st).remaps = [] → (s.mod.stk st).retry = [] →
    (s.mod.stk st).heldRow = [] →
    Claims.After (.writeRepeatResult st false) s fun u => (u.stk st).repeating = [] ∧ (u.stk st).remaps.map (·.1) = [0] ∧
      (u.stk st).heldRow = [a] ∧ u.mem = s.mod.mem) ∧
  (∀ (a : Access) (die : Fin 4) (k : Fin 8) (t st off : Nat) (w : List Byte) (s : State), (s.mod.mdie die).held = [a] →
    a.chamber = k.val → a.org = .thallus t → a.kind = .write w → a.cnt = none → locate a.addr = .stack st off →
    st / 8 = die.val → refusedEarly s.mod a = false → admits s.mod die k (accessTokens a) = true →
    (s.mod.stk st).remaps = [] → (s.mod.stk st).retry = [] → (s.mod.stk st).repeating = [] → (s.mod.stk st).dropped = [] →
    (s.mod.stk st).lost = [] → s.mod.fld (MS_JNL_CTL die k) MS_JNL_CTL_MODE = 0 →
    Claims.After (.tokenAdmission die k .good) s fun u => (u.mdie die).held = [] ∧
      u.mem = memWrite s.mod.mem a.addr w) ∧
  (∀ (a : Access) (die : Fin 4) (k : Fin 8) (t st off : Nat) (w : List Byte) (s : State), (s.mod.mdie die).jnlHeld = [a] →
    a.chamber = k.val → a.org = .thallus t → a.kind = .write w → a.cnt = none → locate a.addr = .stack st off →
    st / 8 = die.val → refusedEarly s.mod a = false →
    (s.mod.stk st).remaps = [] → (s.mod.stk st).retry = [] → (s.mod.stk st).repeating = [] → (s.mod.stk st).dropped = [] →
    (s.mod.stk st).lost = [] → s.mod.fld (MS_JNL_CTL die k) MS_JNL_CTL_MODE = 0 →
    Claims.After (.journalHoldRelease die k) s fun u => (u.mdie die).jnlHeld = [] ∧
      u.mem = memWrite s.mod.mem a.addr w)

/-- Stacks (R191, R211–R224, R359, R484–R486): a copied row is valid; scrub counts what it corrects and changes no
memory; a poll shows the temperature and enters a level at once, and one above 110 °C takes the stack out of service;
margining that fails fails the stack, else it is ready or in service; training zeroes, and the zeroed stacks serve; an
idle sump entry is written back; an idle stack enters self-refresh. The highest of several levels acts (log 34); what becomes of
contents that self-refresh does not keep is free (log 86). -/
def Obligations.StackMaintenance : Prop :=
  (∀ (st : Fin 32) (e : Nat) (w : Word) (s : State), (s.mod.stk st).remaps = [(e, w)] → e < 256 → (s.mod.stk st).heldRow = [] →
    (s.mod.stk st).clearWanted = false → regMask (MS_REMAP (st.val / 8) (st.val % 8) e) &&& w = w →
    Claims.After (.remapCopyDone st []) s fun u => u.reg (MS_REMAP (st.val / 8) (st.val % 8) e) = w ∧
      (u.stk st).remaps = [] ∧ u.mem = s.mod.mem) ∧
  (∀ (st : Fin 32) (b : Nat) (e : Ecc) (s : State), e = .good ∨ e = .single → 32 * b < stackBytes →
    stackServes s.mod st = true → dirtyBurst s.mod st b = false → stackStatus s.mod st (32 * b) 32 none false = stOk →
    Claims.After (.scrubRead st b e) s fun u => u.mem = s.mod.mem ∧ u.stks = s.mod.stks ∧
      u.fld (stackEccReg st) MS_STACK_ECC_CORRECTED = min (2 ^ MS_STACK_ECC_CORRECTED.w - 1)
        (s.mod.fld (stackEccReg st) MS_STACK_ECC_CORRECTED + if e = .single then 1 else 0)) ∧
  (∀ (st : Fin 32) (t : BitVec 8) (sec : Option (BitVec 8)) (s : State), s.mod.dieRuns (memDie (st.val / 8)) = true →
    t.toInt ≤ 110 →
    Claims.After (.stackTempPoll st (some t) sec) s fun u => u.fld (stackReg st) MS_STACK_STATE_TEMP = t.toNat ∧
      u.fld (stackReg st) MS_STACK_STATE_THROTTLE =
        (heatLevel (s.mod.fld (stackReg st) MS_STACK_STATE_THROTTLE) (s.mod.stk st).cool t.toInt).1 ∧
      stackState u st = stackState s.mod st ∧ u.mem = s.mod.mem) ∧
  (∀ (st : Fin 32) (t : BitVec 8) (sec : Option (BitVec 8)) (s : State), s.mod.dieRuns (memDie (st.val / 8)) = true →
    110 < t.toInt → stackState s.mod st = 1 → (s.mod.mdie (st.val / 8)).sump = [] → (s.mod.mdie (st.val / 8)).held = [] →
    (s.mod.mdie (st.val / 8)).jnlHeld = [] → (s.mod.stk st).retry = [] → (s.mod.stk st).repeating = [] →
    (s.mod.stk st).heldRow = [] → stackOwner s.mod st = none → (s.mod.stk st).clearWanted = false →
    Claims.After (.stackTempPoll st (some t) sec) s fun u => stackState u st = 5 ∧ u.mem = s.mod.mem) ∧
  (∀ (st : Fin 32) (res : List ChannelMargin) (s : State), (s.mod.stk st).action ≠ 0 → stackState s.mod st = 4 →
    (s.mod.stk st).clearWanted = false → stackOwner s.mod st = none →
    Claims.After (.marginingDone st res) s fun u => (u.stk st).action = 0 ∧ u.fld (MS_MAINT (st.val / 8)) MS_MAINT_BUSY = 0 ∧
      stackState u st = if res.length ≠ 8 ∨ (((List.range 8).zip res).any fun c => channelResult s.mod st c.1 c.2 = 3) then 6
        else if (s.mod.stk st).action = 2 then serviceState s.mod st else 3) ∧
  (∀ (die : Fin 4) (s : State), s.mod.dieRuns (memDie die) = true → s.mod.rst.stacksZeroing = [] →
    Claims.After (.stackTrainingDone die) s fun u => u.rst.stacksZeroing = [die.val] ∧
      ∀ j < 8, stackState s.mod (8 * die.val + j) = 0 → stackState u (8 * die.val + j) = 7) ∧
  (∀ (die : Fin 4) (s : State), s.mod.rst.stacksZeroing = [die.val] → (∀ j < 8, stackOwner s.mod (8 * die.val + j) = none) →
    Claims.After (.stackZeroDone die) s fun u => u.rst.stacksZeroing = [] ∧ u.mem = s.mod.mem ∧
      ∀ j < 8, stackState s.mod (8 * die.val + j) = 7 →
        stackState u (8 * die.val + j) = serviceState s.mod (8 * die.val + j)) ∧
  (∀ (die : Fin 4) (x : SumpEntry) (s : State), (s.mod.mdie die).sump = [x] →
    s.mod.dieRuns (memDie die) = true →
    Claims.After (.sumpIdleWriteback die x.line) s fun u => (u.mdie die).sump = [] ∧ u.mem = s.mod.mem ∧
      (u.pool (0x12C0 + die.val)).returned = (s.mod.pool (0x12C0 + die.val)).returned + 1) ∧
  (∀ (st : Fin 32) (s : State), stackServes s.mod st = true → (s.mod.stk st).retry = [] → (s.mod.stk st).repeating = [] →
    (s.mod.stk st).remaps = [] →
    Claims.After (.stackSelfRefresh st) s fun u => u.stk st = { s.mod.stk st with
        selfRefresh := true
        unkept := (s.mod.stk st).unkept || (stackOwner s.mod st).isNone } ∧
      u.mem = s.mod.mem ∧ u.regs = s.mod.regs)

/-- The conservation ledger (R285–R288): at a drip tick that is a multiple of 1,024 every live pool's four counts are taken
at the boundary; the snapshot holds those, and the checker has all of them to check, in index order; a snapshot in which
issued is the sum of the others passes; one that does not is a lasting fault, and a counter takes no arrival from then on. -/
def Obligations.LedgerSnapshotsAndChecks : Prop :=
  (∀ m : Mod, (m.tick + 1) % 1024 = 0 → (tickAct.run m).poolBound = (livePools (tickAct.run m)).map fun i =>
    (i, poolCounts (tickAct.run m) i)) ∧
  (∀ (i : Nat) (sn : PoolSnap) (s : State), s.mod.tick % 1024 = 0 → (s.mod.poolBound.map (·.1)).Nodup →
    s.mod.poolBound.get? i = some sn →
    Claims.After .ledgerSnapshot s fun u => u.poolSnap.get? i = some sn ∧ u.ledgerTodo = s.mod.poolBound.map (·.1) ∧
      u.pools = s.mod.pools ∧ u.mem = s.mod.mem ∧ u.regs = s.mod.regs) ∧
  (∀ (i : Nat) (b : Bool) (sn : PoolSnap) (rest : List Nat) (s : State), s.mod.poolSnap.get? i = some sn →
    stillToCheck s.mod = i :: rest → rest ≠ [] → snapOk sn = true →
    Claims.After (.ledgerCheck i true b) s fun u => u.ledgerTodo = rest ∧ u.poolRead.get? i = some sn ∧
      u.regs = s.mod.regs ∧ u.queues = s.mod.queues ∧ u.cntFrozen = s.mod.cntFrozen ∧ u.pools = s.mod.pools) ∧
  (∀ (i j : Nat) (a b : Bool) (rest : List Nat) (s : State), stillToCheck s.mod = j :: rest → i ≠ j →
    exec (.ledgerCheck i a b) s = .next s) ∧
  (∀ (i : Nat) (a b : Bool) (sn : PoolSnap) (rest : List Nat) (s : State), i < 4096 → s.mod.poolSnap.get? i = some sn →
    stillToCheck s.mod = i :: rest → snapOk sn = false →
    Claims.After (.ledgerCheck i a b) s fun u => u.cntFrozen.contains i = true ∧ u.counters = s.mod.counters ∧
      u.fld FB_LEDGER_STAT FB_LEDGER_STAT_LASTING = min (2 ^ FB_LEDGER_STAT_LASTING.w - 1)
        (s.mod.fld FB_LEDGER_STAT FB_LEDGER_STAT_LASTING + 1))

namespace Sys2Proof.Claims

/-- A record of a code and class, stamped now, has joined a local queue (R514, R518). -/
def Recorded (m : Mod) (q code cls : Nat) (u : Mod) : Prop :=
  ∃ r : Rec, (u.queue q).recs = (m.queue q).recs ++ [r] ∧ r.code.toNat = code ∧ r.cls.toNat = cls ∧ r.stamp = m.now

/-- A whole packet of this module has joined the output queue of a port on VC3 (R262, R266). -/
def SentVc3 (m : Mod) (p : Nat) (h : Header) (data : List Byte) (u : Mod) : Prop :=
  (u.port p).outq = (m.port p).outq ++ (packetFlits h data).map fun f =>
    ⟨mkFlit f.2.1 0 f.1 f.2.2 h.net h.vc.toNat false, ownPid 12, 12, none, h.stamp, h.chamber⟩

/-- The header of a VC3 reply (R265, R266). -/
def replyHeader (m : Mod) (op dst : Nat) (tag : BitVec 32) (status addr len : Nat) : Header :=
  { hdrZero with
    dst := BitVec.ofNat 14 dst, src := BitVec.ofNat 14 dst, net := true, vc := 3, rclass := 2, tag := tag
    stamp := BitVec.ofNat 24 m.now.toNat, op := BitVec.ofNat 8 op, len := BitVec.ofNat 13 len
    status := BitVec.ofNat 4 status, addr := BitVec.ofNat 64 addr }

end Sys2Proof.Claims

/-- The link retry (R259, R260, R275, R278–R281): a flit in order is accepted; one with a bad CRC is not, and a
control flit with NAK goes out; an acknowledgement frees what it covers; a missing replay is asked for again, and the
fourth failure resets the port, which trains. The bit order of the CRC is a reading (log 20). -/
def Obligations.LinkRetry : Prop :=
  (∀ (p : Fin 64) (f : Flit) (s : State), s.mod.portOpen p = true → (s.mod.port p).ctlHeard = true →
    (s.mod.port p).dropping = false → flCrcOk f = true → flKind f ≠ 0 → flSeqLo f = (s.mod.port p).expect % 256 →
    Claims.After (.dataFlit p f) s fun u => (u.port p).expect = ((s.mod.port p).expect + 1) % 2 ^ 24 ∧
      (u.port p).dropping = false ∧ (u.port p).retryBuf = (s.mod.port p).retryBuf ∧ u.mem = s.mod.mem ∧
      u.thalli = s.mod.thalli) ∧
  (∀ (p : Fin 64) (f : Flit) (s : State), s.mod.portOpen p = true → (s.mod.port p).ctlHeard = true →
    (s.mod.port p).dropping = false → flCrcOk f = false →
    Claims.After (.dataFlit p f) s fun u =>
      u.port p = { s.mod.port p with dropping := true, raw := some f, fails := 0 } ∧
      u.out = .flit p (Machine.controlFlit s.mod p true) :: s.mod.out ∧ u.mem = s.mod.mem ∧ u.regs = s.mod.regs) ∧
  (∀ (p : Fin 64) (f : Flit) (s : State), s.mod.portOpen p = true → (s.mod.port p).ctlHeard = true →
    flCrcOk f = true → flKind f = 0 → (s.mod.port p).peerEpoch = some (BitVec.ofNat 16 (cfEpoch f)) → cfNak f = false →
    Claims.After (.controlFlit p f) s fun u =>
      (u.port p).retryBuf = (s.mod.port p).retryBuf.filter (fun h => !covers (cfAck f) h.seq) ∧
      (∀ j < 8, (u.port p).granted.getD j 0 = cfCred f j) ∧ u.out = s.mod.out ∧ u.mem = s.mod.mem) ∧
  (∀ (p : Fin 64) (s : State), s.mod.portOpen p = true →
    exec (.controlFlitSend p) s = .next { s with mod := { s.mod with
      out := .flit p (Machine.controlFlit s.mod p false) :: s.mod.out } }) ∧
  (∀ (p : Fin 64) (s : State), s.mod.portOpen p = true → (s.mod.port p).dropping = true → (s.mod.port p).fails < 3 →
    Claims.After (.nakRepeat p) s fun u => (u.port p).fails = (s.mod.port p).fails + 1 ∧
      u.out = .flit p (Machine.controlFlit s.mod p true) :: s.mod.out ∧ u.linkState p = s.mod.linkState p) ∧
  (∀ (p : Fin 64) (s : State), s.mod.portOpen p = true → (s.mod.port p).dropping = true → 3 ≤ (s.mod.port p).fails →
    Claims.After (.nakRepeat p) s fun u => u.linkState p = lkTraining ∧ (u.port p).retryBuf = [] ∧
      (u.port p).expect = 0 ∧ (u.port p).dropping = false)

/-- Links going and coming (R261, R290–R293, R502): a lost link closes its epoch and trains; a trained link opens a
new one, quarantined, with discovery begun; the loss of an on-package link isolates its die; a flit slot sends the
flit the arbiter grants, held until it is acknowledged, and else a control flit. Which end of a lost on-package link
is isolated is a reading (log 85). -/
def Obligations.LinksAndSlots : Prop :=
  (∀ (p : Fin 64) (s : State), s.mod.portOpen p = true →
    Claims.After (.linkLoss p) s fun u => u.linkState p = lkTraining ∧ (u.port p).retryBuf = [] ∧ (u.port p).outq = [] ∧
      (u.port p).expect = 0 ∧ (u.port p).txSeq = 0 ∧ u.mem = s.mod.mem ∧
      u.fld (FB_PORT_LINK p) FB_PORT_LINK_CLOSES =
        (s.mod.fld (FB_PORT_LINK p) FB_PORT_LINK_CLOSES + 1) % 2 ^ FB_PORT_LINK_CLOSES.w) ∧
  (∀ (p : Fin 64) (s : State), mayRise s.mod p = true → s.mod.planKind p ≠ 4 →
    Claims.After (.linkUp p) s fun u => u.linkState p = lkQuarantined ∧ (u.port p).stage = 1 ∧
      (u.port p).expect = 0 ∧ (u.port p).ctlHeard = false ∧
      u.fld (FB_PORT_LINK p) FB_PORT_LINK_EPOCH = (s.mod.fld (FB_PORT_LINK p) FB_PORT_LINK_EPOCH + 1) % 2 ^ 16 ∧
      u.freeCount = s.mod.freeCount + 1 ∧ u.mem = s.mod.mem) ∧
  (∀ (n : Fin 57) (s : State), s.mod.fld (DD_LINK n) DD_LINK_STATE = dlRunning →
    s.mod.dieRuns (linkVictim n) = true →
    Claims.After (.onpkgLinkLoss n) s fun u => u.dieState (linkVictim n) = 1 ∧
      u.fld (DD_DIE (linkVictim n)) DD_DIE_CAUSE = 5 ∧ u.fld (DD_LINK n) DD_LINK_STATE = dlIsolated) ∧
  (∀ (p : Fin 64) (s : State), s.mod.portOpen p = true → s.mod.reqs = [] → s.mod.trust.image.floors = [] →
    (s.mod.port p).retryBuf.length < 16 * s.mod.fld (FB_PORT_ALLOT p) FB_PORT_ALLOT_RETRY_KIB → granted s.mod p = none →
    exec (.flitSlotGrant p) s = .next { s with mod := { s.mod with
      out := .flit p (Machine.controlFlit s.mod p false) :: s.mod.out } }) ∧
  (∀ (p : Fin 64) (x : OutFlit) (s : State), s.mod.portOpen p = true → s.mod.reqs = [] → s.mod.trust.image.floors = [] →
    (s.mod.port p).retryBuf.length < 16 * s.mod.fld (FB_PORT_ALLOT p) FB_PORT_ALLOT_RETRY_KIB →
    granted s.mod p = some x → x.cell = none →
    Claims.After (.flitSlotGrant p) s fun u =>
      u.out = .flit p (reseal x.flit (s.mod.port p).txSeq false) :: s.mod.out ∧
      (u.port p).retryBuf = (s.mod.port p).retryBuf ++ [⟨(s.mod.port p).txSeq, reseal x.flit (s.mod.port p).txSeq false⟩] ∧
      (u.port p).txSeq = ((s.mod.port p).txSeq + 1) % 2 ^ 24 ∧ (u.port p).outq = eraseFlit x (s.mod.port p).outq ∧
      u.mem = s.mod.mem)

/-- Discovery (R304–R310, R313): stage 1 is answered with a proof, stage 2 with the verdict, and two verdicts of 0
let in the neighbour; an attempt that times out starts anew, at most three in all, and then waits for its timer; a port
absent is marked and trained again. The certificates are free (log 18). -/
def Obligations.DiscoveryStages : Prop :=
  (∀ (p : Fin 64) (msg : DiscoverMsg) (c g : Bool) (s : State), s.mod.linkState p = lkQuarantined →
    discKind (s.mod.planKind p) = true → (s.mod.port p).stage ≠ 0 → msg.stage = 1 →
    Claims.After (.discover p msg c g) s fun u => (u.port p).peer = some msg.moduleId ∧ (u.port p).peerStage = 1 ∧
      (u.port p).stage = max (s.mod.port p).stage 2 ∧ (u.port p).peerCert = (certDigests msg.chain).headD 0 ∧
      (u.port p).verdictOut = (if c ∧ (certDigests msg.chain).any s.mod.trust.image.deny.contains = false ∧
        msg.nonce.take 48 ≠ leBytes 48 (s.mod.port p).nonce.toNat then 0 else 1) ∧
      u.linkState p = lkQuarantined ∧ u.mem = s.mod.mem) ∧
  (∀ (p : Fin 64) (msg : DiscoverMsg) (c g : Bool) (s : State), s.mod.linkState p = lkQuarantined →
    discKind (s.mod.planKind p) = true → (s.mod.port p).stage ≠ 0 → msg.stage = 2 → (s.mod.port p).peerStage = 1 →
    (s.mod.port p).verdictIn = none →
    Claims.After (.discover p msg c g) s fun u => (u.port p).stage = 3 ∧ (u.port p).peerStage = 2 ∧
      (u.port p).verdictOut = verdict s.mod p (g && decide ((s.mod.port p).verdictOut = 0)) msg.moduleId.toNat
        (s.mod.port p).peerKind (s.mod.port p).peerCert ∧
      u.linkState p = lkQuarantined ∧ u.mem = s.mod.mem) ∧
  (∀ (p : Fin 64) (msg : DiscoverMsg) (c g : Bool) (id : BitVec 14) (s : State), s.mod.linkState p = lkQuarantined →
    discKind (s.mod.planKind p) = true → (s.mod.port p).stage = 3 → msg.stage = 3 → (s.mod.port p).peerStage = 2 →
    (s.mod.port p).peer = some id → (s.mod.port p).verdictOut = 0 → msg.verdict = 0 →
    Claims.After (.discover p msg c g) s fun u => u.linkState p = lkUp ∧ u.mem = s.mod.mem) ∧
  (∀ (p : Fin 64) (msg : DiscoverMsg) (c g : Bool) (id : BitVec 14) (s : State), s.mod.linkState p = lkQuarantined →
    discKind (s.mod.planKind p) = true → (s.mod.port p).stage = 3 → msg.stage = 3 → (s.mod.port p).peerStage = 2 →
    (s.mod.port p).peer = some id → (s.mod.port p).verdictOut ≠ 0 ∨ msg.verdict ≠ 0 →
    Claims.After (.discover p msg c g) s fun u => u.linkState p = lkQuarantined ∧ u.mem = s.mod.mem) ∧
  (∀ (p : Fin 64) (st : BitVec 2) (x : Packet) (s : State), st ≠ 0 → (s.mod.iodie (p.val / 8)).inbox = [x] →
    x.hdr.op = 0xC0 →
    Claims.After (.discoverReply p st) s fun u => (u.iodie (p.val / 8)).inbox = [] ∧ u.ports = s.mod.ports ∧
      u.mem = s.mod.mem ∧ u.regs = s.mod.regs) ∧
  (∀ (p : Fin 64) (s : State), undecided s.mod p = true → (s.mod.port p).attempts < 2 →
    Claims.After (.discoveryTimeout p) s fun u => (u.port p).attempts = (s.mod.port p).attempts + 1 ∧
      (u.port p).stage = 1 ∧ (u.port p).nonce = Config.nonce s.mod.freeCount ∧ u.mem = s.mod.mem) ∧
  (∀ (p : Fin 64) (s : State), undecided s.mod p = true → (s.mod.port p).attempts = 2 →
    (s.mod.queue (qDie mgmtDie)).recs.length < queueCap (qDie mgmtDie) →
    Claims.After (.discoveryTimeout p) s fun u => (u.port p).attempts = 3 ∧ (u.port p).stage = 0 ∧
      Claims.Recorded s.mod (qDie mgmtDie) 0x0901 clsLasting u ∧ u.mem = s.mod.mem) ∧
  (∀ (p : Fin 64) (s : State), undecided s.mod p = true → 3 ≤ (s.mod.port p).attempts →
    Claims.After (.discoveryRetryTimer p) s fun u => (u.port p).attempts = 0 ∧ (u.port p).stage = 1 ∧ u.mem = s.mod.mem) ∧
  (∀ (p : Fin 64) (s : State), s.mod.fabric.started = true → absentKind (s.mod.planKind p) = true →
    s.mod.portUp p = false → (s.mod.port p).absent = false →
    (s.mod.queue (qDie mgmtDie)).recs.length < queueCap (qDie mgmtDie) →
    Claims.After (.portAbsent p) s fun u => u.port p = { s.mod.port p with absent := true } ∧
      Claims.Recorded s.mod (qDie mgmtDie) 0x0902 clsLasting u ∧ u.mem = s.mod.mem) ∧
  (∀ (p : Fin 64) (s : State), (s.mod.port p).absent = true → s.mod.linkState p = lkDown →
    s.mod.dieRuns (ioDie (p.val / 8)) = true → fabricHeld s.mod = false →
    Claims.After (.absentRetrain p) s fun u => u.linkState p = lkTraining ∧ u.ports = s.mod.ports ∧ u.mem = s.mod.mem)

/-- Notices, withdrawal and chambers (R294, R311, R314, R315, R318, R327): a newer notice replaces its member's passages
and one that has expired forgets them; every period a notice goes out; a neighbour's withdrawal makes its port
withdrawing; a reply counts, and the end of the drain withdraws the module; DISC_MS decides a Held chamber. -/
def Obligations.NoticesAndWithdrawal : Prop :=
  (∀ (p : Fin 64) (id : BitVec 14) (n : BitVec 32) (reach : BitVec 289) (d : BitVec 8) (tag : BitVec 32) (s : State),
    s.mod.portUp p = true → (s.mod.port p).peer = some id →
    ((s.mod.fabric.serials.get? id.toNat).all fun last => decide (last < n.toNat)) = true →
    Claims.After (.routeNotice p id n reach d tag) s fun u => u.fabric.reach.get? (slotOf id.toNat) = some reach ∧
      u.fabric.serials.get? id.toNat = some n.toNat ∧ u.fabric.lastNotice.get? (slotOf id.toNat) = some s.mod.now.toNat ∧
      (u.port p).peerDist = d.toNat ∧ u.mem = s.mod.mem) ∧
  (∀ (p : Fin 64) (id : BitVec 14) (n : BitVec 32) (reach : BitVec 289) (d : BitVec 8) (tag : BitVec 32) (last : Nat)
    (s : State), s.mod.portUp p = true → (s.mod.port p).peer = some id → s.mod.fabric.serials.get? id.toNat = some last →
    n.toNat ≤ last →
    Claims.After (.routeNotice p id n reach d tag) s fun u => u.fabric = s.mod.fabric ∧ u.mem = s.mod.mem ∧
      Claims.SentVc3 s.mod p (Claims.replyHeader s.mod 0xC3 id.toNat tag 0 0 0) [] u) ∧
  (∀ (p : Fin 64) (x : Packet) (s : State), (s.mod.iodie (p.val / 8)).inbox = [x] → x.hdr.op = 0xC3 →
    Claims.After (.routeNoticeReply p) s fun u => (u.iodie (p.val / 8)).inbox = [] ∧ u.fabric = s.mod.fabric ∧
      u.mem = s.mod.mem) ∧
  (∀ s : State, s.mod.fabric.started = true →
    Claims.After .routeNoticeTimer s fun u => u.fabric.serial = s.mod.fabric.serial + 1 ∧
      u.fabric.gallery = s.mod.fabric.gallery ∧ u.mem = s.mod.mem ∧
      ∀ p ∈ noticePorts s.mod, ∃ h : Header, h.op = 0x83 ∧ h.net = false ∧ h.vc = 3 ∧
        Claims.SentVc3 s.mod p h (noticeData s.mod (s.mod.fabric.serial.toNat + 1)) u) ∧
  (∀ (slot : Fin 24) (t : Nat) (s : State), s.mod.fabric.lastNotice.get? slot = some t →
    t + 300000000 < s.mod.now.toNat → (s.mod.fabric.reach.get? slot).isSome = true →
    Claims.After (.passageExpiry slot) s fun u => u.fabric.reach.get? slot = none ∧ u.mem = s.mod.mem) ∧
  (∀ (p : Fin 64) (id : BitVec 14) (r : BitVec 2) (at_ : Word) (tag : BitVec 32) (s : State), s.mod.portOpen p = true →
    s.mod.linkState p ≠ lkWithdrawing →
    Claims.After (.withdraw p id r at_ tag) s fun u => u.linkState p = lkWithdrawing ∧ (u.port p).stage = 0 ∧
      (u.port p).absent = ((s.mod.port p).absent || decide (s.mod.linkState p = lkQuarantined)) ∧ u.mem = s.mod.mem) ∧
  (∀ (p : Fin 64) (s : State), s.mod.fabric.withdrawing = true → s.mod.fabric.replies.contains p.val = false →
    Claims.After (.withdrawReply p) s fun u => u.fabric = { s.mod.fabric with
      replies := s.mod.fabric.replies ++ [p.val] } ∧ u.ports = s.mod.ports ∧ u.mem = s.mod.mem) ∧
  (∀ s : State, s.mod.fabric.withdrawing = true → s.mod.rst.warmPending = false →
    Claims.After .withdrawDrainEnd s fun u => u.fabric.withdrawn = true ∧ u.fabric.withdrawing = false ∧
      (∀ p < 64, discKind (s.mod.planKind p) = true → u.portOpen p = false) ∧ u.mem = s.mod.mem) ∧
  (∀ (k : Fin 8) (s : State), s.mod.fabric.started = true → (s.mod.chamber k).valid = true →
    (s.mod.chamber k).clearing = false → (s.mod.chamber k).st = chHeld → s.mod.trust.maint = false →
    Claims.After (.chamberStartDecision k) s fun u => u.fabric.discPassed = true ∧ u.mem = s.mod.mem ∧
      let n := ((memberIds s.mod k).filter (reachable s.mod)).length
      (u.chamber k).st = if n = (memberIds s.mod k).length then chReady
        else if (s.mod.chamber k).startPolicy = true ∧ (s.mod.chamber k).minMembers ≤ n then chDegraded else chRefused)

/-- Hall time and straps (R298, R299, R323–R326): the source is locked at distance 0; an exchange is answered; a reply
of the upstream yields offset and delay, to which the module slews; a PPS edge disciplines the source and its loss
lets it run freely; the straps name the module. The count of the edges of TIME_PPS is a reading (log 25), and so is
the layout of a time reply (log 44). -/
def Obligations.HallTimeAndStraps : Prop :=
  (∀ s : State, isSource s.mod = true →
    Claims.After .timeExchangeTimer s fun u => u.flag TM_STATUS TM_STATUS_LOCKED = true ∧
      u.flag TM_STATUS TM_STATUS_SOURCE = true ∧ u.fld TM_STATUS TM_STATUS_DIST = 0 ∧ u.ports = s.mod.ports ∧
      u.now = s.mod.now ∧ u.mem = s.mod.mem) ∧
  (∀ (p : Fin 64) (t1 t2 : Word) (tag : BitVec 32) (id : BitVec 14) (s : State), s.mod.portOpen p = true →
    (s.mod.port p).peer = some id →
    Claims.After (.timeExchange p t1 t2 tag) s fun u => u.mem = s.mod.mem ∧ u.regs = s.mod.regs ∧
      Claims.SentVc3 s.mod p (Claims.replyHeader s.mod 0xC1 id.toNat tag 0 0 32)
        (leBytes 8 t1.toNat ++ leBytes 8 t2.toNat ++ leBytes 8 s.mod.now.toNat ++
          leBytes 8 (timeDist s.mod + s.mod.fabric.sourceId.toNat * 2 ^ 8 + s.mod.fld TM_STATUS TM_STATUS_LOCKED * 2 ^ 22)) u) ∧
  (∀ (p : Fin 64) (t1 t2 t3 t4 : Word) (d : BitVec 8) (src : BitVec 14) (l : Bool) (s : State), s.mod.portOpen p = true →
    s.mod.flag TM_STATUS TM_STATUS_UP_VALID = true → s.mod.fld TM_STATUS TM_STATUS_UP_PORT = p.val →
    isSource s.mod = false → s.mod.fabric.opened = true → isUp s.mod p = true → l = true →
    let r := exchange t1 t2 t3 t4 (toSigned 16 (s.mod.fld (TM_ASYM p) ⟨0, 16⟩))
    Claims.After (.timeExchangeReply p t1 t2 t3 t4 d src l) s fun u =>
      u.fld TM_EXCHANGE TM_EXCHANGE_OFFSET = ofSigned 32 r.1 ∧ u.fld TM_EXCHANGE TM_EXCHANGE_DELAY = ofSigned 32 r.2 ∧
      u.fabric.slew = r.1 ∧ u.fabric.sourceId = src ∧ (u.port p).peerDist = d.toNat ∧ u.now = s.mod.now ∧
      u.mem = s.mod.mem) ∧
  (∀ (st : Word) (s : State), s.mod.flag (CP_INPUT 2) CP_INPUT_MASKED = false → s.mod.flag TM_CFG TM_CFG_PPS_EN = true →
    isSource s.mod = true →
    Claims.After (.ppsEdge st) s fun u => u.flag TM_STATUS TM_STATUS_PPS_OK = true ∧ u.fabric.freeRun = false ∧
      u.fabric.slew = (if st.toNat % 1000000000 < 500000000 then -((st.toNat % 1000000000 : Nat) : Int)
        else ((1000000000 - st.toNat % 1000000000 : Nat) : Int)) ∧ u.mem = s.mod.mem) ∧
  (∀ s : State, s.mod.flag TM_CFG TM_CFG_PPS_EN = true → s.mod.fabric.freeRun = false → isSource s.mod = true →
    (s.mod.queue (qDie mgmtDie)).recs.length < queueCap (qDie mgmtDie) →
    Claims.After .ppsLoss s fun u => u.flag TM_STATUS TM_STATUS_PPS_OK = false ∧ u.fabric.freeRun = true ∧
      u.fabric.slew = 0 ∧ Claims.Recorded s.mod (qDie mgmtDie) 0x0D05 clsLasting u ∧ u.mem = s.mod.mem) ∧
  (∀ (v : Straps) (s : State), s.mod.flag MOD_POSITION MOD_POSITION_STRAPS_VALID = false → s.mod.rst.powerGood = true →
    Claims.After (.strapSample v) s fun u => u.selfId = 32 * v.gallery.toNat + v.slot.toNat ∧
      u.fld MOD_POSITION MOD_POSITION_BOOT_MODE = v.bootMode.toNat ∧
      u.flag MOD_POSITION MOD_POSITION_STRAPS_VALID = true ∧ u.mem = s.mod.mem) ∧
  (∀ s : State, s.mod.flag MOD_POSITION MOD_POSITION_STRAPS_VALID = false → s.mod.rst.powerGood = true →
    (s.mod.queue (qDie mgmtDie)).recs.length < queueCap (qDie mgmtDie) →
    Claims.After .strapTimeout s fun u => Claims.Recorded s.mod (qDie mgmtDie) 0x0905 clsLasting u ∧
      u.ports = s.mod.ports ∧ u.mem = s.mod.mem)

namespace Sys2Proof.Claims

/-- The access that a request makes at its home (R333). -/
def requestAccess (m : Mod) (i k : Nat) (pk : Packet) (w : Win) : Access :=
  { org := .fabric i pk.hdr, kind := requestKind pk w, addr := wBase w + faOffset pk.hdr.addr
    size := if pk.hdr.op = 7 then 0 else (touched pk).1, hint := 0, chamber := k
    cnt := if oCen pk.hdr ∧ (pk.hdr.op = 4 ∨ (pk.hdr.op = 3 ∧ oArray pk.hdr)) then some (wCntBase w + oDcnt pk.hdr) else none
    stat := true, tag := pk.hdr.tag, pc := 0, word := 0, stamp := stampTime m pk.hdr.stamp, rd := 0, run := 0 }

/-- A request for this module that passes every check of R333 and is served at once by its home in a stack. -/
abbrev GoodRequest (m : Mod) (i : Nat) (pk : Packet) (op k : Nat) (w : Win) (st off : Nat) : Prop :=
  pk.data.length ≤ 4096 ∧ pk.hdr.op.toNat = op ∧ pk.hdr.dst.toNat = m.selfId ∧ pk.hdr.net = false ∧
  m.dieRuns (ioDie i) = true ∧ tooOld m pk.hdr = false ∧ refuseRow m pk = (none, k, w) ∧ isMark pk.hdr = false ∧
  targetDown m (wBase w + faOffset pk.hdr.addr) = false ∧ oCen pk.hdr = false ∧
  (m.waiting.any fun b => mustFollow b (requestAccess m i k pk w)) = false ∧
  ServedAtOnce m (requestAccess m i k pk w) st off

/-- A request command whose effect at the home is `f` on the memory, and whose reply carries `bs` with OK. -/
def Request (c : Fin 8 → Packet → Ecc → Instr) (op : Nat) (ok : Packet → Win → Prop)
    (f : Packet → Nat → List Host.Cell → List Host.Cell) (bs : Packet → Nat → List Host.Cell → List Byte) : Prop :=
  ∀ (i : Fin 8) (pk : Packet) (k : Nat) (w : Win) (st off : Nat) (s : State), GoodRequest s.mod i pk op k w st off →
    ok pk w → ∃ m : Mod, m.mem = f pk (wBase w + faOffset pk.hdr.addr) s.mod.mem ∧ m.thalli = s.mod.thalli ∧
      m.counters = s.mod.counters ∧
      exec (c i pk .good) s = .next { s with mod :=
        (sendReply i pk.hdr (op + 0x40) stOk (bs pk (wBase w + faOffset pk.hdr.addr) s.mod.mem)).run m }

end Sys2Proof.Claims

/-- Requests at their destination (R333, R337, R343): a load and the copy and block reads return the bytes of memory and
change none; a store and a copy write place their data and nothing else; an atomic replaces its element by the operation's
result and returns the old one; an aggregated record replaces the bytes of its mask. The reply goes to the sender, but
that a module which withdraws sends none (log 84). -/
def Obligations.RequestsAtTheirDestination : Prop :=
  Claims.Request .load 1 (fun _ _ => True) (fun _ _ m => m) (fun pk a m => memRead m a (bitsOf pk.hdr.opinfo 0 4)) ∧
  Claims.Request .store 2 (fun _ _ => True) (fun pk a m => memWrite m a pk.data) (fun _ _ _ => []) ∧
  Claims.Request .atomic 3 (fun pk _ => oArray pk.hdr = false)
    (fun pk a m =>
      let n := atypeBytes (oAtype pk.hdr)
      memWrite m a (leBytes n (amoNew (oAop pk.hdr) (oAtype pk.hdr) (leNat (memRead m a n))
        ((wordAt pk.data 0).toNat % 2 ^ (8 * n)) ((wordAt pk.data 8).toNat % 2 ^ (8 * n)))))
    (fun pk a m => leBytes (atypeBytes (oAtype pk.hdr)) (leNat (memRead m a (atypeBytes (oAtype pk.hdr))))) ∧
  Claims.Request .copyWrite 4 (fun _ _ => True) (fun pk a m => memWrite m a pk.data) (fun _ _ _ => []) ∧
  Claims.Request .copyRead 5 (fun _ _ => True) (fun _ _ m => m) (fun pk a m => memRead m a (bitsOf pk.hdr.opinfo 0 13)) ∧
  Claims.Request .blockFetch 6 (fun _ _ => True) (fun _ _ m => m) (fun _ a m => memRead m a 256) ∧
  Claims.Request .aggStore 7 (fun pk w => pk.data.length = 16 ∧ 8 ≤ wSize w ∧ bitsOf (wordAt pk.data 0) 40 8 = 0xFF ∧
      bitsOf (wordAt pk.data 0) 0 38 = 0)
    (fun pk a m => memWrite m a (leBytes 8 (wordAt pk.data 8).toNat)) (fun _ _ _ => leBytes 32 0)

/-- A request that R333 refuses is answered with DENIED, changes no memory, and is counted. The layout of the record
is a reading (log 46), and no statement names it. -/
def Obligations.RefusedRequestsAreDenied : Prop :=
  ∀ (i : Fin 8) (pk : Packet) (e : Ecc) (row k : Nat) (w : Win) (s : State), pk.data.length ≤ 4096 → pk.hdr.op.toNat = 2 →
    pk.hdr.dst.toNat = s.mod.selfId → pk.hdr.net = false → s.mod.dieRuns (ioDie i) = true → tooOld s.mod pk.hdr = false →
    refuseRow s.mod pk = (some row, k, w) →
    ∃ m : Mod, m.mem = s.mod.mem ∧ m.fld RM_STAT RM_STAT_DENIED_IN = min (2 ^ RM_STAT_DENIED_IN.w - 1)
        (s.mod.fld RM_STAT RM_STAT_DENIED_IN + 1) ∧
      exec (.store i pk e) s = .next { s with mod := (sendReply i pk.hdr 0x42 stDenied []).run m }

/-- A packet with more data than R262 lets one hold cannot be sent: the commands that carry one fault on it, whatever
the state. The fault is the model's (log 6). -/
def Obligations.OversizePacketsFault : Prop :=
  ∀ (i : Fin 8) (pk : Packet) (e : Ecc) (s : State), 4096 < pk.data.length →
    (∀ c : Fin 8 → Packet → Ecc → Instr,
      c ∈ [Instr.load, Instr.store, Instr.atomic, Instr.copyWrite, Instr.copyRead, Instr.blockFetch, Instr.aggStore] →
      exec (c i pk e) s = .fault .oversizePacket) ∧
    exec (.remoteReply pk) s = .fault .oversizePacket ∧ exec (.statusOnly pk) s = .fault .oversizePacket

/-- Answers at the sender (R112, R338, R339, R344): a reply and a STATUS_ONLY end the request they answer, whose thallus
then has its reply; a request past its time ends with TIMEOUT, for an atomic with UNKNOWN; a due buffer is sent. -/
def Obligations.AnswersAtTheSender : Prop :=
  (∀ (pk : Packet) (r : Req) (t : Nat) (c : Packet → Instr) (s : State),
    (c = Instr.remoteReply ∧ 0x41 ≤ pk.hdr.op.toNat ∧ pk.hdr.op.toNat ≤ 0x47) ∨
      (c = Instr.statusOnly ∧ pk.hdr.op = 0x4F) →
    pk.data.length ≤ 4096 → pk.hdr.net = true → pk.hdr.src.toNat = s.mod.selfId → s.mod.reqs = [r] → r.tag = pk.hdr.tag →
    r.sent = true → r.org = .thallus t → r.hdr.op = 1 →
    ((s.mod.thallus t).waitRd.any fun x => x.2 = r.tag) = true →
    Claims.After (c pk) s fun u => u.reqs = [] ∧ u.mem = s.mod.mem ∧ u.thalli = s.mod.thalli ∧
      u.replies = s.mod.replies ++ [⟨t, r.tag, r.rd, pk.hdr.status.toNat,
        if pk.hdr.status.toNat = stOk then BitVec.ofNat 64 (leNat pk.data) else 0, r.hdr.addr, r.stat, r.pc, r.word⟩]) ∧
  (∀ (tag : BitVec 32) (r : Req) (t : Nat) (s : State), s.mod.reqs = [r] → r.tag = tag → r.sent = true →
    r.org = .thallus t → r.hdr.op ≠ 2 → r.stamp.toNat + 1000 * s.mod.fld RM_CFG RM_CFG_TIMEOUT_US ≤ s.mod.now.toNat →
    ((s.mod.thallus t).waitRd.any fun x => x.2 = r.tag) = true →
    Claims.After (.requestTimeout tag) s fun u => u.reqs = [] ∧ u.mem = s.mod.mem ∧
      u.replies = s.mod.replies ++ [⟨t, r.tag, r.rd, if r.hdr.op = 3 then stUnknown else stTimeout, 0, r.hdr.addr, r.stat,
        r.pc, r.word⟩] ∧
      u.fld RM_STAT RM_STAT_TIMEOUTS = min (2 ^ RM_STAT_TIMEOUTS.w - 1) (s.mod.fld RM_STAT RM_STAT_TIMEOUTS + 1)) ∧
  (∀ (i : Fin 8) (n : Nat) (b : AggBuf) (s : State), (s.mod.iodie i).bufs[n]? = some b → bufferDue s.mod b = true →
    b.tag = none → s.mod.dieRuns (ioDie i) = true →
    Claims.After (.aggBufferSend i n) s fun u =>
      (((u.iodie i).bufs[n]?).map fun x => (x.tag, x.recs)) = some (some (gatewayTag s.mod i), b.recs) ∧
      u.fld (RM_GW_STAT i) RM_GW_STAT_AGG_SENT =
        (s.mod.fld (RM_GW_STAT i) RM_GW_STAT_AGG_SENT + 1) % 2 ^ RM_GW_STAT_AGG_SENT.w ∧ u.mem = s.mod.mem)

namespace Sys2Proof.Claims

/-- A descriptor alone in its thallus's queue, whose segment `j` is next, on a die that runs. -/
abbrev NextSegment (m : Mod) (t : Nat) (seq : BitVec 64) (op : Nat) (x : Xfer) (j : Nat) : Prop :=
  m.dieRuns (dieOf t) = true ∧ (m.thallus t).queue = [x] ∧ x.seq = seq.toNat ∧ dOp x.desc = op ∧
  x.segs.findIdx? (fun s => s = .idle) = some j

/-- `n` bytes from a place in a tile store that is awake, on a die that runs, within one 4 KiB piece. -/
abbrev TileRange (m : Mod) (a n : Nat) : Prop :=
  let t := (a - tileBase) / 0x200000
  locate a = .tile t ((a - tileBase) % 0x200000) ∧ n ≤ roomAt a ∧ m.dieRuns (dieOf t) = true ∧
  asleep m (gsorusOf t) = false

/-- The access that segment `j` of a descriptor sends to a home of this module. -/
def segmentAccess (m : Mod) (t j : Nat) (x : Xfer) (part : XPart) (kind : AKind) (addr size hint : Nat)
    (cnt : Option Nat) : Access :=
  { org := .xfer t x.seq j part, kind := kind, addr := addr, size := size, hint := hint, chamber := chamberOf m t
    cnt := cnt, stat := true, tag := 0, pc := 0, word := 0, stamp := m.now, rd := 0, run := (m.thallus t).starts }

/-- Segment `j` of a descriptor has sent one access, and waits for its end. -/
def SegmentSent (m : Mod) (t j : Nat) (x : Xfer) (a : Access) (u : Mod) : Prop :=
  u.flight = m.flight ++ [a] ∧ (u.thallus t).queue = [{ x with segs := x.segs.set j (.waiting 1 false stOk) }] ∧
  u.mem = m.mem ∧ u.counters = m.counters ∧ u.reqs = m.reqs ∧ (u.thallus t).sregs = (m.thallus t).sregs

/-- The one access in flight, of a descriptor alone in its thallus's queue whose segment `j` waits for it. -/
abbrev SegmentAccess (m : Mod) (t j : Nat) (x : Xfer) (part : XPart) (a : Access) : Prop :=
  m.dieRuns (dieOf t) = true ∧ (m.thallus t).queue = [x] ∧ x.segs[j]? = some (.waiting 1 false stOk) ∧ m.flight = [a] ∧
  a.org = .xfer t x.seq j part ∧ a.run = (m.thallus t).starts ∧ crossingDown m a = false ∧ a.cnt = none

/-- Segment `j` of a descriptor is done with `n` bytes delivered, its queue entry else as it was. -/
def SegmentDone (m : Mod) (t : Nat) (x : Xfer) (j n : Nat) (u : Mod) : Prop :=
  (u.thallus t).queue = [{ x with delivered := x.delivered + n, segs := x.segs.set j .ok }] ∧
  (u.thallus t).sregs = (m.thallus t).sregs ∧ u.reqs = m.reqs ∧ u.flight = []

/-- A read of a stack that is answered at once with the bytes of memory. -/
abbrev StackRead (m : Mod) (ch : Option Nat) (st a n : Nat) : Prop :=
  locate a = .stack st (a % 2 ^ 36) ∧ n ≤ roomAt a ∧ stackStatus m st (a % 2 ^ 36) n ch false = stOk

end Sys2Proof.Claims

/-- Descriptors (R347–R358, R163, R134–R139): a segment sends its reads and its copies to their homes, or a COPY_READ to
another module; a fanout reads its table entry, and then copies to the destination it names; a copy that has reached its
home moves its bytes and nothing else and ends its segment; an array atomic reads its operands, and applies them; a queue
send takes its slot, and is counted once the slot is written; a block is unpacked as the stream has it; a descriptor whose
segments have ended leaves the queue with its record written. The order of a descriptor's checks is a reading (log 40), and
so is the place of the scales (log 89). -/
def Obligations.DescriptorSegments : Prop :=
  (∀ (t : Fin 1200) (seq : BitVec 64) (e : Ecc) (x : Xfer) (j : Nat) (s : State), Claims.NextSegment s.mod t seq opCopy x j →
    let r := segRange x.desc j
    let src := dSrc x.desc + BitVec.ofNat 64 r.1
    let dst := dDst x.desc + BitVec.ofNat 64 r.1
    0 < r.2 → bitOf src 63 = false → (if bitOf dst 63 then faOffset dst else dst.toNat) % 4096 + r.2 ≤ 4096 →
    Claims.After (.descCopy t seq e) s (Claims.SegmentSent s.mod t j x (if bitOf dst 63
      then Claims.segmentAccess s.mod t j x (.source 0) .read src.toNat r.2 (dHint x.desc) none
      else Claims.segmentAccess s.mod t j x .move (.copy dst.toNat 0 []) src.toNat r.2 (dHint x.desc)
        (segBytesCnt x j)))) ∧
  (∀ (t : Fin 1200) (seq : BitVec 64) (e : Ecc) (x : Xfer) (j : Nat) (s : State), Claims.NextSegment s.mod t seq opCopy x j →
    let r := segRange x.desc j
    let src := dSrc x.desc + BitVec.ofNat 64 r.1
    let dst := dDst x.desc + BitVec.ofNat 64 r.1
    0 < r.2 → bitOf src 63 = true → bitOf dst 63 = false → dst.toNat % 4096 + r.2 ≤ 4096 → s.mod.reqs = [] →
    Claims.After (.descCopy t seq e) s fun u => u.mem = s.mod.mem ∧ u.flight = s.mod.flight ∧ ∃ q : Req, u.reqs = [q] ∧
      q.org = .xfer t x.seq j .move ∧ q.hdr.op = 5 ∧ q.hdr.addr = src ∧ q.hdr.opinfo = BitVec.ofNat 32 r.2 ∧
      q.hdr.dst = BitVec.ofNat 14 (faModule src)) ∧
  (∀ (t : Fin 1200) (seq : BitVec 64) (e : Ecc) (x : Xfer) (j : Nat) (s : State), Claims.NextSegment s.mod t seq opFanout x j →
    (x.segs.filter segInFlight).length < 8 →
    Claims.After (.descFanout t seq e) s (Claims.SegmentSent s.mod t j x
      (Claims.segmentAccess s.mod t j x .entry .read ((dAux x.desc).toNat + 16 * j) 16 0 none))) ∧
  (∀ (t : Fin 1200) (x : Xfer) (j : Nat) (a : Access) (s : State), Claims.SegmentAccess s.mod t j x .entry a →
    let entry := memRead s.mod.mem a.addr 16
    let dst := wordAt entry 0
    let c := (wordAt entry 8).toNat
    let y := { x with dests := x.dests.put j (dst, c.testBit 12, c % 4096) }
    dOp x.desc = opFanout → a.kind = .read → a.size = 16 → Claims.TileRange s.mod a.addr 16 →
    destOk s.mod t dst (dLen x.desc) (c.testBit 12) (c % 4096) = true → 0 < dLen x.desc → bitOf (dSrc x.desc) 63 = false →
    bitOf dst 63 = false → dst.toNat % 4096 + dLen x.desc ≤ 4096 →
    Claims.After (.homeAccess 0 .good) s fun u => u.mem = s.mod.mem ∧ u.flight =
      [Claims.segmentAccess s.mod t j x .move (.copy dst.toNat 0 []) (dSrc x.desc).toNat (dLen x.desc) (dHint x.desc)
        (segBytesCnt y j)] ∧ (u.thallus t).queue = [y]) ∧
  (∀ (t : Fin 1200) (x : Xfer) (j dst : Nat) (a : Access) (s : State), Claims.SegmentAccess s.mod t j x .move a →
    dOp x.desc = opCopy ∨ dOp x.desc = opFanout → (segCounter x j).1 = false → a.kind = .copy dst 0 [] → 0 < a.size →
    dst % 128 + a.size ≤ 128 → Claims.TileRange s.mod a.addr a.size → Claims.TileRange s.mod dst a.size →
    Claims.After (.homeAccess 0 .good) s fun u => u.mem = memWrite s.mod.mem dst (memRead s.mod.mem a.addr a.size) ∧
      u.counters = s.mod.counters ∧ Claims.SegmentDone s.mod t x j a.size u) ∧
  (∀ (t : Fin 1200) (seq : BitVec 64) (e : Ecc) (x : Xfer) (j : Nat) (s : State), Claims.NextSegment s.mod t seq opArray x j →
    let r := segRange x.desc j
    let src := dSrc x.desc + BitVec.ofNat 64 r.1
    let dst := dDst x.desc + BitVec.ofNat 64 r.1
    0 < r.2 → bitOf src 63 = false → (if bitOf dst 63 then faOffset dst else dst.toNat) % 4096 + r.2 ≤ 4096 →
    Claims.After (.descAmoArray t seq e) s (Claims.SegmentSent s.mod t j x
      (Claims.segmentAccess s.mod t j x (.source 0) .read src.toNat r.2 (dHint x.desc) none))) ∧
  (∀ (t : Fin 1200) (x : Xfer) (j off : Nat) (a : Access) (s : State), Claims.SegmentAccess s.mod t j x (.source off) a →
    let dst := dDst x.desc + BitVec.ofNat 64 (segRange x.desc j).1
    dOp x.desc = opArray → bitOf dst 63 = false → a.kind = .read → Claims.TileRange s.mod a.addr a.size →
    Claims.After (.homeAccess 0 .good) s fun u => u.mem = s.mod.mem ∧ (u.thallus t).queue = [x] ∧ u.flight =
      [Claims.segmentAccess s.mod t j x .move (.amoArray (dAop x.desc) (dAtype x.desc) (memRead s.mod.mem a.addr a.size)
        none) (dst.toNat + off) a.size (dHint x.desc) (segBytesCnt x j)]) ∧
  (∀ (t : Fin 1200) (x : Xfer) (j : Nat) (v : List Byte) (a : Access) (s : State),
    Claims.SegmentAccess s.mod t j x .move a →
    let n := atypeBytes (dAtype x.desc)
    dOp x.desc = opArray → dCen x.desc = false → a.kind = .amoArray (dAop x.desc) (dAtype x.desc) v none →
    v.length = n → a.size = n → Claims.TileRange s.mod a.addr n →
    Claims.After (.homeAccess 0 .good) s fun u =>
      u.mem = memWrite s.mod.mem a.addr (leBytes n (amoNew (dAop x.desc) (dAtype x.desc)
        (leNat (memRead s.mod.mem a.addr n)) (leNat v % 2 ^ (8 * n)) 0)) ∧
      u.counters = s.mod.counters ∧ Claims.SegmentDone s.mod t x j n u) ∧
  (∀ (t : Fin 1200) (seq : BitVec 64) (e : Ecc) (x : Xfer) (j key : Nat) (l : Launch) (q : StageQueue) (s : State),
    Claims.NextSegment s.mod t seq opQsend x j → (s.mod.thallus t).launch = some key → homeOf s.mod key = key →
    s.mod.launch? key = some l → l.sqs[dQidx x.desc]? = some q → q.closed = false → q.unmatched ≤ q.nslot →
    pathDown s.mod q = false →
    Claims.After (.descQsend t seq e) s fun u => Claims.SegmentSent s.mod t j x (Claims.segmentAccess s.mod t j x .move
        (.copy (tileAddr q.cons (q.slotOff + q.sent % (q.nslot + 1) * q.slotBytes)) 0 []) (dSrc x.desc).toNat
        (dLen x.desc) (dHint x.desc) none) u ∧
      (u.launch? key).bind (·.sqs[dQidx x.desc]?) = some { q with sent := q.sent + 1, unmatched := q.unmatched + 1 }) ∧
  (∀ (t : Fin 1200) (x : Xfer) (j key dst : Nat) (q : StageQueue) (a : Access) (s : State),
    Claims.SegmentAccess s.mod t j x .move a → dOp x.desc = opQsend → (s.mod.thallus t).launch = some key →
    queueAt s.mod t (dQidx x.desc) = some q → q.closed = false → counterRefused s.mod (some q.dcnt) = false →
    (s.mod.counter q.dcnt).toNat < counterMax → a.kind = .copy dst 0 [] → 0 < a.size → dst % 128 + a.size ≤ 128 →
    Claims.TileRange s.mod a.addr a.size → Claims.TileRange s.mod dst a.size →
    Claims.After (.homeAccess 0 .good) s fun u => u.mem = memWrite s.mod.mem dst (memRead s.mod.mem a.addr a.size) ∧
      u.counter q.dcnt = s.mod.counter q.dcnt + 1 ∧ Claims.SegmentDone s.mod t x j a.size u) ∧
  (∀ (t : Fin 1200) (seq : BitVec 64) (x : Xfer) (j i st : Nat) (o : List Byte × List Byte × List Byte) (s : State),
    s.mod.dieRuns (dieOf t) = true → (s.mod.thallus t).queue = [x] → x.seq = seq.toNat →
    nextBlock s.mod t seq.toNat = some (x, j, i, false) → sleeper s.mod (dDst x.desc).toNat = none →
    blockMay s.mod t x i = true →
    let d := x.desc
    let r := segRange d j
    let z := outSizes d
    let ch := chOf (chamberOf s.mod t)
    let at_ := (dSrc d).toNat + blockPos x i
    let map := leNat (memRead s.mod.mem at_ (mapBytes d))
    let n := blockBytes (dForm d) (dEtype d) (dOform d) (popCount 1024 map)
    let scales := (dAux d).toNat + 32 * i
    mapBytes d = 0 ∨ Claims.StackRead s.mod ch st at_ (mapBytes d) →
    n = 0 ∨ Claims.StackRead s.mod ch st (at_ + mapBytes d) n →
    scaleBytes d = 0 ∨ Claims.StackRead s.mod ch st scales (scaleBytes d) →
    (s.mod.stk st).dropped = [] → (s.mod.stk st).unkept = false →
    dForm d = 1 ∨ (∀ l ∈ (s.mod.mdie (st / 8)).cache, l.dirty = 0) → blockPos x i + mapBytes d + n ≤ dSrcBytes d →
    unpackBlock d map (memRead s.mod.mem (at_ + mapBytes d) n) (memRead s.mod.mem scales (scaleBytes d)) = some o →
    let tiles := (dDst d).toNat + i * z.1
    let metas := if z.2.1 = 0 then (dDst d).toNat else dMdst d + i * z.2.1
    let outs := if z.2.2 = 0 then (dDst d).toNat else dSdst d + i * z.2.2
    Claims.TileRange s.mod tiles o.1.length → Claims.TileRange s.mod metas o.2.1.length →
    Claims.TileRange s.mod outs o.2.2.length →
    counterRefused s.mod (if dCen d then some (dDcnt d) else none) = false →
    Claims.After (.descUnpack t seq .good) s fun u =>
      u.mem = memWrite (memWrite (memWrite s.mod.mem tiles o.1) metas o.2.1) outs o.2.2 ∧
      (dCen d = false → u.counters = s.mod.counters) ∧
      (u.thallus t).queue = [{ x with
        slot := blockPos x i + mapBytes d + n
        delivered := x.delivered + (o.1.length + o.2.1.length + o.2.2.length)
        segs := x.segs.set j (if i + 1 < r.1 + r.2 then .part (i + 1 - r.1) stOk else .ok) }]) ∧
  (∀ (t : Fin 1200) (seq : BitVec 64) (x : Xfer) (s : State), s.mod.dieRuns (dieOf t) = true →
    (s.mod.thallus t).queue = [x] → x.seq = seq.toNat → (x.segs.all segEnded) = true → dScen x.desc = false →
    dCrec x.desc ≠ 0 → Claims.TileRange s.mod (dCrec x.desc) 32 →
    Claims.After (.transferComplete t seq .good) s fun u => (u.thallus t).queue = [] ∧
      u.mem = memWrite s.mod.mem (dCrec x.desc) (completion x s.mod.now) ∧ u.counters = s.mod.counters)

namespace Sys2Proof.Claims

/-- A frame of the lane management channel has gone out with the port's next serial (R382, R383). -/
def SentFrame (m : Mod) (p type l x cause : Nat) (u : Mod) : Prop :=
  u.out = .lmc p (mkFrame type l x cause (m.fld (FB_PORT_LINK p) FB_PORT_LINK_EPOCH)
    (((m.port p).lmcSerial.toNat + 1) % 256)) :: m.out

/-- STATE of a laser feed. -/
def feedState (m : Mod) (f : Nat) : Nat := m.fld (LS_FEED_STAT f) LS_FEED_STAT_STATE

end Sys2Proof.Claims

/-- Laser feeds (R370–R373, R394): a pilot check that passes is noted and one that fails drops LASER_EN; full power
makes the feed serve; a failed one is tried again; a loss of power interlocks it; the fault input is followed both
ways. The mark of a failed feed is a reading (log 38). -/
def Obligations.LaserFeeds : Prop :=
  (∀ (f : Fin 16) (ls : List Int) (tot : Int) (s : State), Claims.feedState s.mod f = 1 →
    s.mod.pins.laserEn.getLsbD f = true → pilotPass ls tot = true →
    Claims.After (.feedPilotCheck f ls tot) s fun u => u.trust.pilotOk.contains f.val = true ∧ u.pins = s.mod.pins ∧
      u.regs = s.mod.regs ∧ u.mem = s.mod.mem) ∧
  (∀ (f : Fin 16) (ls : List Int) (tot : Int) (s : State), Claims.feedState s.mod f = 1 →
    s.mod.pins.laserEn.getLsbD f = true → pilotPass ls tot = false →
    Claims.After (.feedPilotCheck f ls tot) s fun u => Claims.feedState u f = 2 ∧ u.pins.laserEn.getLsbD f = false ∧
      (∀ g < 16, g ≠ f.val → u.pins.laserEn.getLsbD g = s.mod.pins.laserEn.getLsbD g) ∧ u.mem = s.mod.mem) ∧
  (∀ (f : Fin 16) (ls : List Int) (tot : Int) (s : State), Claims.feedState s.mod f = 1 →
    s.mod.trust.pilotOk.contains f.val = true → s.mod.pins.laserEn.getLsbD f = true →
    s.mod.fld (LS_DIE (f.val / 2)) LS_DIE_HANDOVER ≠ 3 →
    Claims.After (.feedFullPowerCheck f ls tot) s fun u => Claims.feedState u f = 3 ∧
      u.fld (LS_FEED_STAT f) LS_FEED_STAT_TOTAL_CDB = ofSigned 16 tot ∧ u.pins = s.mod.pins ∧ u.mem = s.mod.mem) ∧
  (∀ (f : Fin 16) (s : State), Claims.feedState s.mod f = 2 → s.mod.flag (LS_FEED_CTL f) LS_FEED_CTL_ENABLE = true →
    feedMayRise s.mod f = true →
    Claims.After (.feedPilotRetry f) s fun u => Claims.feedState u f = 1 ∧ u.pins.laserEn.getLsbD f = true ∧
      u.mem = s.mod.mem) ∧
  (∀ (f : Fin 16) (s : State), Claims.feedState s.mod f = 3 →
    Claims.After (.feedPowerLoss f) s fun u => Claims.feedState u f = 4 ∧ u.pins.laserEn.getLsbD f = false ∧
      u.interlocked.get? f = some s.mod.now ∧ u.mem = s.mod.mem) ∧
  (∀ (f : Fin 16) (s : State), s.mod.flag (CP_INPUT (3 + f.val)) CP_INPUT_MASKED = false →
    s.mod.flag (CP_INPUT (3 + f.val)) CP_INPUT_LEVEL = true →
    Claims.After (.laserFault f) s fun u => u.flag (LS_FEED_STAT f) LS_FEED_STAT_FAULT_N = false ∧
      u.flag (CP_INPUT (3 + f.val)) CP_INPUT_LEVEL = false ∧ u.mem = s.mod.mem) ∧
  (∀ (f : Fin 16) (s : State), s.mod.flag (CP_INPUT (3 + f.val)) CP_INPUT_MASKED = false →
    s.mod.flag (CP_INPUT (3 + f.val)) CP_INPUT_LEVEL = false → Claims.feedState s.mod f = 5 →
    s.mod.fld (LS_DIE (f.val / 2)) LS_DIE_HANDOVER ≠ 3 →
    Claims.After (.laserFaultCleared f) s fun u => u.flag (LS_FEED_STAT f) LS_FEED_STAT_FAULT_N = true ∧
      Claims.feedState u f = 0 ∧ u.flag (CP_INPUT (3 + f.val)) CP_INPUT_LEVEL = true ∧ u.mem = s.mod.mem)

/-- Rings, monitors and calibration (R282, R374–R380, R384, R389, R390): a ring that loses lock relocks or makes its
lane suspect; a suspect lane returns or is retired; a reading shows its power and its level; the new lane of a move
trains, mirrors and carries; a calibration goes through its phases; an abandoned one gives its spare back. Refusals
and ends of a calibration are readings (logs 34, 36). -/
def Obligations.RingsMonitorsAndCalibration : Prop :=
  (∀ (p : Fin 64) (tx : Bool) (l : Fin 18) (s : State), moveOf s.mod tx p = none →
    Claims.After (.ringLockLoss p tx l) s fun u => u.fld (laneReg tx p l) lockFld = 1 ∧ u.ports = s.mod.ports ∧
      u.mem = s.mod.mem) ∧
  (∀ (p : Fin 64) (tx : Bool) (l : Fin 18) (s : State), s.mod.fld (laneReg tx p l) lockFld = 1 →
    Claims.After (.ringReacquired p tx l) s fun u => u.fld (laneReg tx p l) lockFld = 2 ∧
      u.fld (laneReg tx p l) PT_TX_LANE_RELOCKS = min 255 (s.mod.fld (laneReg tx p l) PT_TX_LANE_RELOCKS + 1) ∧
      u.ports = s.mod.ports ∧ u.mem = s.mod.mem) ∧
  (∀ (p : Fin 64) (l : Fin 18) (s : State), s.mod.fld (laneReg false p l) lockFld = 1 →
    (s.mod.port p).retiredRx.contains l.val = false →
    Claims.After (.ringRelockTimeout p false l) s fun u => u.fld (laneReg false p l) lockFld = 0 ∧
      (u.port p).suspRx.contains l.val = true ∧ u.mem = s.mod.mem) ∧
  (∀ (p : Fin 64) (l : Fin 18) (s : State), (s.mod.port p).suspRx.contains l.val = true →
    s.mod.logicalOn false p l = none →
    Claims.After (.suspectLaneRetrained p false l true) s fun u => u.fld (laneReg false p l) lockFld = 2 ∧
      (u.port p).suspRx.contains l.val = false ∧ (u.port p).returned.get? (2 * l.val) = some s.mod.now.toNat ∧
      u.mem = s.mod.mem) ∧
  (∀ (p : Fin 64) (l : Fin 18) (s : State), (s.mod.port p).suspRx.contains l.val = true →
    s.mod.logicalOn false p l = none →
    Claims.After (.suspectLaneRetrained p false l false) s fun u => (u.port p).retiredRx.contains l.val = true ∧
      u.mem = s.mod.mem) ∧
  (∀ (mon : Monitor) (cdb : Int) (s : State),
    Claims.After (.monitorReading mon cdb) s fun u =>
      u.fld (monitorReg mon) PT_TX_LANE_POWER_CDB = ofSigned 16 cdb ∧
      u.fld (monitorReg mon) levelFld = nextLevel (s.mod.fld (monitorReg mon) levelFld) (fun k =>
        runStep (fadeThreshold s.mod k) (-cdb)
          ((s.mod.port (monitorKey mon).1).levelRun.getD ((monitorKey mon).2 + k) (0, 0))) ∧ u.mem = s.mod.mem) ∧
  (∀ (p : Fin 64) (x : Fin 18) (mv : Move) (s : State), (s.mod.port p).moveR = some mv → mv.dst = x.val → mv.step = 2 →
    (s.mod.port p).lmcRx = none →
    Claims.After (.laneTrained p x) s fun u => u.fld (PT_RX_LANE p x) lockFld = 2 ∧
      Claims.SentFrame s.mod p frTrained mv.logical mv.dst mv.cause u ∧ ((u.port p).lmcRx.map (·.sends)) = some 1 ∧
      u.mem = s.mod.mem) ∧
  (∀ (p : Fin 64) (mv : Move) (s : State), (s.mod.port p).moveR = some mv → mv.step = 3 → mv.logical < 16 → mv.dst < 18 →
    Claims.After (.mirrorVerified p) s fun u => u.laneOf false p mv.logical = mv.dst ∧
      (u.port p).moveR = some { mv with step := 4 } ∧
      Claims.SentFrame s.mod p frSwitched mv.logical mv.dst mv.cause u ∧ u.mem = s.mod.mem) ∧
  (∀ (p : Fin 64) (x : Fin 18) (tx : Bool) (s : State), (s.mod.port p).retraining = [(x.val, tx)] →
    Claims.After (.spareRetrainDone p x true) s fun u => (u.port p).retraining = [] ∧
      (u.port p).retiredTx = (s.mod.port p).retiredTx ∧ u.mem = s.mod.mem) ∧
  (∀ (b : Bool) (p l ph : Nat) (s : State), s.mod.calPhase = some (p, l, ph) → 1 ≤ ph → ph ≤ 3 →
    Claims.After (.calibrationPhaseEnd b) s fun u => u.calPhase = some (p, l, ph + 1) ∧ u.ports = s.mod.ports ∧
      u.mem = s.mod.mem) ∧
  (∀ (p : Fin 64) (l : Nat) (s : State), s.mod.calPhase = some (p.val, l, 4) → 16 ≤ l → l < 18 →
    Claims.After (.calibrationPhaseEnd true) s fun u => u.calPhase = none ∧
      u.fld (PT_CAL p) PT_CAL_PASSES = (s.mod.fld (PT_CAL p) PT_CAL_PASSES + 1) % 2 ^ 32 ∧
      u.fld LS_CAL LS_CAL_ACTIVE = 0 ∧ u.mem = s.mod.mem) ∧
  (∀ (p : Fin 64) (l : Nat) (s : State), s.mod.calPhase = some (p.val, l, 6) → 16 ≤ l → l < 18 →
    Claims.After (.calSettingsRestored p) s fun u => u.calPhase = none ∧
      u.fld (PT_CAL p) PT_CAL_PASSES = s.mod.fld (PT_CAL p) PT_CAL_PASSES ∧ u.mem = s.mod.mem) ∧
  (∀ (p : Fin 64) (l : Fin 18) (s : State), s.mod.fld (PT_TX_LANE p l) lockFld = 1 →
    (s.mod.iodie (p.val / 8)).hand = none →
    Claims.After (.selectorRelockDone p l) s fun u => u.fld (PT_TX_LANE p l) lockFld = 2 ∧ u.ports = s.mod.ports ∧
      u.iodies = s.mod.iodies ∧ u.mem = s.mod.mem)

/-- The frames of the lane management channel (R382–R385, R389): each moves its sequence on by one step, and the map
takes the announced and the switched lanes. Some answers are readings (log 35). -/
def Obligations.LaneManagementFrames : Prop :=
  (∀ (p : Fin 64) (f : Word) (s : State), s.mod.portOpen p = true → frameOk s.mod p frMoveReq f = true → frLogical f < 16 → 16 ≤ frPhys f →
    frPhys f < 18 → (s.mod.port p).move = none → (s.mod.port p).queuedMoves = [] →
    s.mod.laneOf true p (frLogical f) ≠ frPhys f → s.mod.spareUse p (frPhys f) = 0 →
    Claims.After (.moveReq p f) s fun u =>
      (u.port p).move = some { tx := true, logical := frLogical f, src := s.mod.laneOf true p (frLogical f), dst := frPhys f
                               cause := frCause f, step := 2, retried := false, stamp := s.mod.now } ∧
      Claims.SentFrame s.mod p frTrainStart (frLogical f) (frPhys f) (frCause f) u ∧ u.mem = s.mod.mem) ∧
  (∀ (p : Fin 64) (f : Word) (s : State), s.mod.portOpen p = true → frameOk s.mod p frTrainStart f = true → frLogical f < 16 → frPhys f < 18 →
    (s.mod.port p).moveR = none →
    Claims.After (.trainStart p f) s fun u =>
      (u.port p).moveR = some { tx := false, logical := frLogical f, src := s.mod.laneOf false p (frLogical f), dst := frPhys f
                                cause := frCause f, step := 2, retried := false, stamp := s.mod.now } ∧
      u.fld (PT_RX_LANE p (frPhys f)) lockFld = 1 ∧ u.mem = s.mod.mem) ∧
  (∀ (p : Fin 64) (f : Word) (mv : Move) (s : State), frameOk s.mod p frTrained f = true →
    frameMove s.mod true p f = some mv → mv.step = 2 →
    Claims.After (.trained p f) s fun u => (u.port p).move = some { mv with step := 3 } ∧
      Claims.SentFrame s.mod p frMirrorOn mv.logical mv.dst mv.cause u ∧ u.mem = s.mod.mem) ∧
  (∀ (p : Fin 64) (f : Word) (mv : Move) (s : State), frameOk s.mod p frMirrorOn f = true →
    frameMove s.mod false p f = some mv → mv.step = 2 →
    Claims.After (.mirrorOn p f) s fun u => (u.port p).moveR = some { mv with step := 3 } ∧ (u.port p).lmcRx = none ∧
      u.out = s.mod.out ∧ u.mem = s.mod.mem) ∧
  (∀ (p : Fin 64) (f : Word) (mv : Move) (s : State), frameOk s.mod p frSwitched f = true →
    frameMove s.mod true p f = some mv → mv.step = 3 → mv.logical < 16 → mv.dst < 18 → mv.cause = 2 →
    s.mod.calPhase = none → (s.mod.port p).queuedMoves = [] → (s.mod.iodie (p.val / 8)).comb = [] →
    Claims.After (.switched p f) s fun u => u.laneOf true p mv.logical = mv.dst ∧ (u.port p).move = none ∧
      Claims.SentFrame s.mod p frAck (frLogical f) (frPhys f) (frCause f) u ∧ u.mem = s.mod.mem) ∧
  (∀ (p : Fin 64) (f : Word) (s : State), frameOk s.mod p frCalStart f = true → frPhys f < 18 →
    Claims.After (.calStart p f) s fun u => u.fld (PT_RX_LANE p (frPhys f)) lockFld = 1 ∧
      Claims.SentFrame s.mod p frAck (frLogical f) (frPhys f) (frCause f) u ∧ u.mem = s.mod.mem) ∧
  (∀ (p : Fin 64) (f : Word) (s : State), frameOk s.mod p frCalDone f = true → frPhys f < 18 →
    Claims.After (.calDone p f) s fun u => u.fld (PT_RX_LANE p (frPhys f)) lockFld = 2 ∧
      Claims.SentFrame s.mod p frAck (frLogical f) (frPhys f) (frCause f) u ∧ u.mem = s.mod.mem) ∧
  (∀ (p : Fin 64) (f : Word) (mv : Move) (s : State), frameOk s.mod p frAbort f = true →
    frameMove s.mod true p f = some mv → mv.tx = true → frameMove s.mod false p f = none → s.mod.calPhase = none →
    (s.mod.port p).queuedMoves = [] → (s.mod.iodie (p.val / 8)).comb = [] →
    Claims.After (.lmcAbort p f) s fun u => (u.port p).move = none ∧ (u.port p).lmcTx = none ∧ u.out = s.mod.out ∧
      u.mem = s.mod.mem) ∧
  (∀ (p : Fin 64) (f : Word) (s : State), frameOk s.mod p frMap f = true → frLogical f < 16 → frPhys f < 18 →
    Claims.After (.lmcMap p f) s fun u => u.laneOf false p (frLogical f) = frPhys f ∧ u.ports = s.mod.ports ∧
      u.out = s.mod.out ∧ u.mem = s.mod.mem) ∧
  (∀ (p : Fin 64) (f : Word) (x : LmcSend) (s : State), frameOk s.mod p frAck f = true → (s.mod.port p).lmcTx = some x →
    frLogical x.frame = frLogical f → frPhys x.frame = frPhys f → (s.mod.port p).lmcRx = none →
    Claims.After (.lmcAck p f) s fun u => u.port p = { s.mod.port p with lmcTx := none } ∧ u.regs = s.mod.regs ∧
      u.out = s.mod.out ∧ u.mem = s.mod.mem) ∧
  (∀ (p : Fin 64) (x : LmcSend) (s : State), (s.mod.port p).lmcTx = some x → x.sends < 4 → (s.mod.port p).lmcRx = none →
    Claims.After (.lmcFrameRepeat p) s fun u =>
      u.port p = { s.mod.port p with lmcTx := some { x with sends := x.sends + 1 } } ∧
      u.out = .lmc p x.frame :: s.mod.out ∧ u.regs = s.mod.regs ∧ u.mem = s.mod.mem)

namespace Sys2Proof.Claims

/-- The value a write lays over a register, in the register's own bit places. -/
def laid (off size : Nat) (val : Word) : Word :=
  if size = 8 then val else BitVec.ofNat 64 (bitsOf val 0 32 * 2 ^ (8 * (off % 8)))

/-- Bit `b` of a register after a write (R7, R11–R13): an RW bit takes the value, a W1C bit clears and a W1S bit sets where
a 1 is written, every other bit stays. -/
def bitAfter (who : Requester) (off size : Nat) (val old : Word) (b : Nat) : Bool :=
  let o := regOff off
  if !(writeCover off size).getLsbD b then old.getLsbD b
  else if (accMask o .rw).getLsbD b || (decide (who = .tfw) && (accMask o .tfw).getLsbD b) then (laid off size val).getLsbD b
  else if (accMask o .w1c).getLsbD b then old.getLsbD b && !(laid off size val).getLsbD b
  else if (accMask o .w1s).getLsbD b then old.getLsbD b || (laid off size val).getLsbD b
  else old.getLsbD b

end Sys2Proof.Claims

/-- Register writes (R9–R13, R42, R187, R389, R443, R488, R489): a write to a register without an action changes its bits by
their access codes and no other register; an access of another size or alignment, or out of reach, faults and changes no
register, a read as a write; the rows with an action act. -/
def Obligations.RegisterWrites : Prop :=
  (∀ (who : Requester) (off size : Nat) (val : Word) (row : RegRow) (ix : List Nat) (s : State),
    accessOk off size = true → reaches s.mod who off = true → regFind (regOff off) regTable = some (row, ix) →
    ignores s.mod who row.base ix = false →
    row.base ∉ [CD_RING_CTL 0 0, PT_CAL 0, DD_RESET, TH_STATUS, TR_GATE_CTL 0] →
    s.mod.reg (regOff off) &&& regMask (regOff off) = s.mod.reg (regOff off) →
    Claims.After (.registerWrite who off size val) s fun u =>
      (∀ b < 64, (u.reg (regOff off)).getLsbD b = Claims.bitAfter who off size val (s.mod.reg (regOff off)) b) ∧
      (∀ q, q ≠ regOff off → u.reg q = s.mod.reg q) ∧ u.mem = s.mod.mem ∧ u.out = s.mod.out) ∧
  (∀ (who : Requester) (off size : Nat) (val : Word) (s : State),
    accessOk off size = false ∨ reaches s.mod who off = false →
    exec (.registerWrite who off size val) s = .next { s with mod := { s.mod with out := .regFault who off :: s.mod.out } }) ∧
  (∀ off size : Nat, accessOk off size = true ↔
    (size = 8 ∧ off % 8 = 0 ∨ size = 4 ∧ off % 4 = 0) ∧ regAssigned (regOff off) = true) ∧
  (∀ (tag : BitVec 16) (off : BitVec 52) (n : BitVec 13) (s : State), voloshUp s.mod = true → tagBusy s.mod tag = false →
    n.toNat = 4 ∨ n.toNat = 8 → accessOk off.toNat n.toNat = false →
    exec (.regRd tag off n) s = .next { s with mod := { s.mod with
      out := vPacket s.mod 0x81 stDenied 0 tag 0 0 [] :: s.mod.out } }) ∧
  (∀ (d : Fin 8) (r : Fin 256) (val : Word) (s : State), bitOf val 8 = true →
    ringsAllowed s.mod (ringChamber s.mod d r) = true → s.mod.flag (CD_RING_CTL d r) CD_RING_CTL_ENABLE = true →
    s.mod.dieRuns d = true → bound s.mod (ringChamber s.mod d r) = false →
    Claims.After (.ringReset .sfw d r val) s fun u => u.fld (CD_RING_STATE d r) CD_RING_STATE_STATE = 1 ∧
      ringExpect u d r = bitsOf val 32 32 ∧ (u.ring d r).reading = false ∧
      u.flag (CD_RING_CTL d r) CD_RING_CTL_RESET = false ∧ u.mem = s.mod.mem) ∧
  (∀ (p : Fin 64) (val : Word) (s : State), bitOf val 5 = true → calRefused s.mod p (bitsOf val 0 5) = true →
    Claims.After (.ptCalStart .sfw p val) s fun u => u.flag (PT_CAL p) PT_CAL_REFUSED = true ∧
      u.calPhase = s.mod.calPhase ∧ u.ports = s.mod.ports ∧ u.mem = s.mod.mem) ∧
  (∀ (p : Fin 64) (val : Word) (s : State), bitOf val 5 = true → calRefused s.mod p (bitsOf val 0 5) = false →
    16 ≤ bitsOf val 0 5 →
    Claims.After (.ptCalStart .sfw p val) s fun u => u.calPhase = some (p.val, bitsOf val 0 5, 1) ∧
      u.flag (PT_CAL p) PT_CAL_START = true ∧ u.fld LS_CAL LS_CAL_ACTIVE = 1 ∧ u.mem = s.mod.mem) ∧
  (∀ (p : Fin 64) (val : Word) (s : State), bitOf val 5 = false →
    Claims.After (.ptCalFlagClear .sfw p val) s fun u =>
      u.flag (PT_CAL p) PT_CAL_ABANDONED = (s.mod.flag (PT_CAL p) PT_CAL_ABANDONED && !bitOf val 6) ∧
      u.flag (PT_CAL p) PT_CAL_REFUSED = (s.mod.flag (PT_CAL p) PT_CAL_REFUSED && !bitOf val 7) ∧
      u.calPhase = s.mod.calPhase ∧ u.mem = s.mod.mem) ∧
  (∀ (g : Fin 200) (val : Word) (s : State), bitOf val 8 = true → bitOf val 22 = false → bitsOf val 0 8 = g.val →
    sorusResetRefused s.mod g = false →
    Claims.After (.sorusReset .sfw val) s fun u => (u.cdie (g.val / 25)).resetting.contains (g.val % 25) = true ∧
      u.domain g = 1 ∧ (∀ t ∈ thalliOf g, u.thState t = thAsleep ∧ (u.thallus t).sregs = [] ∧
        ∀ o < tileBytes, memByte u.mem (tileAddr t o) = 0)) ∧
  (∀ (g : Nat) (val : Word) (s : State), bitOf val 8 = true → bitOf val 22 = false → bitsOf val 0 8 = g →
    sorusResetRefused s.mod g = true →
    Claims.After (.sorusReset .sfw val) s fun u => u.flag DD_RESET DD_RESET_SORUS_REFUSED = true ∧
      u.flag DD_RESET DD_RESET_SORUS_GO = false ∧ u.mem = s.mod.mem ∧ u.thalli = s.mod.thalli) ∧
  (∀ (p : Fin 64) (val : Word) (s : State), bitOf val 8 = false → bitOf val 22 = true → bitsOf val 16 6 = p.val →
    s.mod.dieRuns (ioDie (p.val / 8)) = true →
    Claims.After (.portReset .sfw val) s fun u => u.linkState p = lkTraining ∧
      u.flag DD_RESET DD_RESET_PORT_GO = false ∧ u.mem = s.mod.mem) ∧
  (∀ (val : Word) (s : State), bitOf val 8 = false → bitOf val 22 = false →
    Claims.After (.ddResetFlagClear .sfw val) s fun u =>
      u.flag DD_RESET DD_RESET_SORUS_REFUSED = (s.mod.flag DD_RESET DD_RESET_SORUS_REFUSED && !bitOf val 24) ∧
      u.flag DD_RESET DD_RESET_PORT_REFUSED = (s.mod.flag DD_RESET DD_RESET_PORT_REFUSED && !bitOf val 25) ∧
      u.mem = s.mod.mem) ∧
  (∀ (val : Word) (s : State), bitOf val 1 = true → s.mod.trust.halted = false →
    (∀ n < 22, s.mod.flag (TH_DIE n) TH_DIE_ISOLATED = false) →
    Claims.After (.faultClear .sfw val) s fun u => u.flag TH_STATUS TH_STATUS_FAULT = false ∧
      u.pins = { s.mod.pins with faultLow := false } ∧ u.mem = s.mod.mem)

/-- The host link (R400–R413): a fitting HELLO brings its port up and another does not; a snoop is answered and drops
its line, a recall with the data of a written one; a grant is held and acknowledged; an acknowledged write is done;
the device and register windows read and write; a written line is written back in time; with every port lost the lines
are gone. The device window's boundary and what a loss keeps are readings (log 42). -/
def Obligations.VoloshLink : Prop :=
  (∀ (p : Fin 64) (i : Nat) (w : BitVec 6) (a b : BitVec 12) (s : State), voloshIndex s.mod p = some i →
    s.mod.portOpen p = true → voloshState s.mod i = 1 → s.mod.fld VL_CFG VL_CFG_WIN_LOG2 ≤ w.toNat → 1 ≤ b.toNat →
    Claims.After (.hello p 1 w a b) s fun u => voloshState u i = 2 ∧ u.linkState p = lkUp ∧ u.mem = s.mod.mem) ∧
  (∀ (p : Fin 64) (i : Nat) (v : BitVec 8) (w : BitVec 6) (a b : BitVec 12) (s : State), voloshIndex s.mod p = some i →
    s.mod.portOpen p = true → voloshState s.mod i = 1 → v ≠ 1 →
    Claims.After (.hello p v w a b) s fun u => voloshState u i = 3 ∧ u.linkState p = s.mod.linkState p ∧
      u.mem = s.mod.mem) ∧
  (∀ (p : Fin 64) (i : Nat) (s : State), voloshIndex s.mod p = some i → voloshState s.mod i = 3 →
    exec (.helloRepeat p) s = .next { s with mod := { s.mod with
      out := helloOf s.mod p :: s.mod.out } }) ∧
  (∀ (off : BitVec 52) (tag : BitVec 16) (l : VLine) (s : State), voloshUp s.mod = true →
    s.mod.volosh.lines.get? (off.toNat / 64 * 64) = some l → l.watch = none →
    Claims.After (.inv off tag) s (fun u => u.volosh.lines.get? (off.toNat / 64 * 64) = none ∧ u.mem = s.mod.mem ∧
      u.out = vPacket s.mod 0x83 0 0 tag (off.toNat / 64 * 64) 0 [] :: s.mod.out) ∧
    (l.owned = true → l.written = true → Claims.After (.recall off tag) s fun u =>
      u.volosh.lines.get? (off.toNat / 64 * 64) = none ∧ u.mem = s.mod.mem ∧
      u.out = vPacket s.mod 0x84 0 0 tag (off.toNat / 64 * 64) 0 l.data :: s.mod.out)) ∧
  (∀ (tag : BitVec 16) (r : VReq) (bs : List Byte) (s : State), s.mod.volosh.reqs = [r] → r.tag = tag →
    r.port.isSome = true → r.opc = opRdShared → r.watch = none → bs.length = 64 →
    Claims.After (.voloshData tag 0 1 bs) s fun u => u.volosh.reqs = [] ∧
      u.volosh.lines.get? r.off = some ⟨false, false, none, bs⟩ ∧ u.out = vPacket s.mod 0x85 0 0 tag r.off 0 [] :: s.mod.out ∧
      u.mem = s.mod.mem) ∧
  (∀ (tag : BitVec 16) (st : BitVec 4) (r : VReq) (s : State), s.mod.volosh.reqs = [r] → r.tag = tag → opRdNc < r.opc →
    r.port.isSome = true → r.watch = none →
    exec (.voloshAck tag st) s = .next { s with mod := { s.mod with volosh := { s.mod.volosh with reqs := [] } } }) ∧
  (∀ (tag : BitVec 16) (a : BitVec 52) (n : BitVec 13) (st off k : Nat) (s : State), voloshUp s.mod = true →
    tagBusy s.mod tag = false → devSize n.toNat = true → devCrosses a.toNat n.toNat = false →
    devStatus s.mod a.toNat n.toNat none = stOk → stackOwner s.mod st = some k →
    Claims.ServedAtOnce s.mod { org := .volosh tag, kind := .read, addr := a.toNat, size := n.toNat, hint := 0, chamber := k
                                cnt := none, stat := false, tag := 0, pc := 0, word := 0, stamp := s.mod.now, rd := 0
                                run := 0 } st off →
    Claims.After (.devRd tag a n .good) s fun u => u.mem = s.mod.mem ∧
      u.out = vPacket s.mod 0x81 stOk 0 tag 0 0 (memRead s.mod.mem a.toNat n.toNat) :: s.mod.out) ∧
  (∀ (tag : BitVec 16) (a : BitVec 52) (bs : List Byte) (c : BitVec 12) (st off k : Nat) (s : State), voloshUp s.mod = true →
    tagBusy s.mod tag = false → devSize bs.length = true → devCrosses a.toNat bs.length = false →
    devStatus s.mod a.toNat bs.length none = stOk → stackOwner s.mod st = some k →
    Claims.ServedAtOnce s.mod { org := .volosh tag, kind := .write bs, addr := a.toNat, size := bs.length, hint := 0
                                chamber := k, cnt := none, stat := false, tag := 0, pc := 0, word := 0, stamp := s.mod.now
                                rd := 0, run := 0 } st off →
    Claims.After (.devWr tag a bs false c .good) s fun u => u.mem = memWrite s.mod.mem a.toNat bs ∧
      u.out = vPacket s.mod 0x82 stOk 0 tag 0 0 [] :: s.mod.out ∧ u.counters = s.mod.counters) ∧
  (∀ (tag : BitVec 16) (off : BitVec 52) (n : BitVec 13) (s : State), voloshUp s.mod = true → tagBusy s.mod tag = false →
    accessOk off.toNat n.toNat = true → reaches s.mod .companion off.toNat = true →
    exec (.regRd tag off n) s = .next { s with mod := { s.mod with
      out := vPacket s.mod 0x81 stOk 0 tag 0 0 (regRead s.mod off.toNat n.toNat) :: s.mod.out } }) ∧
  (∀ (tag : BitVec 16) (off : BitVec 52) (bs : List Byte) (s : State), voloshUp s.mod = true → tagBusy s.mod tag = false →
    accessOk off.toNat bs.length = true → reaches s.mod .companion off.toNat = true →
    ∃ u, exec (.registerWrite .companion off.toNat bs.length (BitVec.ofNat 64 (leNat bs))) s = .next u ∧
      exec (.regWr tag off bs) s = .next { u with mod := { u.mod with
        out := vPacket u.mod 0x82 stOk 0 tag 0 0 [] :: u.mod.out } }) ∧
  (∀ (off : BitVec 52) (l : VLine) (s : State), s.mod.volosh.lines.get? off.toNat = some l → l.owned = true →
    l.written = true →
    Claims.After (.wbTimer off) s fun u => u.volosh.lines.get? off.toNat = none ∧ u.mem = s.mod.mem ∧
      Claims.Requested s.mod opWb off.toNat l.data none u) ∧
  (∀ s : State, voloshUp s.mod = false → s.mod.flag VL_PORTS VL_PORTS_PORT0_VALID = true →
    Claims.After .voloshLoss s fun u => u.volosh.lines = []) ∧
  (∀ (opc : BitVec 8) (tag : BitVec 16) (s : State), voloshUp s.mod = true →
    opc.toNat ∉ [0x21, 0x22, 0x41, 0x42, 0x43, 0x44, 0x81, 0x82, 0xE0, 0xE1] →
    (s.mod.queue (qDie mgmtDie)).recs.length < queueCap (qDie mgmtDie) →
    Claims.After (.voloshUnlistedRequest opc tag) s fun u => Claims.Recorded s.mod (qDie mgmtDie) 0x0C02 clsLasting u ∧
      u.out = vPacket s.mod 0x82 stDenied 0 tag 0 0 [] :: s.mod.out ∧ u.mem = s.mod.mem)

namespace Sys2Proof.Claims

/-- A Volosh port is up and trusted firmware answers (R415). -/
abbrev SpdmReady (m : Mod) : Prop := voloshUp m = true ∧ m.trust.halted = false ∧ m.trust.testEn = false

/-- A command's whole effect is one message sent. -/
def Sends (c : Instr) (s : State) (o : Out) : Prop := exec c s = .next { s with mod := { s.mod with out := o :: s.mod.out } }

/-- An SPDM request's whole effect is the answer and the next step of the session set-up. -/
def SpdmAnswered (c : Instr) (s : State) (next code : Nat) (body : List Byte) : Prop :=
  exec c s = .next { s with mod := { s.mod with
    volosh := { s.mod.volosh with spdm := next }, out := .spdm code body :: s.mod.out } }

/-- No chamber is bound or waits to be. -/
abbrev NoBinding (m : Mod) : Prop := ∀ k < 8, confState m k ≠ 3 ∧ (m.chamber k).bindWanted = none

/-- The module after a report has been produced (R475): numbered, and signed over its content. -/
def reported (m : Mod) (session : Option Nat) (nonce : List Byte) : Mod :=
  let m' := { m with trust := { m.trust with reportSeq := m.trust.reportSeq + 1 } }
  let content := reportContent m' nonce
  let signature := Config.sign (Config.sha384 ((content.map fun w => leBytes 8 w.toNat).flatten))
  { m' with out := .report session content signature :: m.out }

/-- The bounce engine of a bound chamber has a record to take, and room for an answer (R420, R423). -/
abbrev BounceReady (m : Mod) (k : Nat) : Prop :=
  bound m k = true ∧ voloshUp m = true ∧ (m.chamber k).inCons < (m.chamber k).inProd ∧ (m.chamber k).exporting = none ∧
  outRoom m k = true

/-- The record at IN_CONS has been consumed (R417, R420). -/
def Consumed (m : Mod) (k : Nat) (u : Mod) : Prop :=
  (u.chamber k).inCons = (m.chamber k).inCons + 1 ∧ (u.chamber k).inCtr = (m.chamber k).inCtr + 1

end Sys2Proof.Claims

/-- The SPDM responder and confidential chambers (R193, R415–R417, R420, R423, R425, R475, R476): each request of the
set-up is answered in its step; a finished set-up is a session; a session's end leaves none; a report is numbered and
signed; a bind derives the keys of a cleared chamber; bounce records are taken in order; a clear ends. The layout of a
report and the order and codes of SPDM are the model's (logs 23, 24); cryptography is uninterpreted (log 16). -/
def Obligations.SpdmAndConfidential : Prop :=
  (∀ (v : BitVec 8) (s : State), Claims.SpdmReady s.mod → s.mod.volosh.spdm ≠ 8 →
    Claims.SpdmAnswered (.getVersion v) s 1 0x04 [0x13]) ∧
  (∀ (f : BitVec 32) (s : State), Claims.SpdmReady s.mod → s.mod.volosh.spdm = 1 →
    Claims.SpdmAnswered (.getCapabilities f) s 2 0x61 (leBytes 4 spdmCaps)) ∧
  (∀ s : State, Claims.SpdmReady s.mod → s.mod.volosh.spdm = 2 →
    Claims.SpdmAnswered (.negotiateAlgorithms true) s 3 0x63 []) ∧
  (∀ s : State, Claims.SpdmReady s.mod → 3 ≤ s.mod.volosh.spdm → s.mod.volosh.spdm ≤ 5 →
    Claims.SpdmAnswered .getDigests s (max 4 s.mod.volosh.spdm) 0x01
      (leBytes 48 (Config.sha384 (Config.deviceChainAt 0)).toNat ++ leBytes 48 (Config.sha384 (enrolment s.mod)).toNat)) ∧
  (∀ (slot : BitVec 8) (off len : BitVec 16) (chain : List Byte) (s : State), Claims.SpdmReady s.mod →
    s.mod.volosh.spdm = 4 ∨ s.mod.volosh.spdm = 5 → slot.toNat < 2 → certChain s.mod slot.toNat = some chain →
    Claims.SpdmAnswered (.getCertificate slot off len) s 5 0x02 ((chain.drop off.toNat).take len.toNat)) ∧
  (∀ (nonce : List Byte) (signed : Bool) (s : State), Claims.SpdmReady s.mod →
    s.mod.volosh.spdm = 5 ∨ s.mod.volosh.spdm = 6 →
    Claims.SpdmAnswered (.getMeasurements nonce signed) s 6 0x60
      (measurementBytes s.mod ++ if signed then signBytes (nonce ++ measurementBytes s.mod) else [])) ∧
  (∀ (req : BitVec 16) (x : List Byte) (s : State), Claims.SpdmReady s.mod →
    s.mod.volosh.spdm = 5 ∨ s.mod.volosh.spdm = 6 →
    Claims.After (.keyExchange req x) s fun u => u.volosh.spdm = 7 ∧ u.volosh.session % 2 ^ 16 = req.toNat ∧
      u.freeCount = s.mod.freeCount + 1 ∧ u.regs = s.mod.regs ∧ u.mem = s.mod.mem ∧
      ∃ body, u.out = .spdm 0x64 (body ++ signBytes (x ++ body)) :: s.mod.out) ∧
  (∀ (mutualOk : Bool) (s : State), Claims.SpdmReady s.mod → s.mod.volosh.spdm = 7 →
    mutualOk = true ∨ s.mod.trust.image.mutAuth = false →
    Claims.SpdmAnswered (.finish true mutualOk) s 8 0x65 []) ∧
  (∀ (ok mutualOk : Bool) (s : State), Claims.SpdmReady s.mod → s.mod.volosh.spdm = 7 →
    ok = false ∨ (mutualOk = false ∧ s.mod.trust.image.mutAuth = true) →
    exec (.finish ok mutualOk) s = .next { s with mod := { s.mod with
      volosh := { s.mod.volosh with spdm := 0, session := 0, secret := 0 }, out := .spdm 0x7F [] :: s.mod.out } }) ∧
  (∀ s : State, Claims.SpdmReady s.mod → s.mod.volosh.spdm = 8 →
    Claims.Sends .keyUpdate s (.spdm 0x69 []) ∧ Claims.Sends .spdmHeartbeat s (.spdm 0x68 [])) ∧
  (∀ s : State, Claims.SpdmReady s.mod → s.mod.volosh.spdm = 8 → Claims.NoBinding s.mod →
    exec .endSession s = .next { s with mod := { s.mod with
      volosh := { s.mod.volosh with spdm := 0, session := 0, secret := 0 }, out := .spdm 0x6C [] :: s.mod.out } }) ∧
  (∀ s : State, s.mod.volosh.spdm = 8 → s.mod.trust.halted = false → Claims.NoBinding s.mod →
    exec .spdmHeartbeatTimeout s = .next { s with mod := { s.mod with
      volosh := { s.mod.volosh with spdm := 0, session := 0, secret := 0 } } }) ∧
  (∀ (nonce : List Byte) (s : State), voloshUp s.mod = true → mayReport s.mod = true → nonce.length ≤ 48 →
    exec (.spdmAttest nonce) s = .next { s with mod := Claims.reported s.mod none nonce }) ∧
  (∀ (k : Fin 8) (page : Nat) (s : State), voloshUp s.mod = true → s.mod.trust.halted = false →
    Claims.Sends (.getDigestList k page) s (.spdm 0x7E (((digestEntries s.mod k).drop (64 * page)).take 64).flatten)) ∧
  (∀ (tag : BitVec 16) (stamp : Word) (k : Nat) (s : State), Claims.SpdmReady s.mod → s.mod.volosh.spdm = 8 → k < 8 →
    (s.mod.chamber k).valid = true → confidential s.mod k = true → (s.mod.chamber k).tag = tag →
    (∀ j < 8, j ≠ k → (s.mod.chamber j).tag ≠ tag) → bound s.mod k = false → (s.mod.chamber k).bindWanted = none →
    (∀ d < 8, (s.mod.cdie d).launches = []) →
    ((s.mod.chamber k).clearing = true → exec (.bind tag stamp) s = .next { s with mod := { s.mod with
      chambers := s.mod.chambers.put k { s.mod.chamber k with bindWanted := some stamp } } }) ∧
    ((s.mod.chamber k).clearing = false → (s.mod.chamber k).cleared = true → Claims.After (.bind tag stamp) s fun u =>
      bound u k = true ∧ (u.chamber k).kIn = Config.hkdf s.mod.volosh.secret 0 tag ∧
      (u.chamber k).kOut = Config.hkdf s.mod.volosh.secret 1 tag ∧ (u.chamber k).inCtr = 0 ∧ (u.chamber k).outCtr = 0 ∧
      u.mem = s.mod.mem)) ∧
  (∀ (k : Fin 8) (s : State), clearOver s.mod k = true → confidential s.mod k = false →
    Claims.After (.chamberClearDone k) s fun u => (u.chamber k).clearing = false ∧ (u.chamber k).cleared = true ∧
      (∀ x < 32, stackOwner s.mod x = some k.val → stackState s.mod x = 7 → stackState u x = 1 ∨ stackState u x = 2) ∧
      u.mem = s.mod.mem) ∧
  (∀ (k : Fin 8) (slot : List Byte) (s : State), Claims.BounceReady s.mod k →
    match openRecord (s.mod.chamber k) slot with
    | none => ∀ c ∈ [Instr.bounceNop k slot, Instr.bounceLoad k slot, Instr.bounceExport k slot .good],
        Claims.After c s fun u => bound u k = false
    | some pt =>
      (bOp pt = 3 → Claims.After (.bounceNop k slot) s fun u => Claims.Consumed s.mod k u ∧ u.mem = s.mod.mem) ∧
      (bOp pt = 2 → ∀ e, Claims.After (.bounceExport k slot e) s fun u => Claims.Consumed s.mod k u ∧
        (s.mod.chamber k).outCtr < (u.chamber k).outCtr) ∧
      (bOp pt = 1 → inChamber s.mod k (bAddr pt) (pt.drop 32).length = false → Claims.After (.bounceLoad k slot) s fun u =>
        Claims.Consumed s.mod k u ∧ (u.chamber k).outCtr = (s.mod.chamber k).outCtr + 1 ∧ u.mem = s.mod.mem) ∧
      (bOp pt = 1 → bMeasure pt = false → bCen pt = false → bAddr pt % 64 = 0 → bLen pt = (pt.drop 32).length →
        inChamber s.mod k (bAddr pt) (bLen pt) = true → ∀ st off, locate (bAddr pt) = .stack st off →
        (s.mod.stk st).dropped = [] →
        stackStatus s.mod st off (bLen pt) (some k.val) true = stOk → Claims.After (.bounceLoad k slot) s fun u =>
          Claims.Consumed s.mod k u ∧ (u.chamber k).outCtr = (s.mod.chamber k).outCtr ∧
          u.mem = memWrite s.mod.mem (bAddr pt) (pt.drop 32)))

/-- The drip clock, sensors, inputs and resets (R430, R438–R447, R463, R481, R482, R487, R541, R542): the lock goes
with the clock; a sensor keeps its good reading and is excluded without one; heat takes its pin low; a mask ends; a
warm reset withdraws first, then loses what the dies held and keeps the time; power takes everything but the straps.
What a reset drops is a reading (logs 31, 81). -/
def Obligations.ClocksThermalAndResets : Prop :=
  (∀ s : State, s.mod.flag TM_STATUS TM_STATUS_DRIP_LOST = false →
    Claims.After .dripLoss s fun u => u.flag TM_STATUS TM_STATUS_DRIP_LOST = true ∧
      u.flag TM_STATUS TM_STATUS_LOCKED = false ∧ u.now = s.mod.now ∧ u.mem = s.mod.mem) ∧
  (∀ s : State, s.mod.flag TM_STATUS TM_STATUS_DRIP_LOST = true →
    (s.mod.queue (qDie mgmtDie)).recs.length < queueCap (qDie mgmtDie) →
    Claims.After .dripRestore s fun u => u.flag TM_STATUS TM_STATUS_DRIP_LOST = false ∧
      Claims.Recorded s.mod (qDie mgmtDie) 0x0D02 clsTransient u ∧ u.mem = s.mod.mem) ∧
  (∀ (sn : Sensor) (first : Int) (second : Option Int) (s : State), s.mod.dieState (sensorDie sn) ≠ 0 →
    (s.mod.sensor (sensorKey sn)).excluded = false → degC (-40) ≤ first → first ≤ degC 150 →
    Claims.After (.sensorSample sn (some first) second) s fun u =>
      (u.sensor (sensorKey sn)).last = some first ∧ (u.sensor (sensorKey sn)).excluded = false ∧
      (degC 105 < first → u.pins.thermLow = true)) ∧
  (∀ (sn : Sensor) (first second : Option Int) (s : State), s.mod.dieState (sensorDie sn) ≠ 0 →
    goodReading first = none → goodReading second = none →
    Claims.After (.sensorSample sn first second) s fun u =>
      (u.sensor (sensorKey sn)).last = none ∧ (u.sensor (sensorKey sn)).excluded = true) ∧
  (∀ (n : Fin 22) (s : State), s.mod.flag (TH_DIE n) TH_DIE_ISOLATED = true →
    (∀ t ∈ dieTemps s.mod n, t ≤ degC 85) →
    Claims.After (.thermalRelease n) s fun u => u.flag (TH_DIE n) TH_DIE_ISOLATED = false ∧
      u.dieState n = s.mod.dieState n ∧ u.mem = s.mod.mem) ∧
  (∀ (n : Fin 19) (s : State), s.mod.flag (CP_INPUT n) CP_INPUT_MASKED = true →
    Claims.After (.inputMaskEnd n (s.mod.flag (CP_INPUT n) CP_INPUT_LEVEL)) s fun u =>
      u.flag (CP_INPUT n) CP_INPUT_MASKED = false ∧
      u.flag (CP_INPUT n) CP_INPUT_LEVEL = s.mod.flag (CP_INPUT n) CP_INPUT_LEVEL ∧ u.rst.edges.get? n = none ∧
      u.mem = s.mod.mem) ∧
  (∀ (n : Fin 19) (s : State), n.val ≠ 2 → s.mod.flag (CP_INPUT n) CP_INPUT_LEVEL = false →
    (s.mod.queue (qDie mgmtDie)).recs.length < queueCap (qDie mgmtDie) →
    Claims.After (.heldLevelReport n) s fun u => Claims.Recorded s.mod (qDie mgmtDie) 0x0D04 clsTransient u ∧
      u.mem = s.mod.mem) ∧
  (∀ s : State, s.mod.flag (CP_INPUT 0) CP_INPUT_MASKED = false → s.mod.flag (CP_INPUT 0) CP_INPUT_LEVEL = true →
    s.mod.rst.powerGood = true → s.mod.fabric.withdrawing = false → (∀ p < 64, s.mod.portUp p = false) →
    Claims.After .warmReset s fun u => u.rst.resetHeld = true ∧ u.rst.planned = true ∧ u.thalli = [] ∧ u.chambers = [] ∧
      (∀ a < 2 ^ 52, memByte u.mem a = 0) ∧ u.now = s.mod.now ∧ u.pins.laserEn = s.mod.pins.laserEn ∧
      u.trust.headerSeq = s.mod.trust.headerSeq ∧ u.trust.reportSeq = s.mod.trust.reportSeq) ∧
  (∀ (p : Nat) (s : State), s.mod.flag (CP_INPUT 0) CP_INPUT_MASKED = false →
    s.mod.flag (CP_INPUT 0) CP_INPUT_LEVEL = true → s.mod.rst.powerGood = true → s.mod.fabric.withdrawing = false →
    s.mod.fabric.withdrawn = false → p < 64 → s.mod.portUp p = true → s.mod.planKind p ∈ [1, 2, 3, 6] →
    Claims.After .warmReset s fun u => u.rst.warmPending = true ∧ u.fabric.withdrawing = true ∧
      u.fabric.withdrawReason = 0 ∧ u.thalli = s.mod.thalli ∧ u.mem = s.mod.mem) ∧
  (∀ s : State, s.mod.flag (CP_INPUT 0) CP_INPUT_MASKED = false → s.mod.flag (CP_INPUT 0) CP_INPUT_LEVEL = false →
    s.mod.flag MOD_POSITION MOD_POSITION_STRAPS_VALID = false → s.mod.rst.phaseB = false →
    Claims.After .modResetRelease s fun u => u.rst.resetHeld = false ∧ u.flag (CP_INPUT 0) CP_INPUT_LEVEL = true ∧
      u.mem = s.mod.mem) ∧
  (∀ s : State, s.mod.flag (CP_INPUT 1) CP_INPUT_MASKED = false → s.mod.flag (CP_INPUT 1) CP_INPUT_LEVEL = true →
    Claims.After .powerFail s fun u => u.rst.powerGood = false ∧ u.pins.laserEn = 0 ∧ u.thalli = [] ∧ u.queues = [] ∧
      u.journal = [] ∧ u.sessions = [] ∧ (∀ a < 2 ^ 52, memByte u.mem a = 0) ∧
      u.reg MOD_POSITION = s.mod.reg MOD_POSITION ∧ u.now = s.mod.now) ∧
  (∀ (present : BitVec 22) (s : State), s.mod.flag (CP_INPUT 1) CP_INPUT_MASKED = false →
    s.mod.flag (CP_INPUT 1) CP_INPUT_LEVEL = false → s.mod.flag MOD_POSITION MOD_POSITION_STRAPS_VALID = false →
    s.mod.rst.phaseB = false →
    Claims.After (.coldStart false present) s fun u => u.rst.powerGood = true ∧
      u.trust.coldStarts = s.mod.trust.coldStarts + 1 ∧ u.trust.halted = false ∧ u.fld TR_BOOT TR_BOOT_WARM_STARTS = 0 ∧
      u.dieState mgmtDie = 3 ∧ u.mem = s.mod.mem) ∧
  (∀ (present : BitVec 22) (s : State), s.mod.flag (CP_INPUT 1) CP_INPUT_MASKED = false →
    s.mod.flag (CP_INPUT 1) CP_INPUT_LEVEL = false → s.mod.flag (CP_INPUT 0) CP_INPUT_LEVEL = false →
    s.mod.rst.phaseB = false →
    Claims.After (.coldStart false present) s fun u => u.rst.resetHeld = true ∧
      u.rst.heldDies = (presentList present).filter (fun n => n ≠ mgmtDie) ∧ u.dieState mgmtDie = 3 ∧
      (∀ n < 22, n ≠ mgmtDie → u.dieState n = s.mod.dieState n) ∧ u.mem = s.mod.mem) ∧
  (∀ s : State, Claims.After .vaonLoss s fun u => u.now = 0 ∧ u.regs = [] ∧ u.snap = [] ∧ u.rst.powerGood = false ∧
    u.rst.edges = [] ∧ u.pins.laserEn = 0 ∧ u.thalli = [] ∧ (∀ a < 2 ^ 52, memByte u.mem a = 0))

namespace Sys2Proof.Claims

/-- A mailbox is open to its requester and free, and trusted firmware takes gates (R455–R457). -/
abbrev GateOpen (m : Mod) (mb : Nat) : Prop :=
  tfwAlive m = true ∧ m.flag (TR_GATE_STAT mb) TR_GATE_STAT_BUSY = false ∧ mbOpen m mb = true ∧
  (m.fld TR_STATE TR_STATE_STATE = 2 ∨ m.fld TR_STATE TR_STATE_STATE = 4)

/-- A gate's request has been answered (R455). -/
def Answered (mb gate code : Nat) (u : Mod) : Prop :=
  u.fld (TR_GATE_STAT mb) TR_GATE_STAT_RESULT = code ∧ u.fld (TR_GATE_STAT mb) TR_GATE_STAT_GATE = gate ∧
  u.flag (TR_GATE_STAT mb) TR_GATE_STAT_BUSY = false ∧ u.flag (TR_GATE_CTL mb) TR_GATE_CTL_GO = false

/-- A gate's flash write is under way; its request stays BUSY (R455). -/
def InFlash (m : Mod) (mb gate : Nat) (u : Mod) : Prop :=
  u.flag (TR_GATE_STAT mb) TR_GATE_STAT_BUSY = true ∧ u.fld (TR_GATE_STAT mb) TR_GATE_STAT_GATE = gate ∧
  u.flag (TR_GATE_CTL mb) TR_GATE_CTL_GO = true ∧ u.trust.flash = m.trust.flash ++ [.gate mb gate]

end Sys2Proof.Claims

/-- Trusted firmware and flash (R326, R334, R335, R453, R454, R460–R466, R470–R474): service firmware starts again; lockstep
cores restart, or halt at a second mismatch; started slots are confirmed; ledger requests are queued and written;
update chunks and commits wait for flash, and a commit then names its slot; commissioning pages are applied with the
last one. A start time is written and not loaded; a checked window entry is accepted and written to the table at the next
tick (R335, R448). Compaction as one effect, the numbering of commissioning parts and the tick that writes a window
entry are the model's (logs 26, 28, 30, 98). -/
def Obligations.TrustedFirmware : Prop :=
  (∀ s : State, s.mod.trust.sfwUp = true → tfwAlive s.mod = true →
    (s.mod.queue (qDie mgmtDie)).recs.length < queueCap (qDie mgmtDie) →
    Claims.After .sfwWatchdog s fun u =>
      u.trust = { s.mod.trust with sfwUp := slotGood s.mod.trust.sfw 2 s.mod.trust.sfw.runs } ∧
      u.scores = s.mod.scoresSent ∧
      Claims.Recorded s.mod (qDie mgmtDie) 0x0E03 clsLasting u ∧ u.mem = s.mod.mem) ∧
  (∀ (pc : Word) (s : State), tfwAlive s.mod = true →
    Claims.After (.lockstepMismatch pc false) s fun u => u.trust.halted = false ∧
      u.fld TR_STATE TR_STATE_LOCKSTEP = min 255 (s.mod.fld TR_STATE TR_STATE_LOCKSTEP + 1) ∧
      (∀ mb < 3, s.mod.flag (TR_GATE_STAT mb) TR_GATE_STAT_BUSY = true →
        Claims.Answered mb (s.mod.fld (TR_GATE_STAT mb) TR_GATE_STAT_GATE) 9 u) ∧ u.mem = s.mod.mem) ∧
  (∀ (pc : Word) (s : State), tfwAlive s.mod = true → 0 < s.mod.fld TR_STATE TR_STATE_LOCKSTEP →
    Claims.After (.lockstepMismatch pc true) s fun u => u.trust.halted = true ∧ u.fld TR_STATE TR_STATE_STATE = 5 ∧
      u.pins.faultLow = true ∧ u.flag TH_STATUS TH_STATUS_FAULT = true ∧ u.mem = s.mod.mem) ∧
  (∀ s : State, s.mod.trust.confirmWait = true → s.mod.trust.halted = false →
    (∀ n ∈ s.mod.trust.prevDies, s.mod.dieRuns n = true) →
    Claims.After .slotConfirm s fun u => u.trust = { s.mod.trust with
        tfw := confirmKind s.mod.trust.tfw, sfw := confirmKind s.mod.trust.sfw, img := confirmKind s.mod.trust.img
        confirmWait := false, headerSeq := s.mod.trust.headerSeq + 1 } ∧
      u.fld TR_STATE TR_STATE_PENDING = b01 u.trust.tfw.pending.isSome + 2 * b01 u.trust.sfw.pending.isSome +
        4 * b01 u.trust.img.pending.isSome ∧ u.mem = s.mod.mem) ∧
  (∀ (d : Fin 4) (r : BitVec 512) (rest : List (BitVec 512)) (s : State), (s.mod.mdie d).ledgerReqs = r :: rest →
    tfwAlive s.mod = true → s.mod.trust.ledgerQueue = [] → s.mod.trust.flash = [] →
    Claims.After (.ledgerRequest d) s fun u => (u.mdie d).ledgerReqs = rest ∧ u.trust.ledgerQueue = [] ∧
      u.trust.flash = [.append r false] ∧ u.mem = s.mod.mem) ∧
  (∀ (r : BitVec 512) (again : Bool) (s : State), s.mod.trust.flash = [.append r again] → tfwAlive s.mod = true →
    s.mod.trust.ledgerQueue = [] → s.mod.trust.used < 31000 →
    Claims.After (.flashWriteDone true) s fun u => u.trust = { s.mod.trust with
        flash := [], used := s.mod.trust.used + 1
        ledger := s.mod.trust.ledger ++ [ledgerRec r s.mod.trust.used s.mod.trust.generation.toNat] } ∧
      u.fld TR_LEDGER TR_LEDGER_RECORDS = s.mod.trust.used + 1 ∧ u.mem = s.mod.mem) ∧
  (∀ (mb kind : Nat) (s : State), s.mod.trust.flash = [.gate mb 7] → tfwAlive s.mod = true → mb < 3 →
    argOf s.mod mb 0 = kind → 1 ≤ kind → kind ≤ 3 →
    Claims.After (.flashWriteDone true) s fun u =>
      (kindOf u.trust kind).pending = some (kindOf s.mod.trust kind).inactive ∧ (kindOf u.trust kind).tries = 0 ∧
      u.trust.headerSeq = s.mod.trust.headerSeq + 1 ∧ u.trust.flash = [] ∧ Claims.Answered mb 7 0 u ∧
      u.mem = s.mod.mem) ∧
  (∀ (mb : Nat) (s : State), s.mod.trust.flash = [.gate mb 9] → tfwAlive s.mod = true → mb < 3 →
    argOf s.mod mb 1 = 1 →
    Claims.After (.flashWriteDone true) s fun u => u.trust.commParts.get? (argOf s.mod mb 0) =
        some ((((s.mod.trust.commPend.filter fun x => x.1 = argOf s.mod mb 0).map (·.2)).flatten).take
          (partSize (argOf s.mod mb 0))) ∧
      (∀ x ∈ u.trust.commPend, x.1 ≠ argOf s.mod mb 0) ∧ Claims.Answered mb 9 0 u ∧ u.mem = s.mod.mem) ∧
  (∀ (mb : Fin 3) (kind idx : Word) (page : List Byte) (s : State), mb.val ≠ 0 → Claims.GateOpen s.mod mb →
    1 ≤ kind.toNat → kind.toNat ≤ 3 → idx.toNat < slotSize kind.toNat / 4096 →
    (∀ x ∈ s.mod.trust.updates, x.kind ≠ kind.toNat) →
    Claims.After (.updateChunk mb kind idx page) s fun u => Claims.InFlash s.mod mb 6 u ∧
      u.trust.updates = s.mod.trust.updates ++ [⟨kind.toNat, mb, [(idx.toNat, page)]⟩] ∧
      (kindOf u.trust kind.toNat).slots =
        setAt (kindOf s.mod.trust kind.toNat).slots (kindOf s.mod.trust kind.toNat).inactive slotEmpty ∧
      u.mem = s.mod.mem) ∧
  (∀ (mb : Fin 3) (kind len : Word) (x : Update) (bs : List Byte) (s : State), mb.val ≠ 0 → Claims.GateOpen s.mod mb →
    1 ≤ kind.toNat → kind.toNat ≤ 3 → len.toNat ≤ slotSize kind.toNat → updateOf s.mod.trust kind.toNat = some x →
    updateBytes x len.toNat = some bs → commitCode s.mod mb kind.toNat len.toNat true = 0 →
    Claims.After (.updateCommit mb kind len true) s fun u => Claims.InFlash s.mod mb 7 u ∧
      (kindOf u.trust kind.toNat).slots = setAt (kindOf s.mod.trust kind.toNat).slots
        (kindOf s.mod.trust kind.toNat).inactive (writtenSlot s.mod kind.toNat bs) ∧ u.mem = s.mod.mem) ∧
  (∀ (part : Word) (last : Bool) (page : List Byte) (signed : Bool) (s : State), Claims.GateOpen s.mod 2 →
    s.mod.trust.maint = true → part.toNat < 5 → rootGuarded s.mod part.toNat page = false ∨ signed = true →
    Claims.After (.commission 2 part last page signed) s fun u => Claims.InFlash s.mod 2 9 u ∧
      u.trust.commPend = s.mod.trust.commPend ++ [(part.toNat, page)] ∧ u.mem = s.mod.mem) ∧
  (∀ (mb : Fin 3) (v : Word) (s : State), mb.val ≠ 0 → Claims.GateOpen s.mod mb → isSource s.mod = true →
    s.mod.fabric.opened = false →
    Claims.After (.timeStart mb v) s fun u => u.reg TM_START = v ∧ u.now = s.mod.now ∧ Claims.Answered mb 5 0 u ∧
      u.mem = s.mod.mem) ∧
  (∀ (mb : Fin 3) (k win : Nat) (w : Win) (s : State), mb.val ≠ 0 → Claims.GateOpen s.mod mb → k < 8 → win < 256 →
    (s.mod.chamber k).valid = true → windowOk (s.mod.chamber k) w = true →
    Claims.After (.windowGate mb (BitVec.ofNat 64 k) (BitVec.ofNat 64 win) w.w0 w.w1 w.w2 w.w3) s fun u =>
      u.winNext.get? (256 * k + win) = some w ∧ u.windows = s.mod.windows ∧
      Claims.Answered mb 1 0 u ∧ u.fld (TR_GATE_STAT mb) TR_GATE_STAT_SERIAL =
        (s.mod.fld (TR_GATE_STAT mb) TR_GATE_STAT_SERIAL + 1) % 2 ^ 32 ∧ u.mem = s.mod.mem) ∧
  (∀ (mb : Fin 3) (k win : Nat) (w : Win) (s : State), mb.val ≠ 0 → Claims.GateOpen s.mod mb → k < 8 → win < 256 →
    windowOk (s.mod.chamber k) w = false →
    Claims.After (.windowGate mb (BitVec.ofNat 64 k) (BitVec.ofNat 64 win) w.w0 w.w1 w.w2 w.w3) s fun u =>
      Claims.Answered mb 1 4 u ∧ u.windows = s.mod.windows ∧ u.winNext = s.mod.winNext ∧
        u.mem = s.mod.mem) ∧
  (∀ (k win : Nat) (w : Win) (m : Mod), m.winNext = [(256 * k + win, w)] → win < 256 →
    (tickAct.run m).window k win = w ∧ (tickAct.run m).winNext = [] ∧ (tickAct.run m).mem = m.mem ∧
    ∀ j x, (j, x) ≠ (k, win) → x < 256 → (tickAct.run m).window j x = m.window j x)

namespace Sys2Proof.Claims

/-- Margining of a stack begins with an action, and the gate is answered OK (R222). -/
def Margining (cmd : Fin 3 → Word → Word → Instr) (action : Nat) : Prop :=
  ∀ (mb : Fin 3) (d : Fin 4) (c : Fin 8) (s : State), mb.val ≠ 1 → GateOpen s.mod mb →
    stackCheck true (BitVec.ofNat 64 d) (BitVec.ofNat 64 c) s.mod = 0 →
    After (cmd mb (BitVec.ofNat 64 d) (BitVec.ofNat 64 c)) s fun u => stackState u (8 * d.val + c.val) = 4 ∧
      u.flag (MS_MAINT d) MS_MAINT_BUSY = true ∧ u.fld (MS_MAINT d) MS_MAINT_STACK = c.val ∧
      u.fld (MS_MAINT d) MS_MAINT_ACTION = action ∧ (u.stk (8 * d.val + c.val)).action = action ∧ Answered mb 4 0 u

end Sys2Proof.Claims

/-- The gates over feeds, stacks, dies, chambers and maintenance (R222, R371, R391, R455–R458, R468, R524): a request
that passes its checks has its effect and is answered OK; one that fails is answered with its code and changes nothing
else. One command for a request, and the codes of some refusals, are the model's (logs 76, 77). -/
def Obligations.GateCommands : Prop :=
  (∀ (mb : Fin 3) (f : Fin 16) (s : State), mb.val ≠ 1 → Claims.GateOpen s.mod mb → feedMayRise s.mod f = true →
    s.mod.pins.laserEn.getLsbD f = false →
    Claims.After (.feedEnable mb (BitVec.ofNat 64 f)) s fun u => u.flag (LS_FEED_CTL f) LS_FEED_CTL_ENABLE = true ∧
      Claims.feedState u f = 1 ∧ u.pins.laserEn.getLsbD f = true ∧ Claims.Answered mb 2 0 u ∧ u.mem = s.mod.mem) ∧
  (∀ (mb : Fin 3) (f : Fin 16) (s : State), mb.val ≠ 1 → Claims.GateOpen s.mod mb →
    s.mod.trust.image.feedAllow.getLsbD f = false →
    Claims.After (.feedEnable mb (BitVec.ofNat 64 f)) s fun u => Claims.Answered mb 2 3 u ∧ u.pins = s.mod.pins ∧
      u.mem = s.mod.mem) ∧
  (∀ (mb : Fin 3) (f : Fin 16) (s : State), mb.val ≠ 1 → Claims.GateOpen s.mod mb → feedSelected s.mod f = false →
    Claims.After (.feedDisable mb (BitVec.ofNat 64 f)) s fun u => u.flag (LS_FEED_CTL f) LS_FEED_CTL_ENABLE = false ∧
      u.pins.laserEn.getLsbD f = false ∧ Claims.feedState u f =
        (if s.mod.flag (LS_FEED_STAT f) LS_FEED_STAT_FAULT_N then 0 else 5) ∧ Claims.Answered mb 2 0 u ∧
      u.mem = s.mod.mem) ∧
  (∀ (mb : Fin 3) (i : Fin 8) (f : Fin 16) (s : State), mb.val ≠ 1 → Claims.GateOpen s.mod mb →
    (s.mod.iodie i).hand = none → f.val / 2 = i.val → f.val ≠ activeFeed s.mod i → feedHealthy s.mod f = false →
    Claims.After (.feedHandover mb (BitVec.ofNat 64 i) (BitVec.ofNat 64 f)) s fun u =>
      u.fld (LS_DIE i) LS_DIE_REQ = f.val % 2 ∧ u.fld (LS_DIE i) LS_DIE_HANDOVER = 3 ∧
      u.fld (LS_DIE i) LS_DIE_ACTIVE = s.mod.fld (LS_DIE i) LS_DIE_ACTIVE ∧ Claims.Answered mb 3 0 u ∧
      u.mem = s.mod.mem) ∧
  Claims.Margining .stackMargin 1 ∧ Claims.Margining .stackMarginReturn 2 ∧
  (∀ (mb : Fin 3) (d : Fin 4) (c : Fin 8) (s : State), mb.val ≠ 1 → Claims.GateOpen s.mod mb →
    stackCheck false (BitVec.ofNat 64 d) (BitVec.ofNat 64 c) s.mod = 0 →
    Claims.After (.stackRemove mb (BitVec.ofNat 64 d) (BitVec.ofNat 64 c)) s fun u =>
      stackState u (8 * d.val + c.val) = 3 ∧ Claims.Answered mb 4 0 u) ∧
  (∀ (n : Fin 22) (s : State), Claims.GateOpen s.mod 2 → s.mod.trust.image.cmdAllow.getLsbD 0 = true → n.val ≠ mgmtDie →
    2 ≤ s.mod.dieState n →
    Claims.After (.isolateDie 2 (BitVec.ofNat 64 n)) s fun u => u.dieState n = 1 ∧
      u.flag (DD_DIE n) DD_DIE_HELD = true ∧ Claims.Answered 2 8 0 u) ∧
  (∀ s : State, Claims.GateOpen s.mod 2 → s.mod.trust.image.cmdAllow.getLsbD 1 = true → s.mod.fabric.withdrawing = false →
    s.mod.fabric.withdrawn = false →
    Claims.After (.withdrawCommand 2) s fun u =>
      (if withdrawPorts s.mod = [] then u.fabric.withdrawn = true else u.fabric.withdrawing = true) ∧
      u.fabric.withdrawReason = 1 ∧ Claims.Answered 2 8 0 u ∧ u.mem = s.mod.mem) ∧
  (∀ (source : BitVec 14) (k : Fin 8) (ty : Fin 4) (a : Word) (len step fin : Nat) (st off : Nat) (s : State),
    Claims.GateOpen s.mod 2 → s.mod.trust.image.cmdAllow.getLsbD 2 = true → s.mod.shadow = none →
    (s.mod.chamber k).valid = true → locate a.toNat = .stack st off → stackOwner s.mod st = some k.val →
    len ≤ roomAt a.toNat → a.toNat % 64 = 0 → len ≤ 2 ^ 26 → len % shElem ty = 0 → validId source.toNat = true →
    (s.mod.chamber k).cntFirst ≤ step → step < (s.mod.chamber k).cntFirst + (s.mod.chamber k).cntNum → step < 4096 →
    (s.mod.chamber k).cntFirst ≤ fin → fin < (s.mod.chamber k).cntFirst + (s.mod.chamber k).cntNum → fin < 4096 →
    Claims.After (.startShadow 2 (BitVec.ofNat 64 source.toNat) (BitVec.ofNat 64 (k.val + 8 * ty.val)) a
        (BitVec.ofNat 64 len) (BitVec.ofNat 64 (step + 2 ^ 16 * fin))) s fun u =>
      u.shadow = some { source := source, chamber := k, ety := ty, base := a.toNat, len := len, stepCnt := step
                        doneCnt := fin, steps := [], running := none, own := [], peer := [], lastStep := 0 } ∧
      u.fld ER_SHADOW_STAT ER_SHADOW_STAT_ROLE = (if source.toNat = s.mod.selfId then 1 else 2) ∧
      u.fld ER_SHADOW_STAT ER_SHADOW_STAT_COMPARED = 0 ∧ Claims.Answered 2 8 0 u ∧ u.mem = s.mod.mem) ∧
  (∀ (k : Fin 8) (s : State), Claims.GateOpen s.mod 2 → s.mod.trust.image.cmdAllow.getLsbD 3 = true →
    (s.mod.chamber k).valid = true → (s.mod.chamber k).clearing = false →
    Claims.After (.clearChamber 2 (BitVec.ofNat 64 k)) s fun u => (u.chamber k).clearing = true ∧
      (u.chamber k).st = 0 ∧ (u.chamber k).clears = (s.mod.chamber k).clears + 1 ∧ Claims.Answered 2 8 0 u) ∧
  (∀ s : State, Claims.GateOpen s.mod 2 → s.mod.trust.image.cmdAllow.getLsbD 4 = true → s.mod.trust.maint = false →
    Claims.After (.maintEnter 2) s fun u => u.trust.maint = true ∧ u.fld TR_STATE TR_STATE_STATE = 4 ∧
      (∀ k < 8, (s.mod.chamber k).valid = true → (u.chamber k).st = 0) ∧ Claims.Answered 2 8 0 u) ∧
  (∀ s : State, Claims.GateOpen s.mod 2 → s.mod.trust.image.cmdAllow.getLsbD 5 = true → s.mod.trust.maint = true →
    s.mod.fld MOD_POSITION MOD_POSITION_BOOT_MODE ≠ 1 →
    Claims.After (.maintLeave 2) s fun u => u.trust.maint = false ∧ u.fld TR_STATE TR_STATE_STATE = 2 ∧
      Claims.Answered 2 8 0 u ∧ u.mem = s.mod.mem) ∧
  (∀ s : State, Claims.GateOpen s.mod 2 → s.mod.trust.image.cmdAllow.getLsbD 5 = false →
    Claims.After (.maintLeave 2) s fun u => u.trust.maint = s.mod.trust.maint ∧ Claims.Answered 2 8 3 u ∧
      u.mem = s.mod.mem)

namespace Sys2Proof.Claims

/-- A record of the peer is due on a link, and is good (R502, R503). -/
abbrev RecordDue (m : Mod) (l type step : Nat) (r : BitVec 512) : Prop :=
  m.fld (DD_LINK l) DD_LINK_STATE = dlNegotiating ∧ (m.link l).step = step ∧ recordOk type (m.link l).sender r = true

/-- A capability record of the peer is kept in order, and nothing else changes (R502). -/
def RecordKept (c : Fin 57 → BitVec 512 → Instr) (type : Nat) : Prop :=
  ∀ (l : Fin 57) (r : BitVec 512) (s : State), RecordDue s.mod l type 3 r → exec (c l r) s = .next { s with mod := { s.mod with
    links := s.mod.links.put l { s.mod.link l with
      sender := (s.mod.link l).sender + 1, records := (s.mod.link l).records ++ [r] } } }

/-- A negotiation step has failed once and is made again from IDENT (R502). -/
def NegotiatesAgain (m : Mod) (l code : Nat) (u : Mod) : Prop :=
  u.fld (DD_DIE (peerOf l)) DD_DIE_NEG_RESULT = code ∧ (u.link l).tries = 1 ∧ (u.link l).step = 2 ∧
  (u.link l).records = [hostIdent m l] ∧ u.fld (DD_LINK l) DD_LINK_STATE = dlNegotiating ∧
  u.out = .zalaoft l (hostIdent m l) :: m.out ∧ u.mem = m.mem

end Sys2Proof.Claims

/-- Dies and their links (R483, R488, R491, R494–R507): a die without heartbeats is Isolated; one whose cause has
cleared joins; a test has its result; a link trains, repairs and negotiates record by record up to an agreement; the
accessory die's reads are served and its other requests denied. Details of the negotiation are readings (logs 29, 82).
-/
def Obligations.DiesAndLinks : Prop :=
  (∀ (n : Fin 22) (s : State), 2 ≤ s.mod.dieState n → n.val ≠ mgmtDie →
    Claims.After (.heartbeatLoss n) s fun u => u.dieState n = 1 ∧ u.fld (DD_DIE n) DD_DIE_CAUSE = 3) ∧
  (∀ (n : Fin 22) (s : State), s.mod.dieState n = 1 → s.mod.rst.powerGood = true → s.mod.rst.phaseB = true →
    s.mod.flag (DD_DIE n) DD_DIE_HELD = false → s.mod.flag (TH_DIE n) TH_DIE_ISOLATED = false →
    Claims.After (.dieRejoin n) s fun u => u.dieState n = 2 ∧ u.fld (DD_DIE n) DD_DIE_TEST_RESULT = 0 ∧
      u.mem = s.mod.mem) ∧
  (∀ (n : Fin 22) (s : State), 2 ≤ s.mod.dieState n → n.val ≠ mgmtDie → s.mod.fld (DD_DIE n) DD_DIE_TEST_RESULT = 0 →
    s.mod.rst.phaseB = false →
    Claims.After (.standaloneTestDone n 1) s fun u => u.fld (DD_DIE n) DD_DIE_TEST_RESULT = 1 ∧
      u.dieState n = s.mod.dieState n ∧ u.mem = s.mod.mem) ∧
  (∀ (n : Fin 22) (code : BitVec 4) (s : State), s.mod.dieState n = 2 → n.val ≠ mgmtDie →
    s.mod.fld (DD_DIE n) DD_DIE_TEST_RESULT = 0 → 2 ≤ code.toNat → s.mod.rst.phaseB = false →
    Claims.After (.standaloneTestDone n code) s fun u => u.fld (DD_DIE n) DD_DIE_TEST_RESULT = code.toNat ∧
      u.dieState n = 1 ∧ u.fld (DD_DIE n) DD_DIE_CAUSE = 7 ∧ u.mem = s.mod.mem) ∧
  (∀ (n : Fin 22) (s : State), s.mod.trust.image.jtagLock = false ∨ s.mod.trust.testEn = true → 2 ≤ s.mod.dieState n →
    n.val ≠ mgmtDie →
    Claims.After (.jtagStandaloneTest n) s fun u => u.fld (DD_DIE n) DD_DIE_TEST_RESULT = 0 ∧
      u.dieState n = s.mod.dieState n ∧ (∀ l ∈ linksOf n, u.fld (DD_LINK l) DD_LINK_STATE = dlLoop ∧
        u.link l = { Link.init with dead := (s.mod.link l).dead }) ∧
      (∀ q, q ≠ DD_DIE n → (∀ l ∈ linksOf n, q ≠ DD_LINK l) → u.reg q = s.mod.reg q) ∧ u.mem = s.mod.mem) ∧
  (∀ (g : Fin 200) (s : State), (s.mod.cdie (g.val / 25)).resetting.contains (g.val % 25) = true →
    Claims.After (.sorusResetDone g) s fun u => (u.cdie (g.val / 25)).resetting.contains (g.val % 25) = false ∧
      u.domain g = 0 ∧ u.flag (CP_SORUS g) CP_SORUS_DEEP = true ∧ u.mem = s.mod.mem) ∧
  (∀ (l : Fin 57) (s : State), s.mod.fld (DD_LINK l) DD_LINK_STATE = dlTraining → 32 ≤ l.val →
    Claims.After (.ucieTrainingDone l true) s fun u => u.fld (DD_LINK l) DD_LINK_STATE = dlNegotiating ∧
      (u.link l).step = 2 ∧ (u.link l).records = [hostIdent s.mod l] ∧
      u.out = .zalaoft l (hostIdent s.mod l) :: s.mod.out ∧ u.mem = s.mod.mem) ∧
  (∀ (l : Fin 57) (s : State), s.mod.fld (DD_LINK l) DD_LINK_STATE = dlTraining → l.val < 32 →
    Claims.After (.ucieTrainingDone l true) s fun u => u.fld (DD_LINK l) DD_LINK_STATE = dlRunning ∧
      u.fld (DD_LINK l) DD_LINK_EPOCH = (s.mod.fld (DD_LINK l) DD_LINK_EPOCH + 1) % 2 ^ 16) ∧
  (∀ (l : Fin 57) (s : State), s.mod.fld (DD_LINK l) DD_LINK_STATE = dlTraining → (s.mod.link l).tries = 0 →
    Claims.After (.ucieTrainingDone l false) s fun u => u.fld (DD_LINK l) DD_LINK_STATE = dlTraining ∧
      u.fld (DD_DIE (peerOf l)) DD_DIE_NEG_RESULT = 7 ∧ (u.link l).tries = 1 ∧ u.mem = s.mod.mem) ∧
  (∀ (l : Fin 57) (k : Fin 4) (pass : Bool) (s : State), s.mod.fld (DD_LINK l) DD_LINK_STATE = dlRunning →
    k.val < linkModules l → (s.mod.link l).dead.contains k.val = false →
    (s.mod.link l).dead.length + (if pass then 0 else 1) < linkModules l →
    Claims.After (.ucieLaneRepairDone l k pass) s fun u =>
      (u.link l).dead = (s.mod.link l).dead ++ (if pass then [] else [k.val]) ∧
      u.fld (DD_LINK l) DD_LINK_MODULES = linkModules l - (u.link l).dead.length ∧
      u.fld (DD_LINK l) DD_LINK_RETRAINS = (s.mod.fld (DD_LINK l) DD_LINK_RETRAINS + 1) % 2 ^ 32 ∧
      u.fld (DD_LINK l) DD_LINK_STATE = dlRunning ∧ u.mem = s.mod.mem) ∧
  (∀ (l : Fin 57) (r : BitVec 512) (s : State), Claims.RecordDue s.mod l 0x01 2 r →
    Claims.After (.zalaoftIdent l r) s fun u =>
      u.link l = { s.mod.link l with
        step := 3, sender := (s.mod.link l).sender + 1, records := (s.mod.link l).records ++ [r]
        identity := BitVec.ofNat 384 (rf r 12 48) } ∧ u.mem = s.mod.mem ∧
      (l.val ≠ 56 → u.regs = s.mod.regs)) ∧
  Claims.RecordKept .zalaoftLink 0x02 ∧ Claims.RecordKept .zalaoftFabric 0x03 ∧ Claims.RecordKept .zalaoftPorts 0x04 ∧
  Claims.RecordKept .zalaoftPool 0x05 ∧ Claims.RecordKept .zalaoftLedger 0x06 ∧ Claims.RecordKept .zalaoftTime 0x07 ∧
  Claims.RecordKept .zalaoftMgmt 0x08 ∧ Claims.RecordKept .zalaoftAccessory 0x09 ∧
  (∀ (l : Fin 57) (r : BitVec 512) (s : State), s.mod.fld (DD_LINK l) DD_LINK_STATE = dlNegotiating →
    (s.mod.link l).step = 3 → (s.mod.link l).tries = 0 → recordOk 0x02 (s.mod.link l).sender r = false →
    Claims.After (.zalaoftLink l r) s (Claims.NegotiatesAgain s.mod l 5)) ∧
  (∀ (l : Fin 57) (r : BitVec 512) (s : State), Claims.RecordDue s.mod l 0x0F 3 r → rf r 4 2 = (s.mod.link l).sender →
    requirement (dieMode s.mod (peerOf l)) (decide (l.val = 56)) ((s.mod.link l).records ++ [r]) = 0 →
    Claims.After (.capEnd l r) s fun u => (u.link l).step = 4 ∧
      (u.link l).agreed = agreeRecord s.mod l ((s.mod.link l).records ++ [r]) ∧
      u.out = .zalaoft l (u.link l).agreed :: s.mod.out ∧ u.regs = s.mod.regs ∧ u.mem = s.mod.mem) ∧
  (∀ (l : Fin 57) (s : State), s.mod.fld (DD_LINK l) DD_LINK_STATE = dlNegotiating → (s.mod.link l).step = 4 →
    Claims.Sends (.agree l (s.mod.link l).agreed) s (.zalaoft l (ackOf (s.mod.link l).sender (s.mod.link l).agreed))) ∧
  (∀ (l : Fin 57) (r : BitVec 512) (s : State), Claims.RecordDue s.mod l 0x11 4 r →
    rf r 4 56 = rf (s.mod.link l).agreed 4 56 →
    Claims.After (.agreeAck l r) s fun u => u.fld (DD_LINK l) DD_LINK_STATE = dlRunning ∧
      u.fld (DD_DIE (peerOf l)) DD_DIE_NEG_RESULT = 1 ∧
      u.trust.dieIds.get? (peerOf l) = some (s.mod.link l).identity) ∧
  (∀ (l : Fin 57) (s : State), s.mod.fld (DD_LINK l) DD_LINK_STATE = dlNegotiating → (s.mod.link l).tries = 0 →
    Claims.After (.negotiationTimeout l) s (Claims.NegotiatesAgain s.mod l 2)) ∧
  (∀ (pk : Packet) (e : Ecc) (s : State), 4096 < pk.data.length →
    exec (.accessoryRequest pk e) s = .fault .oversizePacket) ∧
  (∀ (pk : Packet) (e : Ecc) (s : State), pk.data.length ≤ 4096 → s.mod.dieRuns accDie = true →
    s.mod.dieRuns (memDie 0) = true → accessoryMem s.mod = true → s.mod.flag DD_ACC_CFG DD_ACC_CFG_CHAMBER_VALID = false →
    ∃ h : Header, Claims.Sends (.accessoryRequest pk e) s (.accessory ⟨h, []⟩) ∧ h.status.toNat = stDenied ∧
      h.tag = pk.hdr.tag ∧ h.dst = pk.hdr.src) ∧
  (∀ (pk : Packet) (st off : Nat) (s : State), pk.data = [] → s.mod.dieRuns accDie = true →
    s.mod.dieRuns (memDie 0) = true → accessoryMem s.mod = true → s.mod.flag DD_ACC_CFG DD_ACC_CFG_CHAMBER_VALID = true →
    s.mod.flag DD_ACC_CFG DD_ACC_CFG_MEM_EN = true → accessoryForm s.mod pk = true → formOk pk = true → pk.hdr.op = 1 →
    pk.hdr.addr.toNat % (touched pk).2 = 0 →
    stackStatus s.mod st off (touched pk).1 (some (s.mod.fld DD_ACC_CFG DD_ACC_CFG_CHAMBER)) false = stOk →
    (touched pk).1 ≤ roomAt pk.hdr.addr.toNat →
    Claims.ServedAtOnce s.mod { org := .accessory pk.hdr, kind := .read, addr := pk.hdr.addr.toNat, size := (touched pk).1
                                hint := 0, chamber := s.mod.fld DD_ACC_CFG DD_ACC_CFG_CHAMBER, cnt := none, stat := false
                                tag := pk.hdr.tag, pc := 0, word := 0, stamp := s.mod.now, rd := 0, run := 0 } st off →
    Claims.After (.accessoryRequest pk .good) s fun u => u.mem = s.mod.mem ∧
      ∃ h : Header, u.out = .accessory ⟨h, memRead s.mod.mem pk.hdr.addr.toNat (touched pk).1⟩ :: s.mod.out ∧
        h.status.toNat = stOk ∧ h.op = 0x41 ∧ h.tag = pk.hdr.tag ∧ h.dst = pk.hdr.src)

namespace Sys2Proof.Claims

/-- A session is open, and trusted firmware answers its messages (R522, R523). -/
abbrev SessionOpen (m : Mod) (id : Nat) (x : Session) : Prop :=
  tfwAlive m = true ∧ m.sessions.find? (fun x => x.id = id) = some x

end Sys2Proof.Claims

/-- The journal, scores and management sessions (R475, R518–R523): records are taken in order and numbered; each
unit's score takes its second; sessions open within their limits, and each message of one is answered. Session
numbers, the arbiter's indices and the words of SCORES are readings (logs 70, 71, 72). -/
def Obligations.JournalAndSessions : Prop :=
  (∀ (q : Nat) (r : Rec) (s : State), s.mod.rst.powerGood = true → s.mod.queues = [(q, ⟨[r], 0⟩)] →
    s.mod.journal.length < 16384 → s.mod.sessions = [] →
    Claims.After .recordTake s fun u => (u.queue q).recs = [] ∧ u.recPtr = (q + 1) % 576 ∧
      u.journal = s.mod.journal ++ [{ r with seq := BitVec.ofNat 32 (s.mod.fld ER_JNL_SEQ ER_JNL_SEQ_NEXT) }] ∧
      u.fld ER_JNL_SEQ ER_JNL_SEQ_NEXT = (s.mod.fld ER_JNL_SEQ ER_JNL_SEQ_NEXT + 1) % 2 ^ 64 ∧ u.out = s.mod.out ∧
      u.mem = s.mod.mem) ∧
  (∀ (q : Nat) (r : Rec) (s : State), s.mod.rst.powerGood = true → nextTaken s.mod.recPtr (queueHeads s.mod) = some (q, r) →
    Claims.After .recordTake s fun u =>
      { r with seq := BitVec.ofNat 32 (s.mod.fld ER_JNL_SEQ ER_JNL_SEQ_NEXT) } ∈ u.journal ∧ u.mem = s.mod.mem) ∧
  (∀ s : State, s.mod.trust.sfwUp = true → tfwAlive s.mod = true →
    Claims.After .scoreUpdate s fun u =>
      (∀ key ∈ scoredKeys s.mod, u.scores.getD key 0 = nextScore s.mod key) ∧
      (∀ key, key ∉ scoredKeys s.mod → u.scores.getD key 0 = s.mod.scores.getD key 0) ∧
      u.scoreIn = restInputs s.mod ∧ u.mem = s.mod.mem) ∧
  (∀ (control : Bool) (s : State), tfwAlive s.mod = true → s.mod.pins.phy.isSome = true → s.mod.sessions.length < 4 →
    control = false ∨ (∀ x ∈ s.mod.sessions, x.control = false) →
    exec (.sessionOpen control true) s = .next { s with mod := { s.mod with
      sessions := s.mod.sessions ++ [⟨freeSession s.mod, control, none⟩] } }) ∧
  (∀ (control chainOk : Bool) (s : State), chainOk = false ∨ 4 ≤ s.mod.sessions.length ∨
      (control = true ∧ ∃ x ∈ s.mod.sessions, x.control = true) →
    exec (.sessionOpen control chainOk) s = .next s) ∧
  (∀ (id : Nat) (s : State), exec (.sessionTimeout id) s = .next { s with mod := { s.mod with
    sessions := s.mod.sessions.filter fun x => x.id ≠ id } }) ∧
  (∀ (id : Nat) (tag : Word) (nonce : List Byte) (x : Session) (s : State), Claims.SessionOpen s.mod id x →
    nonce.length ≤ 48 →
    let told := { s.mod with out := .mgmt id 0x01 tag 0 [] :: s.mod.out }
    exec (.mgmtAttest id tag nonce) s = .next { s with mod := Claims.reported told (some id) nonce }) ∧
  (∀ (id : Nat) (tag first : Word) (count : Nat) (x : Session) (s : State), Claims.SessionOpen s.mod id x → count ≤ 1024 →
    Claims.Sends (.mgmtRecords id tag first count false) s (.records id tag (recordsFrom s.mod first.toNat count)) ∧
    Claims.After (.mgmtRecords id tag first count true) s fun u =>
      u.out = .records id tag (recordsFrom s.mod first.toNat count) :: s.mod.out ∧
      (∀ y ∈ u.sessions, y.id = id → y.follow = some tag) ∧ u.sessions.map (·.id) = s.mod.sessions.map (·.id)) ∧
  (∀ (id j : Nat) (tag : Word) (least : BitVec 16) (k : Nat × Nat) (x : Session) (s : State),
    Claims.SessionOpen s.mod id x → scoreKinds[j]? = some k →
    Claims.After (.mgmtScores id tag (BitVec.ofNat 8 (2 ^ j)) least) s fun u =>
      u.out = .mgmt id 0x03 tag 0 (scoreEntries s.mod j least.toNat k) :: s.mod.out ∧
      (∀ key ∈ exported s.mod least.toNat k, u.scoresSent.getD key 0 = s.mod.scores.getD key 0) ∧
      u.scores = s.mod.scores ∧ u.sessions = s.mod.sessions ∧ u.mem = s.mod.mem) ∧
  (∀ (id off count : Nat) (tag : Word) (x : Session) (s : State), Claims.SessionOpen s.mod id x → count ≤ 64 →
    off % 8 = 0 → ∃ ws : List Word, Claims.Sends (.mgmtRead id tag off count) s (.mgmt id 0x04 tag 0 ws) ∧
      ws.length = count ∧ ∀ i < count, ws.getD i 0 =
        if regAssigned (off + 8 * i) then regView s.mod (off + 8 * i) else 0) ∧
  (∀ (id : Nat) (tag : Word) (gate : BitVec 8) (args : List Word) (page : List Byte) (x : Session) (s : State),
    Claims.SessionOpen s.mod id x → x.control = true → args.length ≤ 8 → page.length ≤ 4096 →
    s.mod.flag (TR_GATE_STAT 2) TR_GATE_STAT_BUSY = false → 1 ≤ gate.toNat → gate.toNat ≤ 9 →
    Claims.After (.mgmtGate id tag gate args page) s fun u => u.fld (TR_GATE_CTL 2) TR_GATE_CTL_GATE = gate.toNat ∧
      u.flag (TR_GATE_CTL 2) TR_GATE_CTL_GO = true ∧ u.flag (TR_GATE_STAT 2) TR_GATE_STAT_BUSY = true ∧
      (∀ i < 8, u.reg (TR_GATE_ARG 2 i) = args.getD i 0) ∧
      (∀ w < 512, u.reg (TR_STAGE 2 w) = pageWord page w) ∧ u.trust.mgmtWait = some (id, tag) ∧ u.mem = s.mod.mem) ∧
  (∀ (id : Nat) (tag : Word) (gate : BitVec 8) (args : List Word) (page : List Byte) (x : Session) (s : State),
    Claims.SessionOpen s.mod id x → x.control = false →
    Claims.Sends (.mgmtGate id tag gate args page) s (.mgmt id 0xFF tag 2 [])) ∧
  (∀ (id : Nat) (tag : Word) (source : BitVec 14) (ok : Bool) (steps : List (Word × BitVec 384)) (x : Session) (s : State),
    Claims.SessionOpen s.mod id x → x.control = true → s.mod.shadow = none →
    Claims.Sends (.mgmtFeed id tag source ok steps) s (.mgmt id 0x07 tag 6 [])) ∧
  (∀ (id : Nat) (tag n : Word) (d : BitVec 384) (x : Session) (y : Shadow) (s : State), Claims.SessionOpen s.mod id x →
    x.control = true → s.mod.shadow = some y → s.mod.fld ER_SHADOW_STAT ER_SHADOW_STAT_ROLE = 2 →
    y.own.get? n.toNat = none →
    let fed := { y with peer := y.peer.put n.toNat d }
    exec (.mgmtFeed id tag y.source true [(n, d)]) s = .next { s with mod := { s.mod with
      shadow := some fed, out := .mgmt id 0x07 tag 0 [] :: s.mod.out } }) ∧
  (∀ (id : Nat) (s : State), exec (.mgmtHeartbeat id) s = .next s) ∧
  (∀ s : State, tfwAlive s.mod = true → exec .mgmtHeartbeatSend s = .next { s with mod := { s.mod with
    out := (s.mod.sessions.map fun x => Out.mgmt x.id 0x08 0 0 []).reverse ++ s.mod.out } })

/-- Shadowing, availability and the small ports (R525–R527, R547, R548): a due digest starts and completes, is kept or
compared; an unmatched one is counted; the hour's loss is reported; the PHY that answers is used; SMBus blocks are
register reads. What ends a role, and banding, are readings (logs 73, 74, 75). -/
def Obligations.ShadowAndFleet : Prop :=
  (∀ (d : Fin 4) (n : Nat) (rest : List Nat) (x : Shadow) (s : State), s.mod.shadow = some x → x.steps = n :: rest →
    shadowDie x = some d.val → x.running = none → s.mod.dieRuns (memDie d) = true →
    let bytes := bandBytes x.ety (s.mod.fld ER_SHADOW_CFG ER_SHADOW_CFG_BAND_BITS) (homeBytes s.mod x.base x.len)
    let started := { x with steps := rest, running := some (n, bytes) }
    exec (.shadowStep d) s = .next { s with mod := { s.mod with shadow := some started } }) ∧
  (∀ (n : Nat) (bs : List Byte) (x : Shadow) (s : State), s.mod.shadow = some x → x.running = some (n, bs) →
    s.mod.fld ER_SHADOW_STAT ER_SHADOW_STAT_ROLE = 2 → x.peer.get? n = none → x.stepCnt ≠ x.doneCnt →
    Claims.After .shadowDigestDone s fun u =>
      u.shadow = some { x with running := none, own := x.own.put n (Config.sha384 (bs ++ leBytes 8 n)) } ∧
      (∀ w < 6, u.reg (ER_SHADOW_DIG w) =
        BitVec.ofNat 64 (bitsOf (Config.sha384 (bs ++ leBytes 8 n)) (64 * w) 64)) ∧ u.mem = s.mod.mem) ∧
  (∀ (n : Nat) (bs : List Byte) (x : Shadow) (s : State), s.mod.shadow = some x → x.running = some (n, bs) →
    s.mod.fld ER_SHADOW_STAT ER_SHADOW_STAT_ROLE = 2 → x.peer.get? n = some (Config.sha384 (bs ++ leBytes 8 n)) →
    x.stepCnt ≠ x.doneCnt → s.mod.fld ER_SHADOW_STAT ER_SHADOW_STAT_COMPARED + 1 <
      s.mod.fld ER_SHADOW_CFG ER_SHADOW_CFG_PASS_STEPS →
    Claims.After .shadowDigestDone s fun u =>
      u.fld ER_SHADOW_STAT ER_SHADOW_STAT_RUN = 0 ∧ u.fld ER_SHADOW_STAT ER_SHADOW_STAT_COMPARED =
        s.mod.fld ER_SHADOW_STAT ER_SHADOW_STAT_COMPARED + 1 ∧
      (∃ y, u.shadow = some y ∧ y.lastStep = n ∧ y.own.get? n = none ∧ y.peer.get? n = none) ∧ u.mem = s.mod.mem) ∧
  (∀ (step : Word) (x : Shadow) (s : State), s.mod.shadow = some x →
    (x.own.get? step.toNat).isSome = true ∨ (x.peer.get? step.toNat).isSome = true →
    Claims.After (.shadowUnmatched step) s fun u =>
      u.shadow = some { x with own := x.own.del step.toNat, peer := x.peer.del step.toNat } ∧
      u.fld ER_SHADOW_STAT ER_SHADOW_STAT_UNMATCHED =
        min 65535 (s.mod.fld ER_SHADOW_STAT ER_SHADOW_STAT_UNMATCHED + 1) ∧ u.mem = s.mod.mem) ∧
  (∀ s : State, s.mod.lossHour / 1000000 < s.mod.lossNs / 1000000 →
    (s.mod.queue (qDie mgmtDie)).recs.length < queueCap (qDie mgmtDie) →
    Claims.After .availHourly s fun u => u.lossHour = s.mod.lossNs ∧ u.lossNs = s.mod.lossNs ∧
      Claims.Recorded s.mod (qDie mgmtDie) 0x1004 clsTransient u ∧ u.mem = s.mod.mem) ∧
  (∀ (p : Fin 32) (s : State), tfwAlive s.mod = true → s.mod.pins.phyReset = true → s.mod.pins.phy = none →
    exec (.phyScan (some p)) s = .next { s with mod := { s.mod with pins := { s.mod.pins with phy := some p.val } } }) ∧
  (∀ s : State, tfwAlive s.mod = true → s.mod.pins.phyReset = true → s.mod.pins.phy = none →
    (s.mod.queue (qDie mgmtDie)).recs.length < queueCap (qDie mgmtDie) →
    Claims.After (.phyScan none) s fun u => Claims.Recorded s.mod (qDie mgmtDie) 0x0D06 clsLasting u ∧
      u.pins = s.mod.pins ∧ u.mem = s.mod.mem) ∧
  (∀ s : State, s.mod.flag MOD_POSITION MOD_POSITION_STRAPS_VALID = true →
    Claims.Sends .smbusReadIdent s (.smbus [regView s.mod MOD_IDENT]) ∧
    Claims.Sends .smbusReadPosition s (.smbus [regView s.mod MOD_POSITION]) ∧
    Claims.Sends .smbusReadState s (.smbus [regView s.mod TR_STATE, regView s.mod TH_STATUS]) ∧
    Claims.Sends .smbusReadDieState s (.smbus [regView s.mod MOD_DIE_STATE]) ∧
    (∀ n : Fin 22, Claims.Sends (.smbusReadThDie n) s (.smbus [regView s.mod (TH_DIE n)])) ∧
    Claims.Sends .smbusReadAvail s (.smbus [regView s.mod ER_AVAIL]))

namespace Sys2Proof.Claims

/-- The register map in canonical form: rising offsets of assigned registers, reserved bits zero (R7, R43), and no register
listed that holds its Reset value. -/
def RegsWf (m : Mod) : Prop :=
  SMap.rising m.regs = true ∧
  ∀ e ∈ m.regs, regAssigned e.1 = true ∧ e.2 &&& regMask e.1 = e.2 ∧ e.2 ≠ regReset e.1

/-- What a counter's pool has issued is what was returned, what was retired and what the counter holds (R285). -/
def Conserves (m : Mod) (c : Nat) : Prop :=
  (m.pool c).issued = (m.pool c).returned + (m.pool c).retired + (m.counter c).toNat

end Sys2Proof.Claims

/-- The module right after reset (R14, R85, R88, R450, R463): every register reads its Reset value; no die runs, no
port is up, no thallus has a stage and no counter holds an arrival; memory lists nothing and no command waits; the
invariants hold. What no Reset column gives is the model's (logs 2, 3, 8, 12 and 19). -/
def Obligations.ResetState : Prop :=
  (∀ off, State.reset.mod.reg off = regReset off ∧ State.reset.mod.snapReg off = regReset off) ∧
  State.reset.mod.mem = [] ∧ State.reset.pending = [] ∧ State.reset.mod.now = 0 ∧
  (∀ n < 22, State.reset.mod.dieState n = 0) ∧ (∀ c, State.reset.mod.counter c = 0) ∧
  (∀ t, State.reset.mod.thallus t = Thallus.init) ∧ (∀ p < 64, State.reset.mod.linkState p = lkDown) ∧
  State.reset.mod.reg MOD_IDENT = 0x150124B4D ∧ State.reset.mod.fld (CD_LAUNCH_CFG 3) CD_LAUNCH_CFG_POLL_US = 100 ∧
  State.reset.mod.fld (TH_DIE 5) TH_DIE_MAX_T = 0x8000 ∧ State.reset.mod.fld TM_STATUS TM_STATUS_DIST = 255 ∧
  State.reset.mod.fld ER_SCORE_CFG ER_SCORE_CFG_ALERT = 1000 ∧
  Memory.wf State.reset.mod.mem = true ∧ Claims.RegsWf State.reset.mod ∧ ∀ c, Claims.Conserves State.reset.mod c

/-- Every step keeps the canonical form of memory and of the register map: reserved bits read zero and unassigned offsets
hold nothing, whatever is written (R7, R43). -/
def Obligations.StepsKeepCanonicalForm : Prop :=
  ∀ s t : State, step s = .next t →
    (Memory.wf s.mod.mem = true → Memory.wf t.mod.mem = true) ∧ (Claims.RegsWf s.mod → Claims.RegsWf t.mod)

/-- The conservation ledger (R247, R285): no step, whatever the command, makes or loses an arrival. -/
def Obligations.StepsConserveArrivals : Prop :=
  ∀ s t : State, step s = .next t → ∀ c < 4096, Claims.Conserves s.mod c → Claims.Conserves t.mod c
end

