-- ==== Sys2Proof/Laws/Maps.lean ====
section
/-! SUPPORT. Finite maps and memory: what a read finds after an update, and that updates keep the canonical form. -/

namespace Sys2Proof.Machine

variable {α : Type}

@[simp] theorem SMap.get?_nil (j : Nat) : SMap.get? ([] : SMap α) j = none := rfl

theorem SMap.get?_cons (k : Nat) (v : α) (m : SMap α) (j : Nat) :
    SMap.get? ((k, v) :: m) j = if k = j then some v else SMap.get? m j := rfl

/-- A key listed anew reads as its value. -/
@[simp] theorem SMap.get?_put_same (m : SMap α) (j : Nat) (v : α) : (m.put j v).get? j = some v := by
  induction m with
  | nil => simp [SMap.put, SMap.get?_cons]
  | cons e m ih =>
    obtain ⟨k, x⟩ := e
    simp only [SMap.put]
    split
    · simp [SMap.get?_cons]
    · split
      · simp [SMap.get?_cons]
      · simp_all [SMap.get?_cons]; omega

/-- Listing a key leaves every other key alone. -/
theorem SMap.get?_put_other (m : SMap α) {j i : Nat} (v : α) (h : i ≠ j) : (m.put j v).get? i = m.get? i := by
  induction m with
  | nil => simp [SMap.put, SMap.get?_cons, h.symm]
  | cons e m ih =>
    obtain ⟨k, x⟩ := e
    simp only [SMap.put]
    split
    · simp [SMap.get?_cons, h.symm]
    · split
      · next hk => subst hk; simp [SMap.get?_cons, h.symm]
      · simp [SMap.get?_cons, ih]

theorem SMap.get?_put (m : SMap α) (j i : Nat) (v : α) : (m.put j v).get? i = if i = j then some v else m.get? i := by
  split
  · next h => subst h; simp
  · next h => exact SMap.get?_put_other m v h

theorem SMap.get?_filter_key (p : Nat → Bool) (m : SMap α) (i : Nat) :
    SMap.get? (m.filter fun e => p e.1) i = if p i then SMap.get? m i else none := by
  induction m with
  | nil => simp [SMap.get?]
  | cons e m ih =>
    obtain ⟨k, x⟩ := e
    by_cases hk : p k
    · simp only [List.filter_cons, hk, if_true, SMap.get?_cons, ih]
      by_cases hi : k = i
      · subst hi; simp [hk]
      · simp [hi]
    · simp only [List.filter_cons, hk, SMap.get?_cons]
      by_cases hi : k = i
      · subst hi; simp [hk, ih]
      · simp [hi, ih]

theorem SMap.get?_del (m : SMap α) (j i : Nat) : (m.del j).get? i = if i = j then none else m.get? i := by
  have := SMap.get?_filter_key (fun k => decide (k ≠ j)) m i
  simp only [SMap.del]
  rw [this]
  by_cases h : i = j <;> simp [h]

theorem SMap.getD_put (m : SMap α) (j i : Nat) (v d : α) : (m.put j v).getD i d = if i = j then v else m.getD i d := by
  simp only [SMap.getD, SMap.get?_put]; split <;> simp

@[simp] theorem SMap.getD_put_same (m : SMap α) (j : Nat) (v d : α) : (m.put j v).getD j d = v := by
  simp [SMap.getD_put]

/-- After `set`, the key reads as its value, and every other key as before. -/
theorem SMap.getD_set [DecidableEq α] (d : α) (m : SMap α) (j i : Nat) (v : α) :
    (SMap.set d m j v).getD i d = if i = j then v else m.getD i d := by
  unfold SMap.set
  split
  · next h => simp only [SMap.getD, SMap.get?_del]; split <;> simp_all
  · exact SMap.getD_put m j i v d

/-! ### The canonical form -/

/-- Every key of a map lies above `k`. -/
def SMap.above (k : Nat) (m : SMap α) : Prop := ∀ e ∈ m, k < e.1

theorem SMap.rising_cons (e : Nat × α) (m : SMap α) :
    SMap.rising (e :: m) = true ↔ SMap.above e.1 m ∧ SMap.rising m = true := by
  induction m generalizing e with
  | nil => simp [SMap.rising, SMap.above]
  | cons b m ih =>
    simp only [SMap.rising, Bool.and_eq_true, decide_eq_true_eq]
    constructor
    · rintro ⟨h1, h2⟩
      refine ⟨?_, h2⟩
      have hb := (ih b).1 h2
      intro x hx
      rcases List.mem_cons.1 hx with rfl | hx
      · exact h1
      · exact Nat.lt_trans h1 (hb.1 x hx)
    · rintro ⟨h1, h2⟩
      exact ⟨h1 b (by simp), h2⟩

theorem SMap.mem_put (m : SMap α) (j : Nat) (v : α) : ∀ e ∈ m.put j v, e = (j, v) ∨ e ∈ m := by
  induction m with
  | nil => simp [SMap.put]
  | cons b m ih =>
    obtain ⟨k, x⟩ := b
    intro e he
    simp only [SMap.put] at he
    split at he
    · simpa using he
    · split at he
      · rcases List.mem_cons.1 he with h | h
        · exact .inl h
        · exact .inr (List.mem_cons_of_mem _ h)
      · rcases List.mem_cons.1 he with h | h
        · exact .inr (by simp [h])
        · rcases ih e h with h | h
          · exact .inl h
          · exact .inr (List.mem_cons_of_mem _ h)

theorem SMap.rising_put (m : SMap α) (j : Nat) (v : α) (h : SMap.rising m = true) : SMap.rising (m.put j v) = true := by
  induction m with
  | nil => simp [SMap.put, SMap.rising]
  | cons b m ih =>
    obtain ⟨k, x⟩ := b
    have hb := (SMap.rising_cons _ _).1 h
    simp only [SMap.put]
    split
    · next hj =>
      refine (SMap.rising_cons _ _).2 ⟨?_, h⟩
      intro e he
      rcases List.mem_cons.1 he with rfl | he
      · exact hj
      · exact Nat.lt_trans hj (hb.1 e he)
    · split
      · next hk => subst hk; exact (SMap.rising_cons _ _).2 ⟨hb.1, hb.2⟩
      · next h1 h2 =>
        refine (SMap.rising_cons _ _).2 ⟨?_, ih hb.2⟩
        intro e he
        rcases SMap.mem_put m j v e he with rfl | he
        · show k < j; omega
        · exact hb.1 e he

theorem SMap.rising_filter (p : Nat × α → Bool) (m : SMap α) (h : SMap.rising m = true) :
    SMap.rising (m.filter p) = true := by
  induction m with
  | nil => simp [SMap.rising]
  | cons b m ih =>
    have hb := (SMap.rising_cons _ _).1 h
    simp only [List.filter_cons]
    split
    · refine (SMap.rising_cons _ _).2 ⟨?_, ih hb.2⟩
      intro e he
      exact hb.1 e (List.mem_filter.1 he).1
    · exact ih hb.2

theorem SMap.wf_iff [DecidableEq α] (d : α) (m : SMap α) :
    SMap.wf d m = true ↔ SMap.rising m = true ∧ ∀ e ∈ m, e.2 ≠ d := by
  simp [SMap.wf]

theorem SMap.wf_filter [DecidableEq α] (d : α) (p : Nat × α → Bool) (m : SMap α) (h : SMap.wf d m = true) :
    SMap.wf d (m.filter p) = true := by
  rw [SMap.wf_iff] at h ⊢
  exact ⟨SMap.rising_filter p m h.1, fun e he => h.2 e (List.mem_filter.1 he).1⟩

/-- Setting a key keeps the canonical form. -/
theorem SMap.wf_set [DecidableEq α] (d : α) (m : SMap α) (j : Nat) (v : α) (h : SMap.wf d m = true) :
    SMap.wf d (SMap.set d m j v) = true := by
  unfold SMap.set
  split
  · exact SMap.wf_filter d _ m h
  · next hv =>
    rw [SMap.wf_iff] at h ⊢
    refine ⟨SMap.rising_put m j v h.1, fun e he => ?_⟩
    rcases SMap.mem_put m j v e he with rfl | he
    · exact hv
    · exact h.2 e he

/-! ### Memory -/

/-- A byte after a write: the byte written there, or the byte as it was. -/
theorem memByte_memWrite (m : List Host.Cell) (a : Nat) (bs : List Byte) (i : Nat) :
    memByte (memWrite m a bs) i = if h : a ≤ i ∧ i < a + bs.length then bs[i - a]'(by omega) else memByte m i := by
  induction bs generalizing m a with
  | nil => simp [memWrite]
  | cons b bs ih =>
    simp only [memWrite, ih, List.length_cons]
    by_cases h1 : a + 1 ≤ i ∧ i < a + 1 + bs.length
    · rw [dif_pos h1, dif_pos (by omega)]
      have : i - a = (i - (a + 1)) + 1 := by omega
      simp [this]
    · rw [dif_neg h1]
      by_cases h2 : i = a
      · subst h2; simp [memByte, SMap.getD_set]
      · rw [dif_neg (by omega)]; simp [memByte, SMap.getD_set, h2]

/-- A write leaves every byte outside it alone. -/
theorem memByte_memWrite_outside (m : List Host.Cell) (a : Nat) (bs : List Byte) (i : Nat)
    (h : i < a ∨ a + bs.length ≤ i) : memByte (memWrite m a bs) i = memByte m i := by
  rw [memByte_memWrite, dif_neg (by omega)]

/-- A byte after a range is zeroed. -/
theorem memByte_memZero (m : List Host.Cell) (a n i : Nat) :
    memByte (memZero m a n) i = if a ≤ i ∧ i < a + n then memDefault else memByte m i := by
  have := SMap.get?_filter_key (fun k => decide (k < a ∨ a + n ≤ k)) m i
  simp only [memByte, memZero, SMap.getD]
  rw [this]
  by_cases h : a ≤ i ∧ i < a + n
  · have h' : ¬ (i < a ∨ a + n ≤ i) := by omega
    simp [h, h']
  · have h' : i < a ∨ a + n ≤ i := by omega
    simp [h, h']

theorem Memory.wf_memWrite (m : List Host.Cell) (a : Nat) (bs : List Byte) (h : Memory.wf m = true) :
    Memory.wf (memWrite m a bs) = true := by
  induction bs generalizing m a with
  | nil => exact h
  | cons b bs ih => exact ih _ _ (SMap.wf_set memDefault m a b h)

theorem Memory.wf_memZero (m : List Host.Cell) (a n : Nat) (h : Memory.wf m = true) :
    Memory.wf (memZero m a n) = true := SMap.wf_filter memDefault _ m h

end Sys2Proof.Machine
end

