-- ==== Sys2Proof/Laws/State.lean ====
section
/-! SUPPORT. What each primitive update does to each part of the module: one lemma per part. -/

namespace Sys2Proof.Machine

@[simp] theorem Upd.app_now (m : Mod) (u : Upd) : (u.app m).now = (match u with
    | .now v => v
    | _ => m.now) := by cases u <;> first | rfl | (simp only [Upd.app]; split <;> rfl)

@[simp] theorem Upd.app_tick (m : Mod) (u : Upd) : (u.app m).tick = (match u with
    | .tick => m.tick + 1
    | _ => m.tick) := by cases u <;> first | rfl | (simp only [Upd.app]; split <;> rfl)

@[simp] theorem Upd.app_regs (m : Mod) (u : Upd) : (u.app m).regs = (match u with
    | .reg off v => setRegs m.regs off v
    | .regsClear keep => m.regs.filter fun e => keep.any fun r => decide (r.1 ≤ e.1 ∧ e.1 < r.2)
    | _ => m.regs) := by cases u <;> first | rfl | (simp only [Upd.app]; split <;> rfl)

@[simp] theorem Upd.app_snap (m : Mod) (u : Upd) : (u.app m).snap = (match u with
    | .snap => m.regs
    | _ => m.snap) := by cases u <;> first | rfl | (simp only [Upd.app]; split <;> rfl)

@[simp] theorem Upd.app_snapWin (m : Mod) (u : Upd) : (u.app m).snapWin = (match u with
    | .snap => m.windows
    | _ => m.snapWin) := by cases u <;> first | rfl | (simp only [Upd.app]; split <;> rfl)

@[simp] theorem Upd.app_mem (m : Mod) (u : Upd) : (u.app m).mem = (match u with
    | .mem a bs => memWrite m.mem a bs
    | .zero a n => memZero m.mem a n
    | _ => m.mem) := by cases u <;> first | rfl | (simp only [Upd.app]; split <;> rfl)

@[simp] theorem Upd.app_thalli (m : Mod) (u : Upd) : (u.app m).thalli = (match u with
    | .thalli x => x
    | _ => m.thalli) := by cases u <;> first | rfl | (simp only [Upd.app]; split <;> rfl)

@[simp] theorem Upd.app_cdies (m : Mod) (u : Upd) : (u.app m).cdies = (match u with
    | .cdies x => x
    | _ => m.cdies) := by cases u <;> first | rfl | (simp only [Upd.app]; split <;> rfl)

@[simp] theorem Upd.app_mdies (m : Mod) (u : Upd) : (u.app m).mdies = (match u with
    | .mdies x => x
    | _ => m.mdies) := by cases u <;> first | rfl | (simp only [Upd.app]; split <;> rfl)

@[simp] theorem Upd.app_stks (m : Mod) (u : Upd) : (u.app m).stks = (match u with
    | .stks x => x
    | _ => m.stks) := by cases u <;> first | rfl | (simp only [Upd.app]; split <;> rfl)

@[simp] theorem Upd.app_counters (m : Mod) (u : Upd) : (u.app m).counters = (match u with
    | .arrive c n => (arriveAt m c n).counters
    | .consume c n => (consumeAt m c n).counters
    | .retire c => (retireAt m c).counters
    | .freshCounter c => SMap.set 0 m.counters c 0
    | _ => m.counters) := by cases u <;> first | rfl | (simp only [Upd.app]; split <;> rfl)

@[simp] theorem Upd.app_cntFrozen (m : Mod) (u : Upd) : (u.app m).cntFrozen = (match u with
    | .cntFrozen x => x
    | _ => m.cntFrozen) := by cases u <;> first | rfl | (simp only [Upd.app]; split <;> rfl)

@[simp] theorem Upd.app_pools (m : Mod) (u : Upd) : (u.app m).pools = (match u with
    | .arrive c n => (arriveAt m c n).pools
    | .consume c n => (consumeAt m c n).pools
    | .retire c => (retireAt m c).pools
    | .freshCounter c => m.pools.put c ⟨0, 0, 0⟩
    | .pool i p => if i < 4096 then m.pools else m.pools.put i p
    | _ => m.pools) := by cases u <;> first | rfl | (simp only [Upd.app]; split <;> rfl)

@[simp] theorem Upd.app_poolSnap (m : Mod) (u : Upd) : (u.app m).poolSnap = (match u with
    | .poolSnap i p => m.poolSnap.put i p
    | _ => m.poolSnap) := by cases u <;> first | rfl | (simp only [Upd.app]; split <;> rfl)

@[simp] theorem Upd.app_poolBound (m : Mod) (u : Upd) : (u.app m).poolBound = (match u with
    | .poolBound x => x
    | _ => m.poolBound) := by cases u <;> first | rfl | (simp only [Upd.app]; split <;> rfl)

@[simp] theorem Upd.app_poolRead (m : Mod) (u : Upd) : (u.app m).poolRead = (match u with
    | .poolRead x => x
    | _ => m.poolRead) := by cases u <;> first | rfl | (simp only [Upd.app]; split <;> rfl)

@[simp] theorem Upd.app_ledgerTodo (m : Mod) (u : Upd) : (u.app m).ledgerTodo = (match u with
    | .ledgerTodo x => x
    | _ => m.ledgerTodo) := by cases u <;> first | rfl | (simp only [Upd.app]; split <;> rfl)

@[simp] theorem Upd.app_winNext (m : Mod) (u : Upd) : (u.app m).winNext = (match u with
    | .winNext x => x
    | _ => m.winNext) := by cases u <;> first | rfl | (simp only [Upd.app]; split <;> rfl)

@[simp] theorem Upd.app_tagsDone (m : Mod) (u : Upd) : (u.app m).tagsDone = (match u with
    | .tagsDone x => x
    | _ => m.tagsDone) := by cases u <;> first | rfl | (simp only [Upd.app]; split <;> rfl)

@[simp] theorem Upd.app_scoresSent (m : Mod) (u : Upd) : (u.app m).scoresSent = (match u with
    | .scoresSent x => x
    | _ => m.scoresSent) := by cases u <;> first | rfl | (simp only [Upd.app]; split <;> rfl)

@[simp] theorem Upd.app_ports (m : Mod) (u : Upd) : (u.app m).ports = (match u with
    | .ports x => x
    | _ => m.ports) := by cases u <;> first | rfl | (simp only [Upd.app]; split <;> rfl)

@[simp] theorem Upd.app_links (m : Mod) (u : Upd) : (u.app m).links = (match u with
    | .links x => x
    | _ => m.links) := by cases u <;> first | rfl | (simp only [Upd.app]; split <;> rfl)

@[simp] theorem Upd.app_iodies (m : Mod) (u : Upd) : (u.app m).iodies = (match u with
    | .iodies x => x
    | _ => m.iodies) := by cases u <;> first | rfl | (simp only [Upd.app]; split <;> rfl)

@[simp] theorem Upd.app_windows (m : Mod) (u : Upd) : (u.app m).windows = (match u with
    | .windows x => x
    | _ => m.windows) := by cases u <;> first | rfl | (simp only [Upd.app]; split <;> rfl)

@[simp] theorem Upd.app_chambers (m : Mod) (u : Upd) : (u.app m).chambers = (match u with
    | .chambers x => x
    | _ => m.chambers) := by cases u <;> first | rfl | (simp only [Upd.app]; split <;> rfl)

@[simp] theorem Upd.app_fabric (m : Mod) (u : Upd) : (u.app m).fabric = (match u with
    | .fabric x => x
    | _ => m.fabric) := by cases u <;> first | rfl | (simp only [Upd.app]; split <;> rfl)

@[simp] theorem Upd.app_reqs (m : Mod) (u : Upd) : (u.app m).reqs = (match u with
    | .reqs x => x
    | _ => m.reqs) := by cases u <;> first | rfl | (simp only [Upd.app]; split <;> rfl)

@[simp] theorem Upd.app_flight (m : Mod) (u : Upd) : (u.app m).flight = (match u with
    | .flight x => x
    | _ => m.flight) := by cases u <;> first | rfl | (simp only [Upd.app]; split <;> rfl)

@[simp] theorem Upd.app_replies (m : Mod) (u : Upd) : (u.app m).replies = (match u with
    | .replies x => x
    | _ => m.replies) := by cases u <;> first | rfl | (simp only [Upd.app]; split <;> rfl)

@[simp] theorem Upd.app_volosh (m : Mod) (u : Upd) : (u.app m).volosh = (match u with
    | .volosh x => x
    | _ => m.volosh) := by cases u <;> first | rfl | (simp only [Upd.app]; split <;> rfl)

@[simp] theorem Upd.app_trust (m : Mod) (u : Upd) : (u.app m).trust = (match u with
    | .trust x => x
    | _ => m.trust) := by cases u <;> first | rfl | (simp only [Upd.app]; split <;> rfl)

@[simp] theorem Upd.app_rst (m : Mod) (u : Upd) : (u.app m).rst = (match u with
    | .rst x => x
    | _ => m.rst) := by cases u <;> first | rfl | (simp only [Upd.app]; split <;> rfl)

@[simp] theorem Upd.app_queues (m : Mod) (u : Upd) : (u.app m).queues = (match u with
    | .queues x => x
    | _ => m.queues) := by cases u <;> first | rfl | (simp only [Upd.app]; split <;> rfl)

@[simp] theorem Upd.app_recPtr (m : Mod) (u : Upd) : (u.app m).recPtr = (match u with
    | .recPtr n => n
    | _ => m.recPtr) := by cases u <;> first | rfl | (simp only [Upd.app]; split <;> rfl)

@[simp] theorem Upd.app_journal (m : Mod) (u : Upd) : (u.app m).journal = (match u with
    | .journal x => x
    | _ => m.journal) := by cases u <;> first | rfl | (simp only [Upd.app]; split <;> rfl)

@[simp] theorem Upd.app_scores (m : Mod) (u : Upd) : (u.app m).scores = (match u with
    | .scores x _ => x
    | _ => m.scores) := by cases u <;> first | rfl | (simp only [Upd.app]; split <;> rfl)

@[simp] theorem Upd.app_alerted (m : Mod) (u : Upd) : (u.app m).alerted = (match u with
    | .scores _ a => a
    | _ => m.alerted) := by cases u <;> first | rfl | (simp only [Upd.app]; split <;> rfl)

@[simp] theorem Upd.app_scoreIn (m : Mod) (u : Upd) : (u.app m).scoreIn = (match u with
    | .scoreIn x => x
    | _ => m.scoreIn) := by cases u <;> first | rfl | (simp only [Upd.app]; split <;> rfl)

@[simp] theorem Upd.app_sessions (m : Mod) (u : Upd) : (u.app m).sessions = (match u with
    | .sessions x => x
    | _ => m.sessions) := by cases u <;> first | rfl | (simp only [Upd.app]; split <;> rfl)

@[simp] theorem Upd.app_shadow (m : Mod) (u : Upd) : (u.app m).shadow = (match u with
    | .shadow x => x
    | _ => m.shadow) := by cases u <;> first | rfl | (simp only [Upd.app]; split <;> rfl)

@[simp] theorem Upd.app_sensors (m : Mod) (u : Upd) : (u.app m).sensors = (match u with
    | .sensors x => x
    | _ => m.sensors) := by cases u <;> first | rfl | (simp only [Upd.app]; split <;> rfl)

@[simp] theorem Upd.app_clamps (m : Mod) (u : Upd) : (u.app m).clamps = (match u with
    | .clamps x => x
    | _ => m.clamps) := by cases u <;> first | rfl | (simp only [Upd.app]; split <;> rfl)

@[simp] theorem Upd.app_pins (m : Mod) (u : Upd) : (u.app m).pins = (match u with
    | .pins x => x
    | _ => m.pins) := by cases u <;> first | rfl | (simp only [Upd.app]; split <;> rfl)

@[simp] theorem Upd.app_calPhase (m : Mod) (u : Upd) : (u.app m).calPhase = (match u with
    | .calPhase x => x
    | _ => m.calPhase) := by cases u <;> first | rfl | (simp only [Upd.app]; split <;> rfl)

@[simp] theorem Upd.app_lossNs (m : Mod) (u : Upd) : (u.app m).lossNs = (match u with
    | .loss n _ => n
    | _ => m.lossNs) := by cases u <;> first | rfl | (simp only [Upd.app]; split <;> rfl)

@[simp] theorem Upd.app_lossHour (m : Mod) (u : Upd) : (u.app m).lossHour = (match u with
    | .loss _ h => h
    | _ => m.lossHour) := by cases u <;> first | rfl | (simp only [Upd.app]; split <;> rfl)

@[simp] theorem Upd.app_interlocked (m : Mod) (u : Upd) : (u.app m).interlocked = (match u with
    | .interlocked x => x
    | _ => m.interlocked) := by cases u <;> first | rfl | (simp only [Upd.app]; split <;> rfl)

@[simp] theorem Upd.app_freeCount (m : Mod) (u : Upd) : (u.app m).freeCount = (match u with
    | .free => m.freeCount + 1
    | _ => m.freeCount) := by cases u <;> first | rfl | (simp only [Upd.app]; split <;> rfl)

@[simp] theorem Upd.app_out (m : Mod) (u : Upd) : (u.app m).out = (match u with
    | .out o => o :: m.out
    | _ => m.out) := by cases u <;> first | rfl | (simp only [Upd.app]; split <;> rfl)

end Sys2Proof.Machine
end

