-- ==== Sys2Proof/Laws/Ops.lean ====
section
/-! SUPPORT. The effects a command is built of: how they run, what bounds them, what a register field, a part and an
arrival counter read after them. -/

namespace Sys2Proof.Machine

/-! ### Running an effect -/

@[simp] theorem Act.run_nop (m : Mod) : Act.nop.run m = m := rfl
@[simp] theorem Act.run_upd (u : Upd) (m : Mod) : (Act.upd u).run m = u.app m := rfl
@[simp] theorem Act.run_seq (a b : Act) (m : Mod) : (Act.seq a b).run m = b.run (a.run m) := rfl
@[simp] theorem Act.run_look (k : Mod → Act) (m : Mod) : (Act.look k).run m = (k m).run m := rfl
@[simp] theorem run_acts_nil (m : Mod) : (acts []).run m = m := rfl
@[simp] theorem run_acts_cons (a : Act) (l : List Act) (m : Mod) : (acts (a :: l)).run m = (acts l).run (a.run m) := rfl

theorem run_acts_append (l k : List Act) (m : Mod) : (acts (l ++ k)).run m = (acts k).run ((acts l).run m) := by
  induction l generalizing m with
  | nil => rfl
  | cons a l ih => simp [ih]

@[simp] theorem run_forEach_nil {α : Type} (f : α → Act) (m : Mod) : (forEach [] f).run m = m := rfl
@[simp] theorem run_forEach_cons {α : Type} (x : α) (l : List α) (f : α → Act) (m : Mod) :
    (forEach (x :: l) f).run m = (forEach l f).run ((f x).run m) := rfl
@[simp] theorem onlyIf_true (a : Act) : onlyIf true a = a := rfl
@[simp] theorem onlyIf_false (a : Act) : onlyIf false a = .nop := rfl

/-- A command that completes answers the state its effect leaves, with the queue as it is. -/
theorem done_eq (a : Act) (s : State) : done a s = .next { s with mod := a.run s.mod } := rfl

/-! ### Bounding an effect -/

/-- Every primitive update that an effect can make, from any module, satisfies `q`. -/
def Act.All (q : Upd → Prop) : Act → Prop
  | .nop => True
  | .upd u => q u
  | .seq a b => a.All q ∧ b.All q
  | .look k => ∀ m, (k m).All q

theorem Act.All.mono {q r : Upd → Prop} (h : ∀ u, q u → r u) : ∀ {a : Act}, a.All q → a.All r
  | .nop, _ => trivial
  | .upd u, ha => h u ha
  | .seq _ _, ha => ⟨ha.1.mono h, ha.2.mono h⟩
  | .look _, ha => fun m => (ha m).mono h

/-- What every allowed primitive update keeps, the effect keeps. -/
theorem Act.All.keeps {q : Upd → Prop} {P : Mod → Prop} (h : ∀ m u, q u → P m → P (u.app m)) :
    ∀ {a : Act} (_ : a.All q) (m : Mod), P m → P (a.run m)
  | .nop, _, _, hp => hp
  | .upd u, ha, m, hp => h m u ha hp
  | .seq _ _, ha, m, hp => ha.2.keeps h _ (ha.1.keeps h m hp)
  | .look _, ha, m, hp => (ha m).keeps h m hp

/-- A part that no allowed primitive update changes reads after the effect as before. -/
theorem Act.All.frame {α : Type} {q : Upd → Prop} {p : Mod → α} (h : ∀ m u, q u → p (u.app m) = p m) {a : Act}
    (ha : a.All q) (m : Mod) : p (a.run m) = p m :=
  ha.keeps (P := fun m' => p m' = p m) (fun m' u hu hp => (h m' u hu).trans hp) m rfl

/-- What every primitive update keeps, every effect keeps. -/
theorem Act.keeps {P : Mod → Prop} (h : ∀ m u, P m → P (Upd.app m u)) (a : Act) (m : Mod) (hp : P m) : P (a.run m) := by
  have all : ∀ a : Act, a.All fun _ => True := by
    intro a
    induction a with
    | nop => trivial
    | upd u => trivial
    | seq a b ha hb => exact ⟨ha, hb⟩
    | look k ih => exact fun m => ih m
  exact (all a).keeps (q := fun _ => True) (fun m u _ hp => h m u hp) m hp

theorem Act.All.acts {q : Upd → Prop} {l : List Act} (h : ∀ a ∈ l, Act.All q a) : (acts l).All q := by
  induction l with
  | nil => trivial
  | cons a l ih => exact ⟨h a (by simp), ih fun b hb => h b (by simp [hb])⟩

theorem Act.All.forEach {α : Type} {q : Upd → Prop} {l : List α} {f : α → Act} (h : ∀ x ∈ l, (f x).All q) :
    (forEach l f).All q := Act.All.acts (by simpa using h)

theorem Act.All.onlyIf {q : Upd → Prop} {c : Bool} {a : Act} (h : c = true → a.All q) : (onlyIf c a).All q := by
  cases c
  · trivial
  · exact h rfl

/-! ### Bit fields -/

/-- Bytes written low byte first read back as the number, modulo what they hold (R3). -/
theorem leNat_leBytes (n v : Nat) : leNat (leBytes n v) = v % 2 ^ (8 * n) := by
  induction n generalizing v with
  | zero => simp [leBytes, leNat, Nat.mod_one]
  | succ n ih =>
    rw [leBytes, leNat, ih, BitVec.toNat_ofNat, Nat.mul_add, Nat.pow_add, Nat.mul_comm (2 ^ (8 * n))]
    exact (Nat.mod_mul).symm

@[simp] theorem length_leBytes (n v : Nat) : (leBytes n v).length = n := by
  induction n generalizing v with
  | zero => rfl
  | succ n ih => simp [leBytes, ih]

theorem bitsOf_lt {k : Nat} (w : BitVec k) (lo n : Nat) : bitsOf w lo n < 2 ^ n := Nat.mod_lt _ (by positivity)

/-- Bit `i` of a word with one field replaced. -/
theorem getLsbD_putBits (w : Word) (lo n v i : Nat) (hi : i < 64) :
    (putBits w lo n v).getLsbD i = if lo ≤ i ∧ i < lo + n then (v % 2 ^ n).testBit (i - lo) else w.getLsbD i := by
  simp only [putBits, BitVec.getLsbD_or, BitVec.getLsbD_and, BitVec.getLsbD_not, BitVec.getLsbD_ofNat, hi, decide_true,
    Bool.true_and, Nat.testBit_mul_two_pow, Nat.testBit_two_pow_sub_one]
  by_cases h : lo ≤ i
  · by_cases h2 : i - lo < n
    · rw [if_pos ⟨h, by omega⟩]; simp [h, h2]
    · rw [if_neg (by omega)]
      have : (v % 2 ^ n).testBit (i - lo) = false := by
        rw [Nat.testBit_mod_two_pow]; simp [h2]
      simp [h, h2, this]
  · rw [if_neg (by omega)]; simp [h]

/-- Bit `i` of a field. -/
theorem testBit_bitsOf {k : Nat} (w : BitVec k) (lo n i : Nat) :
    (bitsOf w lo n).testBit i = (decide (i < n) && w.getLsbD (lo + i)) := by
  simp only [bitsOf, Nat.testBit_mod_two_pow, Nat.testBit_div_two_pow, BitVec.getLsbD]
  rw [Nat.add_comm]

/-- A field replaced reads as its new value. -/
theorem bitsOf_putBits_same (w : Word) (lo n v : Nat) (h : lo + n ≤ 64) : bitsOf (putBits w lo n v) lo n = v % 2 ^ n := by
  apply Nat.eq_of_testBit_eq
  intro i
  rw [testBit_bitsOf]
  by_cases hi : i < n
  · rw [getLsbD_putBits _ _ _ _ _ (by omega), if_pos (by omega)]
    simp [hi]
  · rw [Nat.testBit_mod_two_pow]; simp [hi]

/-- Fields apart from the one replaced read as before. -/
theorem bitsOf_putBits_other (w : Word) (lo n v lo' n' : Nat) (h : lo' + n' ≤ lo ∨ lo + n ≤ lo') (h64 : lo' + n' ≤ 64) :
    bitsOf (putBits w lo n v) lo' n' = bitsOf w lo' n' := by
  apply Nat.eq_of_testBit_eq
  intro i
  rw [testBit_bitsOf, testBit_bitsOf]
  by_cases hi : i < n'
  · rw [getLsbD_putBits _ _ _ _ _ (by omega), if_neg (by omega)]
  · simp [hi]

/-! ### Registers -/

/-- A register after a register is written: an assigned one takes the bits of its fields. -/
theorem getD_setRegs (regs : SMap Word) (off off' : Nat) (v : Word) :
    (setRegs regs off v).getD off' (regReset off') =
      if off' = off ∧ regAssigned off then v &&& regMask off else regs.getD off' (regReset off') := by
  unfold setRegs
  by_cases ha : regAssigned off
  · rw [if_pos ha]
    by_cases h : off' = off
    · subst h; rw [if_pos ⟨rfl, ha⟩]; simp [SMap.getD_set]
    · rw [if_neg (by tauto)]
      unfold SMap.set
      split
      · simp only [SMap.getD, SMap.get?_del, if_neg h]
      · simp only [SMap.getD, SMap.get?_put, if_neg h]
  · rw [if_neg ha, if_neg (by tauto)]

theorem reg_upd (m : Mod) (off off' : Nat) (v : Word) :
    (Upd.app m (.reg off v)).reg off' = if off' = off ∧ regAssigned off then v &&& regMask off else m.reg off' :=
  getD_setRegs m.regs off off' v

/-- A part that reads only the registers sees only their change. -/
theorem reg_congr {m m' : Mod} (h : m'.regs = m.regs) (off : Nat) : m'.reg off = m.reg off := by
  simp [Mod.reg, h]

/-- A field whose bits its register takes. -/
def fldOk (off : Nat) (f : Fld) : Bool :=
  regAssigned off && decide (f.lo + f.w ≤ 64) && decide (fieldMask f.lo f.w &&& ~~~regMask off = 0)

theorem bitsOf_and_mask (w k : Word) (lo n : Nat) (h64 : lo + n ≤ 64) (h : fieldMask lo n &&& ~~~k = 0) :
    bitsOf (w &&& k) lo n = bitsOf w lo n := by
  apply Nat.eq_of_testBit_eq
  intro i
  rw [testBit_bitsOf, testBit_bitsOf]
  by_cases hi : i < n
  · have hb := congrArg (fun x : Word => x.getLsbD (lo + i)) h
    have hl : lo + i < 64 := by omega
    simp [fieldMask, BitVec.getLsbD_ofNat, Nat.testBit_mul_two_pow, Nat.testBit_two_pow_sub_one, hl, hi] at hb
    have hk : k.getLsbD (lo + i) = true := by simpa [BitVec.getLsbD_eq_getElem hl] using hb
    rw [BitVec.getLsbD_and, hk, Bool.and_true]
  · simp [hi]

/-- A field set reads as the value's low bits. -/
theorem fld_setF (m : Mod) (off : Nat) (f : Fld) (v : Nat) (h : fldOk off f = true) :
    ((setF off f v).run m).fld off f = v % 2 ^ f.w := by
  simp only [fldOk, Bool.and_eq_true, decide_eq_true_eq] at h
  obtain ⟨⟨ha, h64⟩, hm⟩ := h
  simp only [setF, Act.run_look, Act.run_upd, Mod.fld, reg_upd, ha, and_self, if_true]
  rw [bitsOf_and_mask _ _ _ _ h64 hm, bitsOf_putBits_same _ _ _ _ h64]

/-- A field set leaves every field of another register alone. -/
theorem fld_setF_other (m : Mod) (off : Nat) (f : Fld) (v off' : Nat) (g : Fld) (h : off' ≠ off) :
    ((setF off f v).run m).fld off' g = m.fld off' g := by
  simp [setF, Mod.fld, reg_upd, h]

/-- A field set leaves the fields of its register that lie apart alone. -/
theorem fld_setF_apart (m : Mod) (off : Nat) (f g : Fld) (v : Nat) (h : g.lo + g.w ≤ f.lo ∨ f.lo + f.w ≤ g.lo)
    (hg : fldOk off g = true) : ((setF off f v).run m).fld off g = m.fld off g := by
  simp only [fldOk, Bool.and_eq_true, decide_eq_true_eq] at hg
  obtain ⟨⟨ha, h64⟩, hm⟩ := hg
  simp only [setF, Act.run_look, Act.run_upd, Mod.fld, reg_upd, ha, and_self, if_true]
  rw [bitsOf_and_mask _ _ _ _ h64 hm, bitsOf_putBits_other _ _ _ _ _ _ h h64]

/-- A field set changes nothing but the registers. -/
theorem setF_run (m : Mod) (off : Nat) (f : Fld) (v : Nat) :
    (setF off f v).run m = { m with regs := setRegs m.regs off (putBits (m.reg off) f.lo f.w v) } := rfl

/-! ### Parts -/

theorem modThallus_run (t : Nat) (f : Thallus → Thallus) (m : Mod) :
    (modThallus t f).run m = { m with thalli := m.thalli.put t (f (m.thallus t)) } := rfl
theorem thallus_modThallus (t t' : Nat) (f : Thallus → Thallus) (m : Mod) :
    ((modThallus t f).run m).thallus t' = if t' = t then f (m.thallus t) else m.thallus t' := by
  simp [modThallus_run, Mod.thallus, SMap.getD_put]
theorem modCDie_run (d : Nat) (f : CDie → CDie) (m : Mod) :
    (modCDie d f).run m = { m with cdies := m.cdies.put d (f (m.cdie d)) } := rfl
theorem modMDie_run (i : Nat) (f : MDie → MDie) (m : Mod) :
    (modMDie i f).run m = { m with mdies := m.mdies.put i (f (m.mdie i)) } := rfl
theorem modStk_run (i : Nat) (f : Stack → Stack) (m : Mod) :
    (modStk i f).run m = { m with stks := m.stks.put i (f (m.stk i)) } := rfl
theorem modPort_run (p : Nat) (f : Port → Port) (m : Mod) :
    (modPort p f).run m = { m with ports := m.ports.put p (f (m.port p)) } := rfl
theorem modLink_run (n : Nat) (f : Link → Link) (m : Mod) :
    (modLink n f).run m = { m with links := m.links.put n (f (m.link n)) } := rfl
theorem modIoDie_run (i : Nat) (f : IoDie → IoDie) (m : Mod) :
    (modIoDie i f).run m = { m with iodies := m.iodies.put i (f (m.iodie i)) } := rfl
theorem modChamber_run (k : Nat) (f : Chamber → Chamber) (m : Mod) :
    (modChamber k f).run m = { m with chambers := m.chambers.put k (f (m.chamber k)) } := rfl
theorem modFabric_run (f : Fabric → Fabric) (m : Mod) : (modFabric f).run m = { m with fabric := f m.fabric } := rfl
theorem modTrust_run (f : Trust → Trust) (m : Mod) : (modTrust f).run m = { m with trust := f m.trust } := rfl
theorem modVolosh_run (f : Volosh → Volosh) (m : Mod) : (modVolosh f).run m = { m with volosh := f m.volosh } := rfl
theorem modRst_run (f : Reset → Reset) (m : Mod) : (modRst f).run m = { m with rst := f m.rst } := rfl
theorem modPins_run (f : Pins → Pins) (m : Mod) : (modPins f).run m = { m with pins := f m.pins } := rfl
theorem emit_run (o : Out) (m : Mod) : (emit o).run m = { m with out := o :: m.out } := rfl

/-! ### Records (R518) -/

/-- A record changes the queues and the registers alone. -/
theorem record_frame (q code cls : Nat) (g : Grade) (ch : Option Nat) (dp mp : Word) (d : BitVec 256) :
    (record q code cls g ch dp mp d).All fun u => (∃ x, u = .queues x) ∨ ∃ off v, u = .reg off v := by
  intro m
  simp only [pushRec]
  intro m'
  dsimp only
  split
  · refine Act.All.acts ?_
    intro a ha
    simp only [List.mem_cons, List.not_mem_nil, or_false] at ha
    rcases ha with rfl | rfl
    · exact .inl ⟨_, rfl⟩
    · exact Act.All.onlyIf fun _ _ => .inr ⟨_, _, rfl⟩
  · refine Act.All.acts ?_
    intro a ha
    simp only [List.mem_cons, List.not_mem_nil, or_false] at ha
    rcases ha with rfl | rfl
    · exact .inl ⟨_, rfl⟩
    · exact fun _ _ => .inr ⟨_, _, rfl⟩

/-! ### Arrival counters and their pools (R245, R247, R285) -/

/-- What a pool issued is what was returned, what was retired, and what its counter holds. -/
def Conserves (m : Mod) (c : Nat) : Prop :=
  (m.pool c).issued = (m.pool c).returned + (m.pool c).retired + (m.counter c).toNat

theorem arriveAt_other (m : Mod) (c n c' : Nat) (h : c' ≠ c) :
    (arriveAt m c n).counter c' = m.counter c' ∧ (arriveAt m c n).pool c' = m.pool c' := by
  simp [arriveAt, Mod.counter, Mod.pool, SMap.getD_set, SMap.getD_put, h]

theorem arriveAt_conserves (m : Mod) (c n c' : Nat) (h : Conserves m c') : Conserves (arriveAt m c n) c' := by
  by_cases hc : c' = c
  · subst hc
    unfold Conserves at *
    simp only [arriveAt, Mod.counter, Mod.pool, SMap.getD_set, SMap.getD_put, if_true] at *
    have : (min counterMax ((SMap.getD m.counters c' 0).toNat + n)) < 2 ^ 64 := by
      have : counterMax < 2 ^ 64 := by decide
      omega
    rw [BitVec.toNat_ofNat, Nat.mod_eq_of_lt this]
    omega
  · unfold Conserves at *
    rw [(arriveAt_other m c n c' hc).1, (arriveAt_other m c n c' hc).2]; exact h

theorem consumeAt_conserves (m : Mod) (c n c' : Nat) (h : Conserves m c') : Conserves (consumeAt m c n) c' := by
  by_cases hc : c' = c
  · subst hc
    unfold Conserves at *
    simp only [consumeAt, Mod.counter, Mod.pool, SMap.getD_set, SMap.getD_put, if_true] at *
    have h1 := (SMap.getD m.counters c' (0 : Word)).isLt
    have : (SMap.getD m.counters c' (0 : Word)).toNat - min n (SMap.getD m.counters c' (0 : Word)).toNat < 2 ^ 64 := by omega
    rw [BitVec.toNat_ofNat, Nat.mod_eq_of_lt this]
    omega
  · simpa [Conserves, consumeAt, Mod.counter, Mod.pool, SMap.getD_set, SMap.getD_put, hc] using h

theorem retireAt_conserves (m : Mod) (c c' : Nat) (h : Conserves m c') : Conserves (retireAt m c) c' := by
  by_cases hc : c' = c
  · subst hc
    unfold Conserves at *
    simp only [retireAt, Mod.counter, Mod.pool, SMap.getD_set, SMap.getD_put, if_true] at *
    show _ = _ + _ + 0
    omega
  · simpa [Conserves, retireAt, Mod.counter, Mod.pool, SMap.getD_set, SMap.getD_put, hc] using h

end Sys2Proof.Machine
end

