-- ==== Sys2Proof/Laws/Step.lean ====
section
/-! SUPPORT. Said once, what a command or a step can do: it runs one act on the module and leaves the queue's rest, or
it stops. An invariant that every elementary update keeps is then an invariant of every step (`Act.keeps`). -/

namespace Sys2Proof.Machine

/-- A result whose next state, where there is one, is an act's. -/
def RunsAct (s : State) (r : Result) : Prop := ∀ t, r = .next t → ∃ a : Act, t = { s with mod := a.run s.mod }

theorem runsAct_done (a : Act) (s : State) : RunsAct s (done a s) := by
  intro t h; exact ⟨a, by injection h with h; exact h.symm⟩

theorem runsAct_fault (f : Fault) (s : State) : RunsAct s (.fault f) := by intro t h; cases h

theorem runsAct_ite (c : Prop) [Decidable c] {s : State} {a b : Result} (ha : RunsAct s a) (hb : RunsAct s b) :
    RunsAct s (if c then a else b) := by split <;> assumption

set_option maxHeartbeats 1000000 in
/-- Every command runs one act on the module and leaves the queue. -/
theorem exec_runsAct (c : Instr) (s : State) : RunsAct s (exec c s) := by
  cases c
  all_goals first
    | exact runsAct_done _ _
    | exact runsAct_ite _ (runsAct_fault _ _) (runsAct_done _ _)

/-- Every step that answers a next state runs one act on the module. -/
theorem step_runsAct (s t : State) (h : step s = .next t) : ∃ a : Act, t.mod = a.run s.mod := by
  unfold step at h
  split at h
  · obtain ⟨a, rfl⟩ := runsAct_done _ s t h
    exact ⟨a, rfl⟩
  · obtain ⟨a, rfl⟩ := exec_runsAct _ _ t h
    exact ⟨a, rfl⟩

end Sys2Proof.Machine
end

