-- ==== Sys2Proof/Laws/Thallus.lean ====
section
/-! SUPPORT. Issuing a ready instruction, and how its effect on the thallus reads. -/

namespace Sys2Proof.Machine

open Sys2Proof

/-- A ready word of a defined opcode issues: its body runs. -/
theorem runWord_ready {m : Mod} {t : Fin 1200} {e : Env} {w : Word} {used : List (Nat × Nat)} {regs : List Nat}
    (h : Ready m t e w used regs) (hd : opDefined w = true) (body : Body) :
    (runWord body t e w).run m = (body t e w).run m := by
  obtain ⟨h1, h2, h3, h4, h5, h6, -, -⟩ := h
  have h4' : ¬ 8 * (m.thallus t).codeLen ≤ (m.thallus t).pc.toNat := by omega
  simp only [runWord, Act.run_look, h1, h2, h3, h4', h5, h6, hd, Bool.not_true, Option.isSome_none, Bool.false_eq_true,
    or_self, ne_eq, not_true_eq_false, if_false, and_false, if_true]

/-- The body of a ready word passes the checks of its reserved bits and of the replies its registers wait for. -/
theorem issue_ready {m : Mod} {t : Fin 1200} {e : Env} {w : Word} {used : List (Nat × Nat)} {regs : Word → List Nat}
    (h : Ready m t e w used (regs w)) (k : Mod → Thallus → Nat → Env → Word → Act) :
    (issue used regs k t e w).run m = (k m (m.thallus t) t e w).run m := by
  obtain ⟨-, -, -, -, -, -, h7, h8⟩ := h
  simp [issue, h7, h8]

/-- A ready word runs the effect of its instruction. -/
theorem run_ready {m : Mod} {t : Fin 1200} {e : Env} {w : Word} {used : List (Nat × Nat)} {regs : Word → List Nat}
    (h : Ready m t e w used (regs w)) (hd : opDefined w = true) (k : Mod → Thallus → Nat → Env → Word → Act) :
    (runWord (issue used regs k) t e w).run m = (k m (m.thallus t) t e w).run m :=
  (runWord_ready h hd _).trans (issue_ready h k)

/-- A committed effect replaces the thallus by the retired one. -/
theorem commit_run (t : Nat) (f : Thallus → Thallus) (m : Mod) :
    (commit t f).run m = withThallus m t (retire f) := rfl

theorem branch_run (t : Nat) (target : Word) (f : Thallus → Thallus) (m : Mod) :
    (branch t target f).run m =
      withThallus m t (fun th => { f th with pc := target, held := none, branchPc := some th.pc }) := rfl

theorem opOf_wordOf (cls op : Nat) (f : BitVec 54) (h : op < 128) : opOf (wordOf cls op f) = op := by
  have : opOf (wordOf cls op f) = ((wordOf cls op f).extractLsb' 3 7).toNat := by
    simp [opOf, bitsOf, BitVec.extractLsb'_toNat, Nat.shiftRight_eq_div_pow]
  have h2 : (wordOf cls op f).extractLsb' 3 7 = BitVec.ofNat 7 op := by
    unfold wordOf
    ext i hi
    simp only [BitVec.getElem_extractLsb', BitVec.getLsbD_append]
    have h1 : 3 + i < 7 + 3 := by omega
    have h3 : ¬ 3 + i < 3 := by omega
    simp [h1, h3, ← BitVec.getLsbD_eq_getElem]
  rw [this, h2]
  simp [Nat.mod_eq_of_lt h]

theorem clsOf_wordOf (cls op : Nat) (f : BitVec 54) (h : cls < 8) : clsOf (wordOf cls op f) = cls := by
  have : clsOf (wordOf cls op f) = ((wordOf cls op f).extractLsb' 0 3).toNat := by
    simp [clsOf, bitsOf, BitVec.extractLsb'_toNat]
  have h2 : (wordOf cls op f).extractLsb' 0 3 = BitVec.ofNat 3 cls := by
    unfold wordOf
    ext i hi
    simp only [BitVec.getElem_extractLsb', BitVec.getLsbD_append]
    have h1 : ¬ 10 ≤ i := by omega
    simp [hi, ← BitVec.getLsbD_eq_getElem, h1]
  rw [this, h2]
  simp [Nat.mod_eq_of_lt h]

/-- A word of a listed class and opcode is defined. -/
theorem opDefined_wordOf (cls op : Nat) (f g : BitVec 54) (hc : cls < 8) (ho : op < 128)
    (h : opDefined (wordOf cls op g) = true) : opDefined (wordOf cls op f) = true := by
  unfold opDefined at *
  rw [clsOf_wordOf _ _ _ hc, opOf_wordOf _ _ _ ho] at *
  exact h

/-! ### Registers of a thallus -/

@[simp] theorem Thallus.sget_zero (th : Thallus) : th.sget 0 = 0 := rfl
@[simp] theorem Thallus.sset_zero (th : Thallus) (v : Word) : th.sset 0 v = th := rfl
theorem Thallus.sget_sset (th : Thallus) (r q : Nat) (v : Word) (h : r ≠ 0) :
    (th.sset r v).sget q = if q = r then v else th.sget q := by
  by_cases hq : q = 0
  · subst hq; simp [h.symm]
  · simp [Thallus.sget, Thallus.sset, h, hq, SMap.getD_set]

end Sys2Proof.Machine
end

