-- ==== Sys2Proof/Tests/Slice0.lean ====
section
/-! SUPPORT. The model's own tests: for every statement a state and operands that meet its hypotheses, the checks of
`Instr.wf`, and single steps whose results are worked out from the spec. -/

namespace Sys2Proof.Tests

open Sys2Proof.Machine

set_option Elab.async false

/-! ### Small states -/

/-- The state that some effects make of the module right after reset. -/
def demo (l : List Act) : State := ⟨(acts l).run Mod.reset, []⟩

/-- Every die runs. -/
def up : Act := .upd (.reg MOD_DIE_STATE (BitVec.ofNat 64 (2 ^ 44 - 1)))

/-- A thallus runs, on an awake sorus. -/
def runs (t : Nat) : Act := acts [setThState t thRunning, setF (sorusReg (gsorusOf t)) CD_SORUS_STATE_DOMAIN 3]

/-- It is some time after reset. -/
def late : Act := .upd (.now 1000000000)

/-- The PLL of a compute die is locked. -/
def pll (d : Nat) : Act := setF (CP_COMPUTE d) CP_COMPUTE_PLL 2

/-- A stack is in service, of a chamber. -/
def stackUp (i k : Nat) : Act := acts [
  setF (stackReg i) MS_STACK_STATE_STATE 1, setF (stackReg i) MS_STACK_STATE_OWNER_VALID 1,
  setF (stackReg i) MS_STACK_STATE_OWNER k]

/-- A ring of chamber 0 with 16 entries is watched. -/
def ringUp (d r : Nat) : Act := acts [
  setF (CD_RING_CTL d r) CD_RING_CTL_ENABLE 1, setF (CD_RING_CTL d r) CD_RING_CTL_SIZE_LOG2 4,
  setF (CD_RING_STATE d r) CD_RING_STATE_STATE 1]

/-- A stage of sorus 0 of die 0. -/
def stage : Machine.Stage :=
  { sori := 1, die := 0, wakeCntEn := false, wakeCnt := 0, codeOff := 0, codeLen := 1, entry := 0, firstInput := 0
    wakeTarget := 0, asked := false, started := 0, arrived := false }

/-- A launch in a slot, from ring 1 of its die. -/
def launched (key st : Nat) (f : Launch → Launch) : Act := acts [
  modCDie (key / 64) fun c => { c with launches := c.launches.put (key % 64) (f (Launch.fresh 1 0 0 key)) },
  setLState key st]

/-- A router binding of launch 2 on counters 3 and 4. -/
def router : Router :=
  { trig := 3, doneCnt := 4, nslot := 2, ringBase := 0, stride := 128, emap := 0, experts := [], slot := 1, batch := none
    launch := 2 }

def routerOn (d b : Nat) (r : Router) : Act := modCDie d fun c => { c with routers := c.routers.put b r }

/-- A gathering queue of launch 2 on counter 5, for thallus 0. -/
def gq : GQueue :=
  { kt := 0, ty := 0, nslot := 2, cnt := 5, rowBytes := 64, firstSorus := 0, tmask := 1, slotOff := 0, slotStride := 4096
    window := 200, launch := 2, pend := [], seq := 0, due := false, finals := [], flush := none, releasing := none }

def gqOn (d q : Nat) (x : GQueue) : Act := modCDie d fun c => { c with queues := c.queues.put q x }

def gentry : GEntry := { die := 0, queue := 9, token := 5, row := 0, rank := 0, weight := 0, time := 0, launch := 2 }

/-- A read of 8 bytes at 64 in stack 0 by thallus 7 under tag 4. -/
def access : Access :=
  { org := .thallus 7, kind := .read, addr := 64, size := 8, hint := 0, chamber := 0, cnt := none, stat := false, tag := 4
    pc := 8, word := 9, stamp := 0, rd := 5, run := 0 }

def accessW : Access := { access with kind := .write [1, 2, 3, 4, 5, 6, 7, 8] }

/-- A port has a plan entry of a kind and a link in a state. -/
def portAt (p kind st : Nat) : Act := acts [
  modTrust fun t => { t with image := { t.image with plan := t.image.plan.put p (BitVec.ofNat 64 kind) } }, setLink p st]

/-- The straps name module 5 of gallery 0, and the image agrees. -/
def strapped : Act := acts [
  setF MOD_POSITION MOD_POSITION_MODULE_ID 5, setF MOD_POSITION MOD_POSITION_STRAPS_VALID 1,
  modTrust fun t => { t with image := { t.image with self := 5, timeSrc := 9, timeBackup := 9 } }]

def discover (stage : BitVec 2) (v : BitVec 3) : DiscoverMsg :=
  { moduleId := 6, port := 1, kind := 1, stage := stage, timeLocked := true, epoch := 3, verdict := v
    nonce := List.replicate 48 7, chain := [1, 2], signature := [], tag := 9 }

/-- A descriptor of an operation from the tile store of thallus 7 to that of thallus 8. -/
def descr (op len more : Nat) : BitVec 512 :=
  BitVec.ofNat 512 (op + (tileAddr 7 0) * 2 ^ 64 + (tileAddr 8 64) * 2 ^ 128 + len * 2 ^ 192 + more)

def xfer (d : BitVec 512) : Xfer := ⟨5, d, [.idle], false, 0, false, 0, [], false⟩

/-- Thallus 7 has one descriptor, and its own and its neighbour's tile stores are awake. -/
def xfers (x : Xfer) : Act := acts [up, setF (sorusReg 1) CD_SORUS_STATE_DOMAIN 3,
  setF (sorusReg 1) CD_SORUS_STATE_CHAMBER_VALID 1, setF (thReg 7) CD_THALLUS_STATE_CHAMBER_VALID 1,
  .upd (.mem (tileAddr 7 0) [1, 2, 3, 4, 5, 6, 7, 8]), modThallus 7 fun th => { th with queue := [x] }]

/-- A frame on port 9 in epoch 0. -/
def frame (type l x cause : Nat) : Word := mkFrame type l x cause 0 1

/-- A move of logical lane 3 from lane 3 to lane 16 on port 9, at a step. -/
def move (tx : Bool) (step : Nat) : Move := ⟨tx, 3, 3, 16, 2, step, false, 0⟩

/-- Trusted firmware runs and takes gates, also from a control session. -/
def gates : Act := acts [up, modRst (fun r => { r with powerGood := true }), setF TR_STATE TR_STATE_STATE 2,
  .upd (.sessions [⟨1, true, none⟩]), modTrust fun t => { t with image := { t.image with cmdAllow := 0x3F } }]

/-- The host link is up, and the SPDM set-up stands at a step. -/
def spdm (n : Nat) : Act := acts [setF VL_PORTS VL_PORTS_STATE0 2, modVolosh fun v => { v with spdm := n, session := 5 }]

/-- Chamber 3, of tag 3, is confidential. -/
def chamberSealed : Act := acts [modChamber 3 (fun c => { c with valid := true, tag := 3, cleared := true }),
  setF (VL_CHAMBER 3) VL_CHAMBER_CONFIDENTIAL 1]

/-- An input pin is in a state. -/
def input (n level masked : Nat) : Act := acts [
  setF (CP_INPUT n) CP_INPUT_LEVEL level, setF (CP_INPUT n) CP_INPUT_MASKED masked]

def record1 : Rec := ⟨5, 6, 7, 0x0400, 1, 0, none, 3, 0⟩

/-- Memory at 64 holds a pattern, stack 0 serves chamber 0 and thallus 7 waits for tag 4. -/
def memory : Act := acts [up, stackUp 0 0, .upd (.mem 64 [8, 7, 6, 5, 4, 3, 2, 1]),
  modThallus 7 fun th => { th with waitRd := [(5, 4)] }]


/-- Window 2 of chamber 0, whose tag is 3, opens stack 0 to every module for every operation. -/
def win : Win := ⟨BitVec.ofNat 64 (15 * 2 ^ 52), BitVec.ofNat 64 (4096 + 3 * 2 ^ 48), BitVec.ofNat 64 (511 * 2 ^ 9 + 31 * 2 ^ 23),
  BitVec.ofNat 64 (100 * 2 ^ 12)⟩

def windowed : Act := acts [memory, strapped, modChamber 0 (fun c => { c with valid := true, tag := 3 }),
  .upd (.windows [(2, win)])]

/-- A request of module 9 at offset 64 of that window. -/
def request (op : BitVec 8) (info : BitVec 32) (data : List Byte) : Packet :=
  ⟨{ hdrZero with dst := 5, src := 9, chamber := 3, op := op, len := BitVec.ofNat 13 data.length, opinfo := info
                  addr := BitVec.ofNat 64 (2 * 2 ^ 41 + 64) }, data⟩

/-- Fields of a word, from bit 10 up. -/
def fields (l : List (Nat × Nat)) : BitVec 54 := BitVec.ofNat 54 ((l.map fun x => x.2 <<< (x.1 - 10)).foldl (· + ·) 0)

def good : Env := ⟨.good, .good, 0⟩

/-- A word stands at the program counter of thallus 7, which runs a stage of chamber 0. -/
def ready (w : Word) (l : List Act) : State :=
  demo ([up, runs 7, setF (sorusReg 1) CD_SORUS_STATE_CHAMBER_VALID 1, setF (thReg 7) CD_THALLUS_STATE_CHAMBER_VALID 1,
    stackUp 0 0, late, modThallus 7 fun th => { th with pc := 8, istore := [(1, w)], codeLen := 2, ctx := [(3, 1)] }] ++ l)

/-- Scalar registers of thallus 7. -/
def holds (l : List (Nat × Word)) : Act := modThallus 7 fun th => { th with sregs := l }

/-- The hypotheses of `Claims.Result` hold of a word in such a state. -/
abbrev MeetsAt (fl : BitVec 54) (l : List Act) (cls op : Nat) (used : List (Nat × Nat)) (regs : Word → List Nat)
    (ok : Mod → Nat → Env → Word → Prop) : Prop :=
  Ready (ready (wordOf cls op fl) l).mod 7 good (wordOf cls op fl) used (regs (wordOf cls op fl)) ∧
  ok (ready (wordOf cls op fl) l).mod 7 good (wordOf cls op fl)

theorem test_meets_StepRunsFrontCommand :
    (⟨Mod.reset, [.ppsLoss, .nop 0 good 0]⟩ : State).pending = .ppsLoss :: [.nop 0 good 0] := by decide

theorem test_meets_EmptyQueueTicks : State.reset.pending = [] := by decide

theorem test_meets_ScalarRegisterZero : (31 : Nat) ≠ 0 ∧ (31 : Nat) ≠ 1 := by decide

theorem test_meets_ScalarRegisterArithmetic : ∀ op ∈ List.range 16,
    MeetsAt (fields [(10, 31), (15, 1), (20, 2)]) [] 0 op [useRd, useRa, useRb] (fun w => [fRd w, fRa w, fRb w])
      fun _ _ _ _ => True := by decide +kernel

theorem test_meets_ScalarImmediateArithmetic :
    (∀ op ∈ [0x10, 0x11, 0x12, 0x13, 0x19], MeetsAt (fields [(10, 31), (15, 1), (20, 2 ^ 44 - 1)]) [] 0 op
      [useRd, useRa, useImm] (fun w => [fRd w, fRa w]) fun _ _ _ _ => True) ∧
    (∀ op ∈ [0x14, 0x15, 0x16], MeetsAt (fields [(10, 31), (15, 1), (20, 63)]) [] 0 op
      [useRd, useRa, (20, 6)] (fun w => [fRd w, fRa w]) fun _ _ _ _ => True) ∧
    MeetsAt (fields [(10, 31), (20, 2 ^ 43)]) [] 0 0x17 [useRd, useImm] (fun w => [fRd w]) (fun _ _ _ _ => True) ∧
    MeetsAt (fields [(10, 31), (15, 31), (20, 2 ^ 20 - 1)]) [] 0 0x18 [useRd, useRa, (20, 20)] (fun w => [fRd w, fRa w])
      (fun _ _ _ _ => True) ∧
    (∀ op ∈ [0x1A, 0x1B], MeetsAt (fields [(10, 31), (15, 1)]) [] 0 op [useRd, useRa] (fun w => [fRd w, fRa w])
      fun _ _ _ _ => True) := by
  refine ⟨?_, ?_, ?_, ?_, ?_⟩ <;> decide +kernel

theorem test_meets_ScalarLoadsAndStores :
    (∀ x ∈ [(0x20, 1), (0x21, 1), (0x22, 2), (0x23, 2), (0x24, 4), (0x25, 4), (0x26, 8), (0x28, 1), (0x29, 2), (0x2A, 4),
        (0x2B, 8)],
      MeetsAt (fields [(10, 5), (15, 3), (20, tileBytes - 8)]) [holds [(3, BitVec.ofNat 64 (tileAddr 7 0))]] 0 x.1
        [useRd, useRa, useImm] (fun w => [fRd w, fRa w]) (Claims.OwnTile x.2)) ∧
    (∀ x ∈ [(0x20, 1), (0x21, 1), (0x22, 2), (0x23, 2), (0x24, 4), (0x25, 4), (0x26, 8), (0x28, 1), (0x29, 2), (0x2A, 4),
        (0x2B, 8)],
      MeetsAt (fields [(10, 5), (15, 3), (20, 56)]) [holds [(3, 64)],
          modThallus 7 fun th => { th with launch := some 2, near := [(7, ⟨0, 0, List.replicate 64 1⟩)] }] 0 x.1
        [useRd, useRa, useImm] (fun w => [fRd w, fRa w])
        fun m t _ w => Claims.NearHit x.2 3 ⟨0, 0, List.replicate 64 1⟩ m t w) := by
  refine ⟨?_, ?_⟩ <;> decide +kernel

theorem test_meets_MemoryReadAfterWrite : (5 : Nat) < 64 ∨ 64 + ([1, 2] : List Byte).length ≤ 5 := by decide

theorem test_meets_MisalignedScalarAccessFaults :
    ∀ x ∈ [(0x22, 2), (0x23, 2), (0x24, 4), (0x25, 4), (0x26, 8), (0x29, 2), (0x2A, 4), (0x2B, 8)],
      MeetsAt (fields [(10, 5), (20, 1)]) [] 0 x.1 [useRd, useRa, useImm] (fun w => [fRd w, fRa w])
        fun m t _ w => (Claims.scalarAddr (m.thallus t) w).toNat % x.2 ≠ 0 ∧ (m.thallus t).near = [] := by decide +kernel

/-- A branch's word on two register values for which its condition holds or does not. -/
abbrev BranchMeets (op : Nat) (cond : Word → Word → Prop) (a b : Word) : Prop :=
  MeetsAt (fields [(10, 1), (15, 2), (20, 2 ^ 20 - 1)]) [holds [(1, a), (2, b)]] 0 op [(10, 5), (15, 5), (20, 20)]
    (fun w => [bitsOf w 10 5, bitsOf w 15 5])
    fun m t _ w => cond ((m.thallus t).sget (bitsOf w 10 5)) ((m.thallus t).sget (bitsOf w 15 5))

theorem test_meets_Branches :
    BranchMeets 0x30 (fun a b => a = b) 5 5 ∧ BranchMeets 0x30 (fun a b => ¬ a = b) 5 6 ∧
    BranchMeets 0x31 (fun a b => a ≠ b) 5 6 ∧ BranchMeets 0x31 (fun a b => ¬ a ≠ b) 5 5 ∧
    BranchMeets 0x32 (fun a b => a.toInt < b.toInt) (-1) 0 ∧ BranchMeets 0x32 (fun a b => ¬ a.toInt < b.toInt) 0 (-1) ∧
    BranchMeets 0x33 (fun a b => b.toInt ≤ a.toInt) 0 (-1) ∧ BranchMeets 0x33 (fun a b => ¬ b.toInt ≤ a.toInt) (-1) 0 ∧
    BranchMeets 0x34 (fun a b => a.toNat < b.toNat) 0 (-1) ∧ BranchMeets 0x34 (fun a b => ¬ a.toNat < b.toNat) (-1) 0 ∧
    BranchMeets 0x35 (fun a b => b.toNat ≤ a.toNat) (-1) 0 ∧ BranchMeets 0x35 (fun a b => ¬ b.toNat ≤ a.toNat) 0 (-1) ∧
    BranchMeets 0x36 (fun a b => a.getLsbD (b.toNat % 64) = true) 2 65 ∧
    BranchMeets 0x36 (fun a b => ¬ a.getLsbD (b.toNat % 64) = true) 2 64 ∧
    BranchMeets 0x37 (fun a b => a.getLsbD (b.toNat % 64) = false) 2 64 ∧
    BranchMeets 0x37 (fun a b => ¬ a.getLsbD (b.toNat % 64) = false) 2 65 := by
  refine ⟨?_, ?_, ?_, ?_, ?_, ?_, ?_, ?_, ?_, ?_, ?_, ?_, ?_, ?_, ?_, ?_⟩ <;> decide +kernel

theorem test_meets_JumpsContextAndEnd :
    MeetsAt (fields [(10, 31), (20, 2 ^ 20 - 1)]) [] 0 0x38 [(10, 5), (20, 20)] (fun w => [fRd w]) (fun _ _ _ _ => True) ∧
    MeetsAt (fields [(10, 31), (15, 31)]) [] 0 0x39 [useRd, useRa] (fun w => [fRd w, fRa w]) (fun _ _ _ _ => True) ∧
    (∀ k ∈ [0, 10], MeetsAt (fields [(10, 31), (20, k)]) [] 0 0x3C [useRd, (20, 4)] (fun w => [fRd w])
      fun _ _ _ w => bitsOf w 20 4 ≤ 10 ∧ bitsOf w 20 4 ≠ 7 ∧ bitsOf w 20 4 ≠ 9) ∧
    MeetsAt (fields [(10, 31), (20, 7)]) [] 0 0x3C [useRd, (20, 4)] (fun w => [fRd w]) (fun _ _ _ w => bitsOf w 20 4 = 7) ∧
    MeetsAt (fields [(10, 31), (20, 9)]) [] 0 0x3C [useRd, (20, 4)] (fun w => [fRd w]) (fun _ _ _ w => bitsOf w 20 4 = 9) ∧
    MeetsAt 0 [] 0 0x3F [] (fun _ => []) (fun _ _ _ _ => True) ∧
    MeetsAt 0 [] 0 0x3E [] (fun _ => []) (fun _ _ _ _ => True) := by
  refine ⟨?_, ?_, ?_, ?_, ?_, ?_, ?_⟩ <;> decide +kernel

theorem test_meets_VectorLaneArithmetic :
    (∀ op ∈ [0x00, 0x01, 0x02, 0x04, 0x05], ∀ ty ∈ [0, 5],
      MeetsAt (fields [(10, 31), (15, 1), (20, 2), (30, 7), (33, ty)]) [] 1 op Claims.used2 (fun _ => [])
        fun _ _ _ w => Claims.anyTy (fType w)) ∧
    (∀ ty ∈ [0, 2], MeetsAt (fields [(10, 31), (15, 1), (20, 2), (25, 31), (33, ty)]) [] 1 0x03
      [useRd, useRa, useRb, useRc, usePred, useType] (fun _ => []) fun _ _ _ w => Claims.fpTy (fType w)) ∧
    (∀ op ∈ [0x06, 0x07, 0x08, 0x09, 0x0A], ∀ ty ∈ [3, 5],
      MeetsAt (fields [(10, 31), (15, 1), (20, 2), (33, ty)]) [] 1 op Claims.used2 (fun _ => [])
        fun _ _ _ w => Claims.intTy (fType w)) ∧
    (∀ op ∈ [0x0B, 0x0C], ∀ ty ∈ [0, 5], MeetsAt (fields [(10, 31), (15, 1), (33, ty)]) [] 1 op Claims.used1 (fun _ => [])
      fun _ _ _ w => Claims.anyTy (fType w)) := by
  refine ⟨?_, ?_, ?_, ?_⟩ <;> decide +kernel

theorem test_meets_VectorComparesAndMoves :
    (∀ op ∈ [0x0E, 0x0F, 0x10], ∀ ty ∈ [0, 5],
      MeetsAt (fields [(10, 7), (15, 1), (20, 2), (33, ty)]) [] 1 op [(10, 3), useRa, useRb, usePred, useType]
        (fun _ => []) fun _ _ _ w => Claims.anyTy (fType w)) ∧
    MeetsAt (fields [(10, 31), (15, 1), (20, 2), (33, 5)]) [] 1 0x0D Claims.used2 (fun _ => [])
      (fun _ _ _ w => Claims.anyTy (fType w)) ∧
    MeetsAt (fields [(10, 31), (15, 1), (33, 5)]) [] 1 0x14 Claims.used1 (fun w => [fRa w])
      (fun _ _ _ w => Claims.anyTy (fType w)) ∧
    MeetsAt (fields [(10, 31), (15, 1), (33, 2)]) [] 1 0x15 [useRd, useRa, useType] (fun w => [fRd w])
      (fun _ _ _ w => Claims.fpTy (fType w)) ∧
    MeetsAt (fields [(10, 31), (15, 1), (33, 3)]) [] 1 0x15 [useRd, useRa, useType] (fun w => [fRd w])
      (fun _ _ _ w => Claims.intTy (fType w)) ∧
    MeetsAt (fields [(10, 7), (15, 1), (36, 1)]) [] 1 0x2C [(10, 3), useRa, (36, 1)] (fun w => [fRa w])
      (fun _ _ _ w => bitsOf w 10 3 ≠ 0) ∧
    MeetsAt (fields [(15, 1), (36, 1)]) [] 1 0x2C [(10, 3), useRa, (36, 1)] (fun w => [fRa w])
      (fun _ _ _ w => bitsOf w 10 3 = 0) ∧
    MeetsAt (fields [(10, 31), (15, 7), (36, 1)]) [] 1 0x2D [useRd, (15, 3), (36, 1)] (fun w => [fRd w])
      (fun _ _ _ _ => True) ∧
    (∀ op ∈ [0x2E, 0x2F], MeetsAt (fields [(10, 7), (15, 7), (20, 7)]) [] 1 op [(10, 3), (15, 3), (20, 3)] (fun _ => [])
      fun _ _ _ _ => True) := by
  refine ⟨?_, ?_, ?_, ?_, ?_, ?_, ?_, ?_, ?_⟩ <;> decide +kernel

theorem test_meets_VectorReductionsAndApproximations :
    (∀ op ∈ [0x18, 0x19, 0x1A],
      MeetsAt (fields [(10, 31), (15, 1), (30, 1), (33, 5)]) [] 1 op Claims.used1 (fun _ => [])
        (fun m t _ w => Claims.anyTy (fType w) ∧ Claims.activeLanes (m.thallus t) w = []) ∧
      MeetsAt (fields [(10, 31), (15, 1), (33, 3)]) [] 1 op Claims.used1 (fun _ => [])
        (fun m t _ w => Claims.intTy (fType w) ∧ Claims.activeLanes (m.thallus t) w ≠ []) ∧
      MeetsAt (fields [(10, 31), (15, 1), (33, 0)]) [] 1 op Claims.used1 (fun _ => [])
        (fun m t _ w => Claims.fpTy (fType w) ∧ vecType (fType w) = .flt fp32 ∧ Claims.activeLanes (m.thallus t) w ≠ [])) ∧
    (∀ op ∈ [0x20, 0x21, 0x22, 0x23, 0x24, 0x25],
      MeetsAt (fields [(10, 31), (15, 1), (33, 0)]) [] 1 op Claims.used1 (fun _ => [])
        fun _ _ _ w => Claims.fpTy (fType w) ∧ vecType (fType w) = .flt fp32) ∧
    MeetsAt (fields [(10, 31), (15, 1), (33, 5), (36, 0)]) [] 1 0x28 [useRd, useRa, usePred, useType, (36, 3)] (fun _ => [])
      (fun _ _ _ _ => True) := by refine ⟨?_, ?_, ?_⟩ <;> decide +kernel

theorem test_meets_VectorTileStoreAccesses :
    (∀ op ∈ [0x30, 0x31], MeetsAt (fields [(10, 31), (15, 1), (33, 5)]) [holds [(1, BitVec.ofNat 64 (tileBytes - 128))]] 1 op
      Claims.usedRow (fun w => [fRa w]) Claims.RowOk) ∧
    (∀ op ∈ [0x32, 0x33], MeetsAt (fields [(10, 31), (15, 1), (33, 4)]) [holds [(1, BitVec.ofNat 64 (tileBytes - 2))]] 1 op
      Claims.usedElems (fun w => [fRa w]) Claims.ElemsOk) := by refine ⟨?_, ?_⟩ <;> decide +kernel

/-- Frond 0 holds a dense BF16 bank. -/
def filled : Act := modThallus 7 fun th => th.setFrond 0 { th.frond 0 with active := { Bank.empty with tag := some (4, 0) } }

theorem test_meets_MatrixInstructions :
    MeetsAt (fields [(18, 4), (21, 4)]) [filled] 2 0x00 mFields (mRegs false)
      (fun m t e w => Claims.MatrixFree false m t w ∧ Claims.MatrixRuns m t e w) ∧
    MeetsAt (fields [(18, 4), (21, 4), (28, 0)]) [filled] 2 0x01 mFields (mRegs true)
      (fun m t e w => Claims.MatrixFree true m t w ∧ ((m.thallus t).sget (mRk w)).getLsbD (mBidx w) = false ∧
        Claims.MatrixRuns m t e w) ∧
    MeetsAt (fields [(18, 4), (21, 4), (43, 3), (48, 5)]) [holds [(3, 32)]] 2 0x01 mFields (mRegs true)
      (fun m t _ w => Claims.MatrixFree true m t w ∧ ((m.thallus t).sget (mRk w)).getLsbD (mBidx w) = true) := by
  refine ⟨?_, ?_, ?_⟩ <;> decide +kernel

theorem test_meets_TileMoves :
    MeetsAt (fields [(17, 4), (22, 1)]) [] 3 0x00 [(12, 2), (17, 3), (20, 2), (22, 5), (27, 5), (32, 5)]
      (fun w => [tRa w, tRb w, tRc w])
      (fun m t e w =>
        let th := m.thallus t
        let a := (th.sget (tRa w)).toNat
        tType w ≤ 5 ∧ tSparse w = 0 ∧ tRb w = 0 ∧ tRc w = 0 ∧ tType w ≠ 2 ∧ a % tileSize (tType w) = 0 ∧ a < tileBytes ∧
        (th.frond (fUnit w)).fill = none ∧ e.tile = .good) ∧
    MeetsAt (fields [(22, 1), (27, 2), (42, 0)]) [holds [(1, BitVec.ofNat 64 (tileBytes - 128))]] 3 0x02
      [(22, 5), (27, 5), (42, 8)] (fun w => [tRa w, tRb w])
      (fun m t e w => rowsOk ((m.thallus t).sget (tRa w)) (tRows w) = true ∧
        rowsOk ((m.thallus t).sget (tRb w)) (tRows w) = true ∧ e.tile = .good) ∧
    MeetsAt (fields [(22, 1), (42, 255)]) [] 3 0x03 [(22, 5), (42, 8)] (fun w => [tRa w])
      (fun m t _ w => rowsOk ((m.thallus t).sget (tRa w)) (tRows w) = true) ∧
    MeetsAt (fields [(22, 1), (27, 2), (42, 1)]) [holds [(2, 128)], modThallus 7 fun th => { th with launch := some 2 }] 3 0x04
      [(22, 5), (27, 5), (42, 8)] (fun w => [tRa w, tRb w])
      (fun m t e w =>
        let b := (m.thallus t).sget (tRb w)
        rowsOk ((m.thallus t).sget (tRa w)) (tRows w) = true ∧ b.toNat % 128 = 0 ∧ xferCheck m t b = none ∧
        (stackDie b.toNat).isSome = true ∧ 128 * tRows w ≤ roomAt b.toNat ∧ e.tile = .good) ∧
    MeetsAt (fields [(22, 1), (37, 2), (50, 3)]) [] 3 0x05 [(22, 5), (37, 5), (50, 3)] (fun w => [tRa w])
      (fun m t _ w => rowsOk ((m.thallus t).sget (tRa w)) 1 = true) := by
  refine ⟨?_, ?_, ?_, ?_, ?_⟩ <;> decide +kernel

theorem test_meets_TileDrain :
    MeetsAt (fields [(17, 4), (22, 1), (27, 2)]) [holds [(2, 32)]] 3 0x01
      [(10, 2), (12, 2), (14, 2), (16, 1), (17, 3), (22, 5), (27, 5), (32, 5), (37, 5)]
      (fun w => [tRa w, tRb w, tRc w, tRe w]) (fun m t _ w => Claims.DrainOk (m.thallus t) w) := by decide +kernel

theorem test_meets_LocalTransfers :
    MeetsAt (fields [(10, 5), (15, 1), (30, 3)]) [holds [(1, 64)]] 4 0x02 [useRd, useRa, (30, 2), (39, 1), (40, 2), (42, 1)]
      (fun w => [fRd w, fRa w]) (fun m t _ w => Claims.LocalAddr m t ((m.thallus t).sget (fRa w)) (xSize w)) ∧
    MeetsAt (fields [(15, 1), (20, 2), (30, 3)]) [holds [(1, 64)]] 4 0x03 [useRa, useRb, (30, 2), (39, 1), (40, 2), (42, 1)]
      (fun w => [fRa w, fRb w]) (fun m t _ w => Claims.LocalAddr m t ((m.thallus t).sget (fRa w)) (xSize w)) ∧
    MeetsAt (fields [(10, 5), (15, 1), (20, 2), (36, 1)]) [holds [(1, 64)]] 4 0x04
      [useRd, useRa, useRb, useRc, (32, 4), (36, 3), (39, 1), (42, 1)] (fun w => [fRd w, fRa w, fRb w, fRc w])
      (fun m t _ w => amoLegal (xAop w) (xAtype w) = true ∧
        Claims.LocalAddr m t ((m.thallus t).sget (fRa w)) (atypeBytes (xAtype w))) ∧
    MeetsAt (fields [(15, 1), (20, 2), (25, 3)]) [holds [(1, 64), (2, 4096), (3, 1)]] 4 0x01
      [useRa, useRb, useRc, (40, 2), (42, 1), (43, 12), (55, 1)] (fun w => [fRa w, fRb w, fRc w])
      (fun m t _ w =>
        let th := m.thallus t
        let n := (th.sget (fRc w)).toNat
        bitOf (th.sget (fRa w)) 63 = false ∧ bitOf (th.sget (fRb w)) 63 = false ∧ 0 < n ∧ n < 2 ^ 32 ∧
        rangeCheck m t (th.sget (fRa w)) n = none ∧ rangeCheck m t (th.sget (fRb w)) n = none ∧ xCen w = false) := by
  refine ⟨?_, ?_, ?_, ?_⟩ <;> decide +kernel

theorem test_meets_DescriptorEnters :
    MeetsAt (fields [(10, 5), (15, 1)]) [holds [(1, BitVec.ofNat 64 (tileBytes - 64))]] 4 0x00 Claims.usedDesc
      (fun w => [fRd w, fRa w])
      (fun m t e w => ((m.thallus t).sget (fRa w)).toNat % 64 = 0 ∧ ((m.thallus t).sget (fRa w)).toNat + 64 ≤ tileBytes ∧
        e.tile = .good) := by decide +kernel

/-- Counter 3 is one of the stage's chamber, and thallus 7's operands name it. -/
def counting (l : List (Nat × Word)) : Act := acts [
  modChamber 0 fun c => { c with valid := true, cntFirst := 0, cntNum := 4096 }, .upd (.arrive 3 5),
  modThallus 7 fun th => { th with launch := some 2, ctx := [(3, 1), (4, BitVec.ofNat 64 (4096 * 65536))] },
  holds l]

theorem test_meets_WaitsAndFences :
    MeetsAt (fields [(10, 5), (15, 1), (20, 2), (25, 4)]) [counting [(1, 3), (2, 5)]] 5 0x00
      [useRd, useRa, useRb, useRc, (30, 1)] (fun w => [fRd w, fRa w, fRb w, fRc w])
      (fun m t _ w => Claims.CounterOk m (m.thallus t) w ∧
        m.met (Claims.yCounter (m.thallus t) w) ((m.thallus t).sget (fRb w)) = true) ∧
    MeetsAt (fields [(10, 5), (15, 1), (20, 2), (25, 4), (30, 1)]) [counting [(1, 3), (2, 6), (4, 7)]] 5 0x00
      [useRd, useRa, useRb, useRc, (30, 1)] (fun w => [fRd w, fRa w, fRb w, fRc w])
      (fun m t _ w => Claims.CounterOk m (m.thallus t) w ∧
        m.met (Claims.yCounter (m.thallus t) w) ((m.thallus t).sget (fRb w)) = false ∧
        m.passed ((m.thallus t).sget (fRc w)) = true ∧ bitOf w 30 = true) ∧
    MeetsAt (fields [(10, 5), (15, 1), (20, 2), (25, 4)]) [counting [(1, 3), (2, 6), (4, 2000000000)]] 5 0x00
      [useRd, useRa, useRb, useRc, (30, 1)] (fun w => [fRd w, fRa w, fRb w, fRc w])
      (fun m t _ w => Claims.CounterOk m (m.thallus t) w ∧
        m.met (Claims.yCounter (m.thallus t) w) ((m.thallus t).sget (fRb w)) = false ∧
        m.passed ((m.thallus t).sget (fRc w)) = false) ∧
    MeetsAt (fields [(10, 5), (15, 1)]) [counting [(1, 3)]] 5 0x02 [useRd, useRa] (fun w => [fRd w, fRa w])
      (fun m t _ w => Claims.CounterOk m (m.thallus t) w) ∧
    MeetsAt 0 [] 5 0x04 [] (fun _ => []) (fun m t _ _ => localPending m t = false) ∧
    MeetsAt 0 [] 5 0x05 [] (fun _ => []) (fun m t _ _ => remotePending m t = false) := by
  refine ⟨?_, ?_, ?_, ?_, ?_, ?_⟩ <;> decide +kernel

theorem test_meets_ConsumeTakesFromCounter :
    MeetsAt (fields [(10, 5), (15, 1), (20, 2)]) [counting [(1, 3), (2, 5)]] 5 0x01 [useRd, useRa, useRb]
      (fun w => [fRd w, fRa w, fRb w]) (fun m t _ w => Claims.CounterOk m (m.thallus t) w) := by decide +kernel

theorem test_meets_AcquireAndFlush :
    ∀ op ∈ [0x08, 0x09],
    MeetsAt (fields [(15, 1), (20, 2)]) [holds [(1, BitVec.ofNat 64 (2 ^ 52))]] 5 op [useRa, useRb] (fun w => [fRa w, fRb w])
      (fun m t _ w => (m.thallus t).sget (fRb w) = 0 ∧ ((m.thallus t).sget (fRa w)).toNat ≤ 2 ^ 52) ∧
    MeetsAt (fields [(15, 1), (20, 2)]) [holds [(1, BitVec.ofNat 64 (2 ^ 52 - 64)), (2, 64)]] 5 op [useRa, useRb]
      (fun w => [fRa w, fRb w])
      (fun m t _ w => 0 < ((m.thallus t).sget (fRb w)).toNat ∧
        ((m.thallus t).sget (fRa w)).toNat + ((m.thallus t).sget (fRb w)).toNat ≤ 2 ^ 52) := by decide +kernel

/-- A word stands at a running thallus's program counter, whose near cache is empty. -/
abbrev Stands (w : Word) : Prop :=
  Claims.Standing (ready w []).mod 7 good w ∧ ((ready w []).mod.thallus 7).near = []

/-- Words with one reserved bit set, at both ends of an encoding, and words of no instruction. -/
theorem test_meets_IllegalInstructionStops :
    (Stands (wordOf 0 0x00 (fields [(25, 1)])) ∧ badBits (wordOf 0 0x00 (fields [(25, 1)])) [useRd, useRa, useRb] = true) ∧
    (Stands (wordOf 0 0x3F (fields [(63, 1)])) ∧ badBits (wordOf 0 0x3F (fields [(63, 1)])) [] = true) ∧
    (Stands (wordOf 1 0x00 (fields [(25, 1)])) ∧ badBits (wordOf 1 0x00 (fields [(25, 1)])) Claims.used2 = true) ∧
    (Stands (wordOf 2 0x00 (fields [(54, 1)])) ∧ badBits (wordOf 2 0x00 (fields [(54, 1)])) mFields = true) ∧
    (Stands (wordOf 4 0x00 (fields [(39, 1)])) ∧ badBits (wordOf 4 0x00 (fields [(39, 1)])) Claims.usedDesc = true) ∧
    (Stands (wordOf 5 0x04 (fields [(10, 1)])) ∧ badBits (wordOf 5 0x04 (fields [(10, 1)])) [] = true) ∧
    (Stands (wordOf 0 0x3B 0) ∧ opDefined (wordOf 0 0x3B 0) = false) ∧
    (Stands (wordOf 7 0 0) ∧ opDefined (wordOf 7 0 0) = false) := by
  refine ⟨?_, ?_, ?_, ?_, ?_, ?_, ?_, ?_⟩ <;> decide +kernel

theorem test_meets_RequestsAtTheirDestination :
    (∀ pk ∈ [(1, request 1 8 []), (2, request 2 0 [9, 8, 7, 6]), (3, request 3 (1 <<< 20) [9, 8, 7, 6, 5, 4, 3, 2]),
        (4, request 4 0 [1, 2]), (5, request 5 1000 []),
        (6, ⟨{ (request 6 0 []).hdr with addr := BitVec.ofNat 64 (2 * 2 ^ 41) }, []⟩),
        (7, ⟨{ (request 7 0 (List.replicate 16 0)).hdr with addr := BitVec.ofNat 64 (2 * 2 ^ 41) },
          leBytes 8 (255 * 2 ^ 40) ++ [1, 2, 3, 4, 5, 6, 7, 8]⟩)],
      Claims.GoodRequest (demo [windowed]).mod 1 pk.2 pk.1 0 win 0 (faOffset pk.2.hdr.addr)) ∧
    oArray (request 3 (1 <<< 20) [9, 8, 7, 6, 5, 4, 3, 2]).hdr = false ∧
    (let d := leBytes 8 (255 * 2 ^ 40) ++ [1, 2, 3, 4, 5, 6, 7, 8]
     d.length = 16 ∧ 8 ≤ wSize win ∧ bitsOf (wordAt d 0) 40 8 = 0xFF ∧ bitsOf (wordAt d 0) 0 38 = 0) := by
  refine ⟨?_, ?_, ?_⟩ <;> decide +kernel

theorem test_meets_RefusedRequestsAreDenied :
    (let s := demo [windowed]
     let pk := request 2 0 [1, 2, 3]
     pk.data.length ≤ 4096 ∧ pk.hdr.op.toNat = 2 ∧ pk.hdr.dst.toNat = s.mod.selfId ∧ pk.hdr.net = false ∧
     s.mod.dieRuns (ioDie 1) = true ∧ tooOld s.mod pk.hdr = false ∧ refuseRow s.mod pk = (some 6, 0, win)) := by
  decide +kernel

theorem test_meets_OversizePacketsFault : 4096 < (⟨hdrZero, List.replicate 4097 0⟩ : Packet).data.length := by decide +kernel

theorem test_meets_StepsKeepCanonicalForm_StepsConserveArrivals :
    ∃ t, step State.reset = .next t ∧ Memory.wf State.reset.mod.mem = true ∧ Claims.RegsWf State.reset.mod ∧
      Claims.Conserves State.reset.mod 4095 :=
  ⟨_, rfl, rfl, ⟨rfl, by intro e h; cases h⟩, rfl⟩

theorem test_meets_ThallusStops :
  (let t : Fin 1200 := 7
   let s : State := demo [up, runs 7, setThState 6 thStopped, modThallus 6 fun th => { th with launch := some 2 },
      modThallus 7 fun th => { th with launch := some 2 }]
   active s.mod t = true ∧ inRefill (s.mod.thallus t) = false ∧ (s.mod.thallus t).near = [] ∧
      mustStop s.mod t = true) ∧
  (let t : Fin 1200 := 7
   let s : State := demo [runs 7, late, modThallus 7 fun th => { th with ctx := [(6, 5)] }]
   active s.mod t = true ∧ inRefill (s.mod.thallus t) = false ∧ (s.mod.thallus t).near = [] ∧
   s.mod.passed ((s.mod.thallus t).ctx.getD 6 0) = true ∧ asleep s.mod (gsorusOf t) = false) ∧
  (let t : Fin 1200 := 7
   let x : Wait := ⟨3, 5, 1000, 4, false, false⟩
   let s : State := demo [setThState 7 thWaiting, setF (sorusReg 1) CD_SORUS_STATE_DOMAIN 3, late,
      modThallus 7 fun th => { th with wait := some ⟨3, 5, 1000, 4, false, false⟩ }]
   active s.mod t = true ∧ (s.mod.thallus t).wait = some x ∧ (s.mod.thallus t).near = [] ∧
   asleep s.mod (gsorusOf t) = false ∧ s.mod.met x.counter x.target = false ∧ s.mod.passed x.deadline = true ∧
   x.dx = false ∧ x.notified = false) := by
  refine ⟨?_, ?_, ?_⟩ <;> decide +kernel

theorem test_meets_WaitsFencesAndStagesEnd :
  (let t : Fin 1200 := 7
   let x : Wait := ⟨3, 5, 1000, 4, false, false⟩
   let s : State := demo [setThState 7 thWaiting, setF (sorusReg 1) CD_SORUS_STATE_DOMAIN 3, .upd (.arrive 3 5),
      modThallus 7 fun th => { th with wait := some ⟨3, 5, 1000, 4, false, false⟩ }]
   (s.mod.thallus t).wait = some x ∧ s.mod.met x.counter x.target = true ∧ asleep s.mod (gsorusOf t) = false) ∧
  (let t : Fin 1200 := 7
   let x : Wait := ⟨3, 5, 1000, 4, false, true⟩
   let s : State := demo [setThState 7 thWaiting, setF (sorusReg 1) CD_SORUS_STATE_DOMAIN 3,
      modThallus 7 fun th => { th with wait := some ⟨3, 5, 1000, 4, false, true⟩ }]
   (s.mod.thallus t).wait = some x ∧ x.notified = true ∧ asleep s.mod (gsorusOf t) = false) ∧
  (let t : Fin 1200 := 7
   let x : Wait := ⟨3, 5, 1000, 4, true, false⟩
   let s : State := demo [setThState 7 thWaiting, setF (sorusReg 1) CD_SORUS_STATE_DOMAIN 3, late,
      modThallus 7 fun th => { th with wait := some ⟨3, 5, 1000, 4, true, false⟩ }]
   (s.mod.thallus t).wait = some x ∧ s.mod.met x.counter x.target = false ∧ asleep s.mod (gsorusOf t) = false ∧
   s.mod.passed ((s.mod.thallus t).ctx.getD 6 0) = false ∧ s.mod.passed x.deadline = true ∧ x.dx = true ∧ x.notified = false) ∧
  (let t : Fin 1200 := 7
   let s : State := demo [runs 7, modThallus 7 fun th => { th with block := some .fenceL }]
   (s.mod.thallus t).block = some .fenceL ∧ localPending s.mod t = false) ∧
  (let t : Fin 1200 := 7
   let s : State := demo [runs 7, modThallus 7 fun th => { th with block := some .fenceF }]
   (s.mod.thallus t).block = some .fenceF ∧ remotePending s.mod t = false) ∧
  (let t : Fin 1200 := 7
   let a : Bool := true
   let b : Nat := 64
   let n : Nat := 64
   let s : State := demo [runs 7, modThallus 7 fun th => { th with block := some (.range true 64 64) }]
   (s.mod.thallus t).block = some (.range a b n) ∧ rangePending s.mod t b n = false) ∧
  (let t : Fin 1200 := 7
   let s : State := demo [runs 7,
      modThallus 7 fun th => { th with block := some .ending, sregs := [(3, 7)], launch := some 2 }]
   (s.mod.thallus t).block = some .ending ∧ allBefore s.mod t = true ∧ (∀ l ∈ (s.mod.thallus t).near, l.2.dirty = 0) ∧
   rangePending s.mod t 0 0x10000 = false) ∧
  (let t : Fin 1200 := 7
   let s : State := demo [runs 7, modThallus 7 fun th => { th with
      block := some .ending, launch := some 2, near := [(7, ⟨0, 6, List.replicate 64 1⟩)] }]
   (s.mod.thallus t).block = some .ending ∧ allBefore s.mod t = true ∧
   (∃ l ∈ (s.mod.thallus t).near, l.2.dirty ≠ 0 ∧ writeBackOf s.mod t l.1 l.2 ≠ [])) := by
  refine ⟨?_, ?_, ?_, ?_, ?_, ?_, ?_, ?_⟩ <;> decide +kernel

theorem test_meets_RepliesAndRefills :
  (let t : Fin 1200 := 7
   let a : Nat := 72
   let n : Nat := 8
   let sg : Bool := false
   let rd : BitVec 5 := 5
   let pc : Word := 8
   let w : Word := 9
   let st : Nat := 0
   let off : Nat := 64
   let way : Nat := 0
   let s : State := demo [runs 7, up, setF (stackReg 0) MS_STACK_STATE_STATE 1, .upd (.mem 64 [1, 2, 3, 4, 5, 6, 7,
      8, 9, 10]), modThallus 7 fun th => { th with block := some (.miss 72 8 false 5 none 8 9) }]
   let th := s.mod.thallus t
   let base := a / 64 * 64
   active s.mod t = true ∧ th.block = some (.miss a n sg rd none pc w) ∧ nearVictim th a = way ∧
   th.near.get? (4 * nearSet a + way) = none ∧ locate base = .stack st off ∧ 64 ≤ roomAt base ∧
   stackStatus s.mod st off 64 (s.mod.thChamber t) false = stOk ∧ th.due = [] ∧ writingBack s.mod t a = false ∧
   unitMay s.mod (chamberOf s.mod t) base 64 2 (dieOf t) = true) ∧
  (let t : Fin 1200 := 7
   let tag : BitVec 32 := 4
   let r : Reply := ⟨7, 4, 5, stOk, 0xABC, 64, false, 8, 9⟩
   let s : State := demo [runs 7, .upd (.replies [⟨7, 4, 5, stOk, 0xABC, 64, false, 8, 9⟩]),
      modThallus 7 fun th => { th with waitRd := [(5, 4)] }]
   s.mod.replies.find? (fun r : Reply => decide (r.t = t.val ∧ r.tag = tag)) = some r ∧
   asleep s.mod (gsorusOf t) = false ∧ r.status = stOk) ∧
  (let t : Fin 1200 := 7
   let tag : BitVec 32 := 4
   let r : Reply := ⟨7, 4, 5, stDataLost, 0, 64, true, 8, 9⟩
   let s : State := demo [runs 7, .upd (.replies [⟨7, 4, 5, stDataLost, 0, 64, true, 8, 9⟩])]
   s.mod.replies.find? (fun r : Reply => decide (r.t = t.val ∧ r.tag = tag)) = some r ∧
   asleep s.mod (gsorusOf t) = false ∧ r.status ≠ stOk ∧ r.stat = true) ∧
  (let t : Fin 1200 := 7
   let tag : BitVec 32 := 4
   let r : Reply := ⟨7, 4, 5, stDataLost, 0, 64, false, 8, 9⟩
   let s : State := demo [runs 7, .upd (.replies [⟨7, 4, 5, stDataLost, 0, 64, false, 8, 9⟩])]
   s.mod.replies.find? (fun r : Reply => decide (r.t = t.val ∧ r.tag = tag)) = some r ∧
   asleep s.mod (gsorusOf t) = false ∧ r.status ≠ stOk ∧ r.stat = false ∧ active s.mod t = true ∧
   inRefill (s.mod.thallus t) = false ∧ (s.mod.thallus t).near = []) ∧
  (let t : Fin 1200 := 7
   let w : Word := wordOf 5 0x04 0
   let s : State := demo [runs 7,
      modThallus 7 fun th => { th with held := some (wordOf 5 0x04 0), istore := [(0, wordOf 5 0x04 0)], codeLen := 1 }, setF (thReg 7) CD_THALLUS_STATE_CHAMBER_VALID 1, up]
   (s.mod.thallus t).held = some w ∧ mayIssue s.mod t = true ∧ (bodyOf w).isSome = true) := by
  refine ⟨?_, ?_, ?_, ?_, ?_⟩ <;> decide +kernel

theorem test_meets_FrondEvents :
  (let t : Fin 1200 := 7
   let fr : Fin 4 := 2
   let b : Bank := { Frond.init.active with vals := [1] }
   let s : State := demo [runs 7,
      modThallus 7 fun th => th.setFrond 2 { th.frond 2 with fill := some { Frond.init.active with vals := [1] } }]
   (s.mod.thallus t).held = none ∧ ((s.mod.thallus t).frond fr).fill = some b) ∧
  (let t : Fin 1200 := 7
   let fr : Fin 4 := 2
   let s : State := demo [runs 7, modThallus 7 fun th => th.setFrond 2 { th.frond 2 with draining := true }]
   (s.mod.thallus t).held = none ∧ ((s.mod.thallus t).frond fr).draining = true) ∧
  (let t : Fin 1200 := 7
   let fr : Fin 4 := 3
   let mode : Nat := 1
   let s : State := demo [runs 7,
      modThallus 7 fun th => (th.setFrond 2 { th.frond 2 with busy := true, mode := some 1 }).setFrond 3 { th.frond 3 with busy := true, mode := some 1 }]
   (s.mod.thallus t).held = none ∧ ((s.mod.thallus t).frond fr).busy = true ∧
   ((s.mod.thallus t).frond fr).mode = some mode) ∧
  (let t : Fin 1200 := 7
   let fr : Fin 4 := 2
   let acc : Fin 4 := 1
   let i : Nat := 5
   let s : State := demo [runs 7, modThallus 7 fun th => th.setFrond 2 { th.frond 2 with incomplete := [2, 5, 1] }]
   (s.mod.thallus t).held = none ∧
   ((s.mod.thallus t).frond fr).incomplete.find? (fun i : Nat => decide (i % 4 = acc.val)) = some i) := by
  refine ⟨?_, ?_, ?_, ?_⟩ <;> decide +kernel

theorem test_meets_SleepAndWake :
  (let d : Fin 8 := 0
   let i : Fin 25 := 3
   let s : State := demo [up]
   s.mod.dieState d ≠ 1 ∧ s.mod.domain (25 * d + i) = 0 ∧ (s.mod.cdie d).wakeReqs.any (·.1 = i.val) = false) ∧
  (let d : Fin 8 := 0
   let s : State := demo [up]
   s.mod.dieState d ≠ 1 ∧ s.mod.fld (CP_COMPUTE d) CP_COMPUTE_PLL = 0) ∧
  (let d : Fin 8 := 1
   let i : Nat := 3
   let s : State := demo [up, late, pll 1, modCDie 1 fun c => { c with wakeReqs := [(3, 1000000000)] }]
   s.mod.fld (CP_COMPUTE d) CP_COMPUTE_PLL = 2 ∧ s.mod.dieRuns d = true ∧ i < 25 ∧
   (s.mod.cdie d).window.1 ≠ s.mod.now.toNat / 1000 + 1 ∧ 0 < s.mod.fld (CD_LAUNCH_CFG d) CD_LAUNCH_CFG_WAKE_PACE ∧
   (s.mod.cdie d).resetting = [] ∧ (s.mod.cdie d).wakeReqs = [(i, s.mod.now)]) ∧
  (let g : Fin 200 := 1
   let s : State := demo [up, setThState 6 thStopped, setF (sorusReg 1) CD_SORUS_STATE_DOMAIN 1,
      modCDie 0 fun c => { c with waking := [1, 4] }]
   (s.mod.cdie (g / 25)).waking.contains (g % 25) = true ∧ s.mod.dieRuns (g / 25) = true ∧ stagesOf s.mod g = [] ∧
   s.mod.thState (6 * g) = thStopped) ∧
  (let g : Fin 200 := 1
   let s : State := demo [up, setF (sorusReg 1) CD_SORUS_STATE_DOMAIN 3]
   mayGate s.mod g = true) ∧
  (let g : Fin 200 := 1
   let s : State := demo [up, setF CP_CFG CP_CFG_DEEP_MS 10, .upd (.mem (tileAddr 7 100) [1, 2]),
      modThallus 7 fun th => { th with sregs := [(3, 7)] }]
   s.mod.fld CP_CFG CP_CFG_DEEP_MS ≠ 0 ∧ s.mod.domain g ≠ 1 ∧ s.mod.flag (CP_SORUS g) CP_SORUS_DEEP = false ∧
   s.mod.dieRuns (g / 25) = true ∧ (∀ t ∈ thalliOf g, s.mod.thState t = thIdle) ∧ stagesOf s.mod g = [] ∧
   loadingHolds s.mod g = false ∧ (s.mod.cdie (g / 25)).wakeReqs = []) ∧
  (let g : Fin 200 := 1
   let dl : Word := 2000
   let s : State := demo [up, late, modCDie 0 fun c => { c with timers := [(1, 2000)] }]
   (s.mod.cdie (g / 25)).timers.get? (g % 25) = some dl ∧ (dl.toNat - 1500) / 40 * 40 ≤ s.mod.now.toNat ∧
   s.mod.dieState (g / 25) ≠ 1 ∧ s.mod.domain g = 0 ∧ (s.mod.cdie (g / 25)).wakeReqs = []) ∧
  (let d : Fin 8 := 0
   let s : State := demo [pll 0]
   s.mod.fld (CP_COMPUTE d) CP_COMPUTE_PLL = 2 ∧ (s.mod.cdie d).wakeReqs = [] ∧
   (∀ i < 25, s.mod.domain (25 * d + i) = 0)) ∧
  (let d : Fin 8 := 0
   let s : State := demo [setF (CP_COMPUTE 0) CP_COMPUTE_PLL 1]
   s.mod.fld (CP_COMPUTE d) CP_COMPUTE_PLL = 1) := by
  refine ⟨?_, ?_, ?_, ?_, ?_, ?_, ?_, ?_, ?_⟩ <;> decide +kernel

/-- A queue of a running launch takes entries into slots that fit a tile store. -/
def awake0 : Act := acts [up, pll 0, setF (sorusReg 0) CD_SORUS_STATE_DOMAIN 3]

theorem test_meets_RoutersAndQueues :
  (let s : State := demo [up, pll 0, setLState 2 lRunning, .upd (.arrive 3 130), routerOn 0 2 router]
   Claims.RouterReady s.mod 0 2 router ∧ batchOk (Claims.headerAt s.mod router) = false) ∧
  (let s : State := demo [up, pll 0, setLState 2 lRunning, .upd (.arrive 3 130), .upd (.mem 128 [1, 0, 1]),
      routerOn 0 2 router]
   Claims.RouterReady s.mod 0 2 router ∧ batchOk (Claims.headerAt s.mod router) = true ∧
   batchReach s.mod (s.mod.lchamber router.launch) (Claims.headerAt s.mod router) = false) ∧
  (let d : Fin 8 := 0
   let s : State := demo [up, pll 0, stackUp 0 0, setLState 2 lRunning, .upd (.arrive 3 130),
      .upd (.mem 128 ([1, 0, 1] ++ List.replicate 38 0 ++ [4])), routerOn 0 2 { router with experts := [0x8009] }]
   let r : Router := { router with experts := [0x8009] }
   let h := Claims.headerAt s.mod r
   let k := s.mod.lchamber r.launch
   Claims.RouterReady s.mod d 2 r ∧ batchOk h = true ∧ batchReach s.mod k h = true ∧
   unitsMay s.mod k (batchRanges h) d = true ∧ Claims.homeOk s.mod k h.logits (logitBytes h) false = true ∧
   Claims.homeOk s.mod k h.result (64 * h.ntok) true = true ∧
   Claims.batchSends r h (homeBytes s.mod h.logits (logitBytes h)) ≠ []) ∧
  (let d : Fin 8 := 0
   let b : Fin 8 := 2
   let x : Batch := ⟨128, [gentry], false, 0, 1, 0⟩
   let s : State := demo [up, late, routerOn 0 2 { router with batch := some ⟨128, [gentry], false, 0, 1, 0⟩ }, gqOn 0 9 gq]
   (s.mod.cdie d).routerStopped = false ∧ Claims.batchAt s.mod d b = some x ∧ x.sends = gentry :: [] ∧
   reachesDie s.mod d gentry.die = true ∧ (s.mod.cdie gentry.die).routerStopped = false ∧
   Claims.gqAt s.mod gentry.die gentry.queue = some gq ∧ pendingOn s.mod gentry.die < 8192) ∧
  (let d : Fin 8 := 0
   let b : Fin 8 := 2
   let x : Batch := ⟨128, [gentry], false, 0, 1, 0⟩
   let s : State := demo [up, routerOn 0 2 { router with batch := some ⟨128, [gentry], false, 0, 1, 0⟩ }]
   (s.mod.cdie d).routerStopped = false ∧ Claims.batchAt s.mod d b = some x ∧ x.sends = gentry :: [] ∧
   Claims.gqAt s.mod gentry.die gentry.queue = none) ∧
  (let d : Fin 8 := 0
   let b : Fin 8 := 2
   let r : Router := { router with batch := some ⟨128, [], false, 0, 1, 0⟩ }
   let x : Batch := ⟨128, [], false, 0, 1, 0⟩
   let s : State := demo [up, stackUp 0 0, routerOn 0 2 { router with batch := some ⟨128, [], false, 0, 1, 0⟩ }]
   (s.mod.cdie d).routerStopped = false ∧ (s.mod.cdie d).routers.get? b = some r ∧ r.batch = some x ∧ x.sends = [] ∧
   sleeper s.mod x.slotAddr = none ∧ s.mod.cntFrozen.contains r.doneCnt = false ∧
   s.mod.dieRuns (memDie (counterDie r.doneCnt)) = true ∧ (s.mod.counter r.doneCnt).toNat < 2 ^ 64 - 1 ∧
   Claims.homeOk s.mod (s.mod.lchamber r.launch) (x.slotAddr + 48) 8 true = true) ∧
  (let d : Fin 8 := 0
   let q : Fin 256 := 9
   let x : GQueue := { gq with pend := [gentry] }
   let s : State := demo [late, gqOn 0 9 { gq with pend := [gentry] }]
   (s.mod.cdie d).routerStopped = false ∧ Claims.gqAt s.mod d q = some x ∧ x.pend.head? = some gentry ∧
   gentry.time + 1000 * x.window ≤ s.mod.now.toNat ∧ x.flush = none) ∧
  (let d : Fin 8 := 0
   let q : Fin 256 := 9
   let x : GQueue := { gq with finals := [2] }
   let s : State := demo [gqOn 0 9 { gq with finals := [2] }, routerOn 0 2 { router with experts := [0x8009] }]
   (s.mod.cdie d).routerStopped = false ∧ Claims.gqAt s.mod d q = some x ∧ x.flush = none ∧
   feeders s.mod x.launch d q ≠ [] ∧ (∀ f ∈ feeders s.mod x.launch d q, x.finals.contains f = true)) ∧
  (let d : Fin 8 := 0
   let q : Fin 256 := 9
   let x : GQueue := { gq with pend := [gentry], due := true }
   let es : List GEntry := [gentry]
   let fl : Nat := 2
   let s : State := demo [awake0, gqOn 0 9 { gq with pend := [gentry], due := true }]
   (s.mod.cdie d).routerStopped = false ∧ s.mod.fld (CP_COMPUTE d) CP_COMPUTE_PLL = 2 ∧ s.mod.dieRuns d = true ∧
   Claims.gqAt s.mod d q = some x ∧ releaseOf x = some (es, fl) ∧ x.releasing = none ∧
   (s.mod.counter x.cnt).toNat < x.nslot ∧
   (es.map (·.row) ++ (gqThalli x).map fun t => tileAddr t x.slotOff).filterMap (sleeper s.mod) = [] ∧
   unitsMay s.mod (s.mod.lchamber x.launch) (es.map fun g => (g.row, x.rowBytes)) d = true) ∧
  (let d : Fin 8 := 0
   let q : Fin 256 := 9
   let x : GQueue := { gq with releasing := some ⟨0, 1, [gentry], [], 0, 0, 0⟩ }
   let r : Release := ⟨0, 1, [gentry], [], 0, 0, 0⟩
   let s : State := demo [awake0, gqOn 0 9 { gq with releasing := some ⟨0, 1, [gentry], [], 0, 0, 0⟩ }]
   (s.mod.cdie d).routerStopped = false ∧ Claims.gqAt s.mod d q = some x ∧ x.releasing = some r ∧
   ((gqThalli x).map fun t => tileAddr t x.slotOff).filterMap (sleeper s.mod) = [] ∧
   (∀ t ∈ gqThalli x, t < 1200 ∧ reachesDie s.mod d (dieOf t) = true) ∧
   x.slotOff + r.slot * x.slotStride + (slotBytes s.mod x r).length ≤ tileBytes ∧
   s.mod.cntFrozen.contains x.cnt = false ∧ s.mod.dieRuns (memDie (counterDie x.cnt)) = true ∧
   (s.mod.counter x.cnt).toNat < 2 ^ 64 - 1) := by
  refine ⟨?_, ?_, ?_, ?_, ?_, ?_, ?_, ?_, ?_, ?_⟩ <;> decide +kernel

theorem test_meets_RingsAcceptAndComplete :
  (let d : Fin 8 := 1
   let r : Fin 256 := 3
   let s : State := demo [up, ringUp 1 3]
   ringServed s.mod d r = true ∧ (s.mod.ring d r).reading = false) ∧
  (let d : Fin 8 := 1
   let r : Fin 256 := 3
   let e : BitVec 512 := 0x300000000
   let s : State := demo [up, ringUp 1 3, modRing 1 3 fun x => { x with reading := true }]
   ringServed s.mod d r = true ∧ (s.mod.ring d r).reading = true ∧ eSeq e = ringExpect s.mod d r ∧
   confidential s.mod (ringChamber s.mod d r) = false ∧ (eOp e = 2 ∨ eOp e = 3) ∧ eChamber e = ringChamber s.mod d r) ∧
  (let d : Fin 8 := 1
   let r : Fin 256 := 3
   let e : BitVec 512 := 0x55000000000000000000000100000000
   let i : Nat := 0
   let s : State := demo [up, ringUp 1 3, modRing 1 3 fun x => { x with reading := true }]
   ringServed s.mod d r = true ∧ (s.mod.ring d r).reading = true ∧ eSeq e = ringExpect s.mod d r ∧
   confidential s.mod (ringChamber s.mod d r) = false ∧ eOp e = 1 ∧ eChamber e = ringChamber s.mod d r ∧
   freeSlot s.mod d (r.val / 64) = some i) ∧
  (let d : Fin 8 := 1
   let r : Fin 256 := 3
   let e : BitVec 512 := 0x300000005
   let s : State := demo [up, ringUp 1 3, modRing 1 3 fun x => { x with reading := true }]
   ringServed s.mod d r = true ∧ (s.mod.ring d r).reading = true ∧ eSeq e ≠ ringExpect s.mod d r ∧
   (eSeq e + ringSize s.mod d r) % 2 ^ 32 ≠ ringExpect s.mod d r) ∧
  (let d : Fin 8 := 1
   let r : Fin 256 := 3
   let e : BitVec 512 := 0x300000005
   let s : State := demo [up, ringUp 1 3, modRing 1 3 fun x => { x with accepted := [0x300000005, 1] }]
   nextEntry s.mod d r 3 = some e ∧ confidential s.mod (ringChamber s.mod d r) = false) ∧
  (let d : Fin 8 := 1
   let r : Fin 256 := 3
   let e : BitVec 512 := 0x200000005
   let s : State := demo [up, ringUp 1 3, modRing 1 3 fun x => { x with accepted := [0x200000005] }]
   nextEntry s.mod d r 2 = some e ∧ confidential s.mod (ringChamber s.mod d r) = false ∧
   (s.mod.cdie d).launches = []) ∧
  (let d : Fin 8 := 1
   let r : Fin 256 := 3
   let e : BitVec 512 := 0x200000005
   let i : Fin 64 := 4
   let l : Launch := Launch.fresh 1 0 0 68
   let s : State := demo [up, ringUp 1 3, launched 68 lRunning id,
      modRing 1 3 fun x => { x with accepted := [0x200000005] }]
   nextEntry s.mod d r 2 = some e ∧ confidential s.mod (ringChamber s.mod d r) = false ∧
   (s.mod.cdie d).launches = [(i.val, l)] ∧ l.home = 64 * d.val + i.val ∧ l.satellites = [] ∧ l.orphan = false ∧
   (s.mod.lword (64 * d.val + i.val) 1).toNat = eArg0 e ∧
   s.mod.lchamber (64 * d.val + i.val) = ringChamber s.mod d r ∧ s.mod.lstate (64 * d.val + i.val) = lRunning) := by
  refine ⟨?_, ?_, ?_, ?_, ?_, ?_, ?_⟩ <;> decide +kernel

theorem test_meets_LaunchStates :
  (let d : Fin 8 := 0
   let r : Fin 256 := 1
   let b : BitVec 1024 := 64 <<< (9 * 64) ||| 4096 <<< (10 * 64)
   let e : BitVec 512 := 0x80100000000
   let i : Fin 64 := 2
   let s : State := demo [up, ringUp 0 1, stackUp 0 0, setF (sorusReg 0) CD_SORUS_STATE_CHAMBER_VALID 1,
      .upd (.mem 4096 (leBytes 8 1 ++ leBytes 8 (2 ^ 32))), launched 2 lChecking id,
      modRing 0 1 fun x => { x with accepted := [0x80100000000] }]
   let image := leBytes 128 b.toNat
   Claims.SharedLaunch s.mod d r e i ∧ Claims.planReads s.mod d image = true ∧
   launchCheck s.mod (ringChamber s.mod d r) true (Claims.planAt s.mod image (64 * d.val + i.val)) = 0) ∧
  (let d : Fin 8 := 0
   let r : Fin 256 := 1
   let b : BitVec 1024 := 64 <<< (9 * 64) ||| 4096 <<< (10 * 64)
   let e : BitVec 512 := 0x80100000000
   let i : Fin 64 := 2
   let l : Launch := Launch.fresh 1 0 0 2
   let s : State := demo [up, ringUp 0 1, stackUp 0 0, launched 2 lChecking id,
      modRing 0 1 fun x => { x with accepted := [0x80100000000] }]
   let image := leBytes 128 b.toNat
   let k := 64 * d.val + i.val
   Claims.SharedLaunch s.mod d r e i ∧ Claims.planReads s.mod d image = true ∧
   launchCheck s.mod (ringChamber s.mod d r) true (Claims.planAt s.mod image k) ≠ 0 ∧ s.mod.launch? k = some l ∧
   l.satellites = [] ∧ l.ring = r.val ∧ confidential s.mod (ringChamber s.mod d r) = false) ∧
  (let d : Fin 8 := 0
   let r : Fin 256 := 1
   let b : BitVec 1024 := 1
   let e : BitVec 512 := 0x80100000000
   let i : Fin 64 := 2
   let l : Launch := Launch.fresh 1 0 0 2
   let s : State := demo [up, ringUp 0 1, launched 2 lChecking id,
      modRing 0 1 fun x => { x with accepted := [0x80100000000] }]
   let image := leBytes 128 b.toNat
   let k := 64 * d.val + i.val
   Claims.SharedLaunch s.mod d r e i ∧ imageFar s.mod (imgChamber image) image = true ∧ s.mod.launch? k = some l ∧
   l.satellites = [] ∧ l.ring = r.val ∧ confidential s.mod (ringChamber s.mod d r) = false) ∧
  (let d : Fin 8 := 0
   let i : Fin 64 := 2
   let l : Launch := Launch.fresh 1 0 0 2
   let s : State := demo [up, launched 2 lPending id]
   let k := 64 * d.val + i.val
   s.mod.launch? k = some l ∧ s.mod.lstate k = lPending ∧ l.home = k ∧ mayTake s.mod k l = true ∧
   satelliteSlots s.mod k l = some [] ∧ l.routers = [] ∧ needCode s.mod l = []) ∧
  (let d : Fin 8 := 0
   let i : Fin 64 := 2
   let l : Launch := Launch.fresh 1 0 0 2
   let s : State := demo [up, late, launched 2 lLoading id]
   let k := 64 * d.val + i.val
   s.mod.launch? k = some l ∧ s.mod.lstate k = lLoading ∧ l.home = k ∧ l.stopping = false ∧ l.satellites = [] ∧
   l.orphan = false ∧ (s.mod.cdie d).routerStopped = false ∧ l.sqs = [] ∧ needCode s.mod l = [] ∧ (∀ x ∈ launchSori l, asleep s.mod x = true)) ∧
  (let d : Fin 8 := 0
   let i : Fin 64 := 2
   let st : Fin 64 := 0
   let l : Launch := { Launch.fresh 1 0 0 2 with stages := [stage] }
   let x : Machine.Stage := stage
   let s : State := demo [up, late, launched 2 lRunning fun l => { l with stages := [stage] }]
   let k := 64 * d.val + i.val
   s.mod.launch? k = some l ∧ l.stages[st.val]? = some x ∧ s.mod.lstate k = lRunning ∧ x.die = d.val ∧
   x.asked = false ∧ l.stopping = false ∧ (stageDue s.mod l x).1 ≤ s.mod.now.toNat) ∧
  (let d : Fin 8 := 0
   let i : Fin 64 := 2
   let l : Launch := Launch.fresh 1 0 0 2
   let s : State := demo [up, late, ringUp 0 1, launched 2 lRunning id]
   let k := 64 * d.val + i.val
   s.mod.launch? k = some l ∧ s.mod.lstate k = lRunning ∧ l.home = k ∧ l.satellites = [] ∧ l.orphan = false ∧ ownOver s.mod k = true ∧
   s.mod.dieRuns d = true ∧ l.sqs = [] ∧ launchCounters l = [] ∧ bitOf (s.mod.lword k 12) 44 = false ∧
   (∀ y < 8, (s.mod.cdie y).queues = []) ∧ confidential s.mod (ringChamber s.mod d l.ring) = false ∧ l.ring < 256) ∧
  (let d : Fin 8 := 0
   let i : Fin 64 := 2
   let l : Launch := Launch.fresh 1 0 0 2
   let s : State := demo [up, late, ringUp 0 1, launched 2 lPending id, setLWord 2 13 5]
   let k := 64 * d.val + i.val
   s.mod.launch? k = some l ∧ s.mod.lstate k = lPending ∧ l.home = k ∧ l.satellites = [] ∧
   s.mod.passed (s.mod.lword k 13) = true ∧ confidential s.mod (ringChamber s.mod d l.ring) = false) ∧
  (let d : Fin 8 := 0
   let i : Fin 64 := 2
   let l : Launch := { Launch.fresh 1 0 0 2 with stages := [stage] }
   let x : Machine.Stage := stage
   let s : State := demo [up, late, launched 2 lRunning fun l => { l with stages := [stage] }, setLWord 2 13 5]
   let k := 64 * d.val + i.val
   s.mod.launch? k = some l ∧ s.mod.lstate k = lRunning ∧ l.home = k ∧ l.satellites = [] ∧
   s.mod.passed (s.mod.lword k 13) = true ∧ l.stages = [x] ∧ x.die = d.val ∧ x.started ≠ x.sori) ∧
  (let d : Fin 8 := 0
   let i : Fin 64 := 2
   let l : Launch := { Launch.fresh 1 0 0 2 with orphan := true }
   let s : State := demo [up, late, ringUp 0 1, launched 2 lRunning fun l => { l with orphan := true }]
   let k := 64 * d.val + i.val
   s.mod.launch? k = some l ∧ s.mod.lstate k = lRunning ∧ l.home = k ∧ l.satellites = [] ∧ l.orphan = true ∧
   ownOver s.mod k = true ∧ launchCounters l = [] ∧ (∀ y < 8, (s.mod.cdie y).queues = [])) := by
  refine ⟨?_, ?_, ?_, ?_, ?_, ?_, ?_, ?_, ?_, ?_⟩ <;> decide +kernel

theorem test_meets_AccessesAtTheirHome :
  (let a : Access := access
   let t : Nat := 7
   let st : Nat := 0
   let off : Nat := 64
   let rest : List Access := [accessW]
   let s : State := demo [memory, .upd (.flight [access, accessW])]
   s.mod.flight = a :: rest ∧ Claims.ServedAtOnce s.mod a st off ∧ a.kind = .read ∧ a.org = .thallus t ∧
   a.cnt = none ∧ ((s.mod.thallus t).waitRd.any fun x => x.2 = a.tag) = true ∧ a.size ≤ 8) ∧
  (let a : Access := accessW
   let t : Nat := 7
   let st : Nat := 0
   let off : Nat := 64
   let w : List Byte := [1, 2, 3, 4, 5, 6, 7, 8]
   let rest : List Access := []
   let s : State := demo [memory, .upd (.flight [accessW])]
   s.mod.flight = a :: rest ∧ Claims.ServedAtOnce s.mod a st off ∧ a.kind = .write w ∧ a.org = .thallus t ∧
   a.cnt = none) ∧
  (let a : Access := access
   let t : Nat := 7
   let st : Nat := 0
   let off : Nat := 64
   let rest : List Access := []
   let e : Ecc := .transient
   let s : State := demo [memory, .upd (.flight [access])]
   s.mod.flight = a :: rest ∧ Claims.ServedAtOnce s.mod a st off ∧ a.kind = .read ∧ a.org = .thallus t ∧
   (e = .transient ∨ e = .lasting)) ∧
  (let a : Access := access
   let t : Nat := 7
   let st : Fin 32 := 0
   let off : Nat := 64
   let s : State := demo [memory, modStk 0 fun x => { x with retry := [access] }]
   (s.mod.stk st).retry = [a] ∧ locate a.addr = .stack st off ∧ refusedEarly s.mod a = false ∧ a.kind = .read ∧
   a.org = .thallus t ∧ a.cnt = none ∧ a.size ≤ 8 ∧ ((s.mod.thallus t).waitRd.any fun x => x.2 = a.tag) = true ∧
   (s.mod.stk st).dropped = [] ∧ (s.mod.stk st).unkept = false ∧ (s.mod.stk st).heldRow = []) ∧
  (let a : Access := access
   let t : Nat := 7
   let st : Fin 32 := 0
   let off : Nat := 64
   let s : State := demo [memory, modStk 0 fun x => { x with retry := [access] }]
   (s.mod.stk st).retry = [a] ∧ locate a.addr = .stack st off ∧ refusedEarly s.mod a = false ∧ a.kind = .read ∧
   a.org = .thallus t ∧ a.cnt = none ∧ (s.mod.stk st).lost = [] ∧ (s.mod.stk st).spares = [] ∧
   remapEntries s.mod st = [] ∧ (s.mod.stk st).remaps = [] ∧ burstsOf off a.size = [off / 32] ∧
   dirtyBurst s.mod st (off / 32) = false ∧ (s.mod.stk st).heldRow = [] ∧
   ((s.mod.thallus t).waitRd.any fun x => x.2 = a.tag) = true) ∧
  (let a : Access := accessW
   let w : List Byte := [1, 2, 3, 4, 5, 6, 7, 8]
   let t : Nat := 7
   let st : Fin 32 := 0
   let off : Nat := 64
   let s : State := demo [memory, modStk 0 fun x => { x with repeating := [accessW] }]
   (s.mod.stk st).repeating = [a] ∧ locate a.addr = .stack st off ∧ refusedEarly s.mod a = false ∧ a.kind = .write w ∧
   a.org = .thallus t ∧ a.cnt = none ∧ s.mod.fld (MS_JNL_CTL (st.val / 8) a.chamber) MS_JNL_CTL_MODE = 0 ∧
   (s.mod.stk st).dropped = [] ∧ (s.mod.stk st).lost = [] ∧ a.chamber < 8 ∧ (s.mod.stk st).heldRow = [] ∧ 0 < w.length ∧
   (s.mod.stk st).spares = [] ∧ remapEntries s.mod st = [] ∧ (s.mod.stk st).remaps = [] ∧ (s.mod.stk st).retry = []) ∧
  (let a : Access := accessW
   let die : Fin 4 := 0
   let k : Fin 8 := 0
   let t : Nat := 7
   let st : Nat := 0
   let off : Nat := 64
   let w : List Byte := [1, 2, 3, 4, 5, 6, 7, 8]
   let s : State := demo [memory, modMDie 0 fun x => { x with held := [accessW] }]
   (s.mod.mdie die).held = [a] ∧ a.chamber = k.val ∧ a.org = .thallus t ∧ a.kind = .write w ∧ a.cnt = none ∧
   locate a.addr = .stack st off ∧ st / 8 = die.val ∧ refusedEarly s.mod a = false ∧
   admits s.mod die k (accessTokens a) = true ∧ (s.mod.stk st).remaps = [] ∧ (s.mod.stk st).retry = [] ∧
   (s.mod.stk st).repeating = [] ∧ (s.mod.stk st).dropped = [] ∧ (s.mod.stk st).lost = [] ∧
   s.mod.fld (MS_JNL_CTL die k) MS_JNL_CTL_MODE = 0) ∧
  (let a : Access := accessW
   let die : Fin 4 := 0
   let k : Fin 8 := 0
   let t : Nat := 7
   let st : Nat := 0
   let off : Nat := 64
   let w : List Byte := [1, 2, 3, 4, 5, 6, 7, 8]
   let s : State := demo [memory, modMDie 0 fun x => { x with jnlHeld := [accessW] }]
   (s.mod.mdie die).jnlHeld = [a] ∧ a.chamber = k.val ∧ a.org = .thallus t ∧ a.kind = .write w ∧ a.cnt = none ∧
   locate a.addr = .stack st off ∧ st / 8 = die.val ∧ refusedEarly s.mod a = false ∧ (s.mod.stk st).remaps = [] ∧
   (s.mod.stk st).retry = [] ∧ (s.mod.stk st).repeating = [] ∧ (s.mod.stk st).dropped = [] ∧
   (s.mod.stk st).lost = [] ∧ s.mod.fld (MS_JNL_CTL die k) MS_JNL_CTL_MODE = 0) := by
  refine ⟨?_, ?_, ?_, ?_, ?_, ?_, ?_, ?_⟩ <;> decide +kernel

theorem test_meets_StackMaintenance :
  (let st : Fin 32 := 9
   let e : Nat := 3
   let w : Word := 0x8000000000000005 &&& regMask (MS_REMAP 1 1 3)
   let s : State := demo [up,
      modStk 9 fun x => { x with remaps := [(3, 0x8000000000000005 &&& regMask (MS_REMAP 1 1 3))] }]
   (s.mod.stk st).remaps = [(e, w)] ∧ e < 256 ∧ (s.mod.stk st).heldRow = [] ∧ (s.mod.stk st).clearWanted = false ∧
   regMask (MS_REMAP (st.val / 8) (st.val % 8) e) &&& w = w) ∧
  (let st : Fin 32 := 0
   let b : Nat := 5
   let e : Ecc := .single
   let s : State := demo [memory]
   (e = .good ∨ e = .single) ∧ 32 * b < stackBytes ∧ stackServes s.mod st = true ∧ dirtyBurst s.mod st b = false ∧
   stackStatus s.mod st (32 * b) 32 none false = stOk) ∧
  (let st : Fin 32 := 0
   let t : BitVec 8 := 90
   let s : State := demo [memory]
   s.mod.dieRuns (memDie (st.val / 8)) = true ∧ t.toInt ≤ 110) ∧
  (let st : Fin 32 := 0
   let t : BitVec 8 := 120
   let s : State := demo [up, setF (stackReg 0) MS_STACK_STATE_STATE 1]
   s.mod.dieRuns (memDie (st.val / 8)) = true ∧ 110 < t.toInt ∧ stackState s.mod st = 1 ∧
   (s.mod.mdie (st.val / 8)).sump = [] ∧ (s.mod.mdie (st.val / 8)).held = [] ∧
   (s.mod.mdie (st.val / 8)).jnlHeld = [] ∧ (s.mod.stk st).retry = [] ∧ (s.mod.stk st).repeating = [] ∧
   (s.mod.stk st).heldRow = [] ∧ stackOwner s.mod st = none ∧ (s.mod.stk st).clearWanted = false) ∧
  (let st : Fin 32 := 0
   let s : State := demo [up, setF (stackReg 0) MS_STACK_STATE_STATE 4, modStk 0 fun x => { x with action := 1 }]
   (s.mod.stk st).action ≠ 0 ∧ stackState s.mod st = 4 ∧ (s.mod.stk st).clearWanted = false ∧
   stackOwner s.mod st = none) ∧
  (let die : Fin 4 := 1
   let s : State := demo [up]
   s.mod.dieRuns (memDie die) = true ∧ s.mod.rst.stacksZeroing = []) ∧
  (let die : Fin 4 := 1
   let s : State := demo [up, modRst fun r => { r with stacksZeroing := [1] },
      setF (stackReg 8) MS_STACK_STATE_STATE 7]
   s.mod.rst.stacksZeroing = [die.val] ∧ (∀ j < 8, stackOwner s.mod (8 * die.val + j) = none)) ∧
  (let die : Fin 4 := 1
   let x : SumpEntry := ⟨2 ^ 32 + 5, 0⟩
   let s : State := demo [up, modMDie 1 fun x => { x with sump := [⟨2 ^ 32 + 5, 0⟩] }]
   (s.mod.mdie die).sump = [x] ∧ s.mod.dieRuns (memDie die) = true) ∧
  (let st : Fin 32 := 0
   let s : State := demo [memory]
   stackServes s.mod st = true ∧ (s.mod.stk st).retry = [] ∧ (s.mod.stk st).repeating = [] ∧
   (s.mod.stk st).remaps = []) := by
  refine ⟨?_, ?_, ?_, ?_, ?_, ?_, ?_, ?_, ?_⟩ <;> decide +kernel

theorem test_meets_LedgerSnapshotsAndChecks :
  (let m : Mod := { Mod.reset with tick := 1023 }
   (m.tick + 1) % 1024 = 0) ∧
  (let i : Nat := 3
   let sn : PoolSnap := ⟨7, 2, 5, 0⟩
   let s : State := ⟨{ Mod.reset with poolBound := [(3, ⟨7, 2, 5, 0⟩), (4, ⟨0, 0, 0, 0⟩)] }, []⟩
   s.mod.tick % 1024 = 0 ∧ (s.mod.poolBound.map (·.1)).Nodup ∧ s.mod.poolBound.get? i = some sn) ∧
  (let i : Nat := 3
   let sn : PoolSnap := ⟨7, 2, 5, 0⟩
   let rest : List Nat := [4]
   let s : State := ⟨{ (demo [up]).mod with ledgerTodo := [3, 4], poolSnap := [(3, ⟨7, 2, 5, 0⟩)] }, []⟩
   s.mod.poolSnap.get? i = some sn ∧ stillToCheck s.mod = i :: rest ∧ rest ≠ [] ∧ snapOk sn = true) ∧
  (let i : Nat := 4
   let j : Nat := 3
   let s : State := ⟨{ (demo [up]).mod with ledgerTodo := [3, 4] }, []⟩
   stillToCheck s.mod = j :: [4] ∧ i ≠ j) ∧
  (let i : Nat := 3
   let sn : PoolSnap := ⟨7, 2, 4, 0⟩
   let rest : List Nat := []
   let s : State := ⟨{ (demo [up]).mod with ledgerTodo := [3], poolSnap := [(3, ⟨7, 2, 4, 0⟩)] }, []⟩
   i < 4096 ∧ s.mod.poolSnap.get? i = some sn ∧ stillToCheck s.mod = i :: rest ∧ snapOk sn = false) := by
  refine ⟨?_, ?_, ?_, ?_, ?_⟩ <;> decide +kernel

theorem test_meets_LinkRetry :
  (let p : Fin 64 := 9
   let f : Flit := mkFlit 0 0 1 false false 0 false
   let s : State := demo [up, setLink 9 lkUp, modPort 9 fun x => { x with ctlHeard := true }]
   s.mod.portOpen p = true ∧ (s.mod.port p).ctlHeard = true ∧ (s.mod.port p).dropping = false ∧ flCrcOk f = true ∧
   flKind f ≠ 0 ∧ flSeqLo f = (s.mod.port p).expect % 256) ∧
  (let p : Fin 64 := 9
   let f : Flit := ⟨5, 0⟩
   let s : State := demo [up, setLink 9 lkUp, modPort 9 fun x => { x with ctlHeard := true }]
   s.mod.portOpen p = true ∧ (s.mod.port p).ctlHeard = true ∧ (s.mod.port p).dropping = false ∧ flCrcOk f = false) ∧
  (let p : Fin 64 := 9
   let f : Flit := mkFlit (4 + 3 * 2 ^ 32 + 77 * 2 ^ 64) 0 0 true false 0 false
   let s : State := demo [up, setLink 9 lkUp,
      modPort 9 fun x => { x with ctlHeard := true, peerEpoch := some 3, retryBuf := [⟨4, ⟨1, 2⟩⟩, ⟨5, ⟨3, 4⟩⟩] }]
   s.mod.portOpen p = true ∧ (s.mod.port p).ctlHeard = true ∧ flCrcOk f = true ∧ flKind f = 0 ∧
   (s.mod.port p).peerEpoch = some (BitVec.ofNat 16 (cfEpoch f)) ∧ cfNak f = false) ∧
  (let p : Fin 64 := 9
   let s : State := demo [setLink 9 lkUp]
   s.mod.portOpen p = true) ∧
  (let p : Fin 64 := 9
   let s : State := demo [up, setLink 9 lkUp, modPort 9 fun x => { x with dropping := true, fails := 2 }]
   s.mod.portOpen p = true ∧ (s.mod.port p).dropping = true ∧ (s.mod.port p).fails < 3) ∧
  (let p : Fin 64 := 9
   let s : State := demo [up, setLink 9 lkUp, modPort 9 fun x => { x with dropping := true, fails := 3 }]
   s.mod.portOpen p = true ∧ (s.mod.port p).dropping = true ∧ 3 ≤ (s.mod.port p).fails) := by
  refine ⟨?_, ?_, ?_, ?_, ?_, ?_⟩ <;> decide +kernel

theorem test_meets_LinksAndSlots :
  (let p : Fin 64 := 9
   let s : State := demo [up, setLink 9 lkUp, modPort 9 fun x => { x with txSeq := 7 }]
   s.mod.portOpen p = true) ∧
  (let p : Fin 64 := 9
   let s : State := demo [up, strapped, portAt 9 1 lkTraining, setF (LS_FEED_STAT 2) LS_FEED_STAT_STATE 3]
   mayRise s.mod p = true ∧ s.mod.planKind p ≠ 4) ∧
  (let n : Fin 57 := 33
   let s : State := demo [up, setF (DD_LINK 33) DD_LINK_STATE dlRunning]
   s.mod.fld (DD_LINK n) DD_LINK_STATE = dlRunning ∧ s.mod.dieRuns (linkVictim n) = true) ∧
  (let p : Fin 64 := 9
   let s : State := demo [up, setLink 9 lkUp, setF (FB_PORT_ALLOT 9) FB_PORT_ALLOT_RETRY_KIB 4]
   s.mod.portOpen p = true ∧ s.mod.reqs = [] ∧ s.mod.trust.image.floors = [] ∧
   (s.mod.port p).retryBuf.length < 16 * s.mod.fld (FB_PORT_ALLOT p) FB_PORT_ALLOT_RETRY_KIB ∧
      granted s.mod p = none) ∧
  (let p : Fin 64 := 9
   let x : OutFlit := ⟨mkFlit 5 0 1 true false 0 false, 7, 12, none, 0, 0⟩
   let s : State := demo [up, setLink 9 lkUp, setF (FB_PORT_ALLOT 9) FB_PORT_ALLOT_RETRY_KIB 4,
      modPort 9 fun x => { x with granted := [(0, 5)], outq := [⟨mkFlit 5 0 1 true false 0 false, 7, 12, none, 0, 0⟩] }]
   s.mod.portOpen p = true ∧ s.mod.reqs = [] ∧ s.mod.trust.image.floors = [] ∧
   (s.mod.port p).retryBuf.length < 16 * s.mod.fld (FB_PORT_ALLOT p) FB_PORT_ALLOT_RETRY_KIB ∧
   granted s.mod p = some x ∧ x.cell = none) := by
  refine ⟨?_, ?_, ?_, ?_, ?_⟩ <;> decide +kernel

theorem test_meets_DiscoveryStages :
  (let p : Fin 64 := 9
   let msg : DiscoverMsg := discover 1 0
   let s : State := demo [up, strapped, portAt 9 1 lkQuarantined, modPort 9 fun x => { x with stage := 1 }]
   s.mod.linkState p = lkQuarantined ∧ discKind (s.mod.planKind p) = true ∧ (s.mod.port p).stage ≠ 0 ∧ msg.stage = 1) ∧
  (let p : Fin 64 := 9
   let msg : DiscoverMsg := discover 2 0
   let s : State := demo [up, strapped, portAt 9 1 lkQuarantined,
      modPort 9 fun x => { x with stage := 2, peerStage := 1, peer := some 6 }]
   s.mod.linkState p = lkQuarantined ∧ discKind (s.mod.planKind p) = true ∧ (s.mod.port p).stage ≠ 0 ∧ msg.stage = 2 ∧
   (s.mod.port p).peerStage = 1 ∧ (s.mod.port p).verdictIn = none) ∧
  (let p : Fin 64 := 9
   let msg : DiscoverMsg := discover 3 0
   let id : BitVec 14 := 6
   let s : State := demo [up, strapped, portAt 9 1 lkQuarantined,
      modPort 9 fun x => { x with stage := 3, peerStage := 2, peer := some 6 }]
   s.mod.linkState p = lkQuarantined ∧ discKind (s.mod.planKind p) = true ∧ (s.mod.port p).stage = 3 ∧ msg.stage = 3 ∧
   (s.mod.port p).peerStage = 2 ∧ (s.mod.port p).peer = some id ∧ (s.mod.port p).verdictOut = 0 ∧ msg.verdict = 0) ∧
  (let p : Fin 64 := 9
   let msg : DiscoverMsg := discover 3 1
   let id : BitVec 14 := 6
   let s : State := demo [up, strapped, portAt 9 1 lkQuarantined,
      modPort 9 fun x => { x with stage := 3, peerStage := 2, peer := some 6 }]
   s.mod.linkState p = lkQuarantined ∧ discKind (s.mod.planKind p) = true ∧ (s.mod.port p).stage = 3 ∧ msg.stage = 3 ∧
   (s.mod.port p).peerStage = 2 ∧ (s.mod.port p).peer = some id ∧ ((s.mod.port p).verdictOut ≠ 0 ∨ msg.verdict ≠ 0)) ∧
  (let p : Fin 64 := 9
   let st : BitVec 2 := 1
   let x : Packet := ⟨{ hdrZero with op := 0xC0 }, []⟩
   let s : State := demo [up, modIoDie 1 fun x => { x with inbox := [⟨{ hdrZero with op := 0xC0 }, []⟩] }]
   st ≠ 0 ∧ (s.mod.iodie (p.val / 8)).inbox = [x] ∧ x.hdr.op = 0xC0) ∧
  (let p : Fin 64 := 9
   let s : State := demo [up, strapped, portAt 9 1 lkQuarantined, modPort 9 fun x => { x with stage := 2 }]
   undecided s.mod p = true ∧ (s.mod.port p).attempts < 2) ∧
  (let p : Fin 64 := 9
   let s : State := demo [up, strapped, portAt 9 1 lkQuarantined,
      modPort 9 fun x => { x with stage := 2, attempts := 2 }]
   undecided s.mod p = true ∧ (s.mod.port p).attempts = 2 ∧
   (s.mod.queue (qDie mgmtDie)).recs.length < queueCap (qDie mgmtDie)) ∧
  (let p : Fin 64 := 9
   let s : State := demo [up, strapped, portAt 9 1 lkQuarantined,
      modPort 9 fun x => { x with stage := 0, attempts := 3 }]
   undecided s.mod p = true ∧ 3 ≤ (s.mod.port p).attempts) ∧
  (let p : Fin 64 := 9
   let s : State := demo [up, strapped, portAt 9 1 lkDown, modFabric fun f => { f with started := true }]
   s.mod.fabric.started = true ∧ absentKind (s.mod.planKind p) = true ∧ s.mod.portUp p = false ∧
   (s.mod.port p).absent = false ∧ (s.mod.queue (qDie mgmtDie)).recs.length < queueCap (qDie mgmtDie)) ∧
  (let p : Fin 64 := 9
   let s : State := demo [up, strapped, portAt 9 1 lkDown, modPort 9 fun x => { x with absent := true }]
   (s.mod.port p).absent = true ∧ s.mod.linkState p = lkDown ∧ s.mod.dieRuns (ioDie (p.val / 8)) = true ∧
   fabricHeld s.mod = false) := by
  refine ⟨?_, ?_, ?_, ?_, ?_, ?_, ?_, ?_, ?_, ?_⟩ <;> decide +kernel

theorem test_meets_NoticesAndWithdrawal :
  (let p : Fin 64 := 9
   let id : BitVec 14 := 6
   let n : BitVec 32 := 5
   let s : State := demo [up, strapped, portAt 9 1 lkUp, modPort 9 fun x => { x with peer := some 6 }]
   s.mod.portUp p = true ∧ (s.mod.port p).peer = some id ∧
   ((s.mod.fabric.serials.get? id.toNat).all fun last => decide (last < n.toNat)) = true) ∧
  (let p : Fin 64 := 9
   let id : BitVec 14 := 6
   let n : BitVec 32 := 5
   let last : Nat := 5
   let s : State := demo [up, strapped, portAt 9 1 lkUp, modPort 9 (fun x => { x with peer := some 6 }),
      modFabric fun f => { f with serials := [(6, 5)] }]
   s.mod.portUp p = true ∧ (s.mod.port p).peer = some id ∧ s.mod.fabric.serials.get? id.toNat = some last ∧
   n.toNat ≤ last) ∧
  (let p : Fin 64 := 9
   let x : Packet := ⟨{ hdrZero with op := 0xC3 }, []⟩
   let s : State := demo [up, modIoDie 1 fun x => { x with inbox := [⟨{ hdrZero with op := 0xC3 }, []⟩] }]
   (s.mod.iodie (p.val / 8)).inbox = [x] ∧ x.hdr.op = 0xC3) ∧
  (let s : State := demo [up, strapped, portAt 9 1 lkUp, modFabric fun f => { f with started := true }]
   s.mod.fabric.started = true) ∧
  (let slot : Fin 24 := 3
   let t : Nat := 5
   let s : State := demo [late, modFabric fun f => { f with lastNotice := [(3, 5)], reach := [(3, 1)] }]
   s.mod.fabric.lastNotice.get? slot = some t ∧ t + 300000000 < s.mod.now.toNat ∧
   (s.mod.fabric.reach.get? slot).isSome = true) ∧
  (let p : Fin 64 := 9
   let s : State := demo [up, strapped, portAt 9 1 lkUp]
   s.mod.portOpen p = true ∧ s.mod.linkState p ≠ lkWithdrawing) ∧
  (let p : Fin 64 := 9
   let s : State := demo [modFabric fun f => { f with withdrawing := true }]
   s.mod.fabric.withdrawing = true ∧ s.mod.fabric.replies.contains p.val = false) ∧
  (let s : State := demo [up, strapped, portAt 9 1 lkUp, modFabric fun f => { f with withdrawing := true }]
   s.mod.fabric.withdrawing = true ∧ s.mod.rst.warmPending = false) ∧
  (let k : Fin 8 := 3
   let s : State := demo [up, strapped, modFabric (fun f => { f with started := true }),
      modChamber 3 fun c => { c with valid := true, st := chHeld }]
   s.mod.fabric.started = true ∧ (s.mod.chamber k).valid = true ∧ (s.mod.chamber k).clearing = false ∧
   (s.mod.chamber k).st = chHeld ∧ s.mod.trust.maint = false) := by
  refine ⟨?_, ?_, ?_, ?_, ?_, ?_, ?_, ?_, ?_⟩ <;> decide +kernel

theorem test_meets_HallTimeAndStraps :
  (let s : State := demo [up, modFabric fun f => { f with started := true, opened := true }]
   isSource s.mod = true) ∧
  (let p : Fin 64 := 9
   let id : BitVec 14 := 6
   let s : State := demo [up, strapped, portAt 9 1 lkUp, modPort 9 fun x => { x with peer := some 6 }]
   s.mod.portOpen p = true ∧ (s.mod.port p).peer = some id) ∧
  (let p : Fin 64 := 9
   let l : Bool := true
   let s : State := demo [up, strapped, portAt 9 1 lkUp, setF TM_STATUS TM_STATUS_UP_VALID 1,
      setF TM_STATUS TM_STATUS_UP_PORT 9, modFabric fun f => { f with started := true, opened := true }]
   s.mod.portOpen p = true ∧ s.mod.flag TM_STATUS TM_STATUS_UP_VALID = true ∧
   s.mod.fld TM_STATUS TM_STATUS_UP_PORT = p.val ∧ isSource s.mod = false ∧ s.mod.fabric.opened = true ∧
   isUp s.mod p = true ∧ l = true) ∧
  (let s : State := demo [setF TM_CFG TM_CFG_PPS_EN 1]
   s.mod.flag (CP_INPUT 2) CP_INPUT_MASKED = false ∧ s.mod.flag TM_CFG TM_CFG_PPS_EN = true ∧ isSource s.mod = true) ∧
  (let s : State := demo [setF TM_CFG TM_CFG_PPS_EN 1]
   s.mod.flag TM_CFG TM_CFG_PPS_EN = true ∧ s.mod.fabric.freeRun = false ∧ isSource s.mod = true ∧
   (s.mod.queue (qDie mgmtDie)).recs.length < queueCap (qDie mgmtDie)) ∧
  (let s : State := demo [modRst fun r => { r with powerGood := true }]
   s.mod.flag MOD_POSITION MOD_POSITION_STRAPS_VALID = false ∧ s.mod.rst.powerGood = true) ∧
  (let s : State := demo [modRst fun r => { r with powerGood := true }]
   s.mod.flag MOD_POSITION MOD_POSITION_STRAPS_VALID = false ∧ s.mod.rst.powerGood = true ∧
   (s.mod.queue (qDie mgmtDie)).recs.length < queueCap (qDie mgmtDie)) := by
  refine ⟨?_, ?_, ?_, ?_, ?_, ?_, ?_⟩ <;> decide +kernel

theorem test_meets_AnswersAtTheSender :
  (let pk : Packet := ⟨{ hdrZero with op := 0x41, net := true, src := 5, tag := 77, status := 0 }, [1, 2, 3, 4, 5, 6,
     7, 8]⟩
   let r : Req := { tag := 77, org := .thallus 7, hdr := { hdrZero with op := 1, addr := 64 }, data := [], rd := 5, size := 8, stat := false, pc := 8, word := 9, run := 0, stamp := 5, chamber := 0, io := 0, sent := true, gateway := false, retried := false }
   let t : Nat := 7
   let s : State := demo [strapped,
      .upd (.reqs [{ tag := 77, org := .thallus 7, hdr := { hdrZero with op := 1, addr := 64 }, data := [], rd := 5, size := 8, stat := false, pc := 8, word := 9, run := 0, stamp := 5, chamber := 0, io := 0, sent := true, gateway := false, retried := false }]), modThallus 7 fun th => { th with waitRd := [(5, 77)] }]
   pk.data.length ≤ 4096 ∧ pk.hdr.net = true ∧ pk.hdr.src.toNat = s.mod.selfId ∧ s.mod.reqs = [r] ∧
   r.tag = pk.hdr.tag ∧ r.sent = true ∧ r.org = .thallus t ∧ r.hdr.op = 1 ∧
   ((s.mod.thallus t).waitRd.any fun x => x.2 = r.tag) = true) ∧
  (let tag : BitVec 32 := 77
   let r : Req := { tag := 77, org := .thallus 7, hdr := { hdrZero with op := 3, addr := 64 }, data := [], rd := 5, size := 8, stat := false, pc := 8, word := 9, run := 0, stamp := 5, chamber := 0, io := 0, sent := true, gateway := false, retried := false }
   let t : Nat := 7
   let s : State := demo [strapped, late,
      .upd (.reqs [{ tag := 77, org := .thallus 7, hdr := { hdrZero with op := 3, addr := 64 }, data := [], rd := 5, size := 8, stat := false, pc := 8, word := 9, run := 0, stamp := 5, chamber := 0, io := 0, sent := true, gateway := false, retried := false }]), modThallus 7 fun th => { th with waitRd := [(5, 77)] }]
   s.mod.reqs = [r] ∧ r.tag = tag ∧ r.sent = true ∧ r.org = .thallus t ∧ r.hdr.op ≠ 2 ∧
   r.stamp.toNat + 1000 * s.mod.fld RM_CFG RM_CFG_TIMEOUT_US ≤ s.mod.now.toNat ∧
   ((s.mod.thallus t).waitRd.any fun x => x.2 = r.tag) = true) ∧
  (let i : Fin 8 := 1
   let n : Nat := 0
   let b : AggBuf := ⟨6, 2, 0, 1, [(3, 255, 5, [])], 0, none⟩
   let s : State := demo [up, strapped, late,
      modIoDie 1 fun x => { x with bufs := [⟨6, 2, 0, 1, [(3, 255, 5, [])], 0, none⟩] }]
   (s.mod.iodie i).bufs[n]? = some b ∧ bufferDue s.mod b = true ∧ b.tag = none ∧ s.mod.dieRuns (ioDie i) = true) := by
  refine ⟨?_, ?_, ?_⟩ <;> decide +kernel

/-- The thallus of `xfers`, whose one segment waits for an access. -/
def waits (x : Xfer) : Act := xfers { x with segs := [.waiting 1 false stOk] }

/-- An access of segment 0 of the descriptor of thallus 7. -/
def segAccess (part : XPart) (kind : AKind) (addr size : Nat) : Access :=
  { access with org := .xfer 7 5 0 part, kind := kind, addr := addr, size := size, stat := true, tag := 0, pc := 0, word := 0
                rd := 0 }

/-- Stage queue 0 of launch 2, to which thallus 7 sends. -/
def sqOn : Act := acts [
  launched 2 lRunning (fun l => { l with sqs := [⟨7, 8, 3, 4, 256, 1, 128, 1, 1, false⟩] }),
  modThallus 7 fun th => { th with launch := some 2 }]

/-- An unpack of one block of a dense form 1 stream. -/
def unpackDescr : Xfer := xfer (BitVec.ofNat 512
  (4 + 4096 * 2 ^ 64 + tileAddr 8 1024 * 2 ^ 128 + 576 * 2 ^ 192 + 2 ^ 217 + 2 ^ 230 + tileAddr 8 4096 * 2 ^ 384))

theorem test_meets_DescriptorSegments :
  (∀ x ∈ [xfer (descr 0 8 0), xfer (BitVec.ofNat 512
      (0 + tileAddr 7 0 * 2 ^ 64 + (2 ^ 63 + 9 * 2 ^ 49 + 64) * 2 ^ 128 + 8 * 2 ^ 192))],
   let t : Fin 1200 := 7
   let j : Nat := 0
   let s : State := demo [xfers x]
   let r := segRange x.desc j
   let src := dSrc x.desc + BitVec.ofNat 64 r.1
   let dst := dDst x.desc + BitVec.ofNat 64 r.1
   Claims.NextSegment s.mod t 5 opCopy x j ∧ 0 < r.2 ∧ bitOf src 63 = false ∧
   (if bitOf dst 63 then faOffset dst else dst.toNat) % 4096 + r.2 ≤ 4096) ∧
  (let t : Fin 1200 := 7
   let x : Xfer := xfer (BitVec.ofNat 512
      (0 + (2 ^ 63 + 9 * 2 ^ 49 + 64) * 2 ^ 64 + tileAddr 8 64 * 2 ^ 128 + 8 * 2 ^ 192))
   let j : Nat := 0
   let s : State := demo [xfers x]
   let r := segRange x.desc j
   let src := dSrc x.desc + BitVec.ofNat 64 r.1
   let dst := dDst x.desc + BitVec.ofNat 64 r.1
   Claims.NextSegment s.mod t 5 opCopy x j ∧ 0 < r.2 ∧ bitOf src 63 = true ∧ bitOf dst 63 = false ∧
   dst.toNat % 4096 + r.2 ≤ 4096 ∧ s.mod.reqs = []) ∧
  (let t : Fin 1200 := 7
   let x : Xfer := xfer (descr 1 8 (2 ^ 232 + tileAddr 7 256 * 2 ^ 320))
   let s : State := demo [xfers x]
   Claims.NextSegment s.mod t 5 opFanout x 0 ∧ (x.segs.filter segInFlight).length < 8) ∧
  (let t : Fin 1200 := 7
   let j : Nat := 0
   let x : Xfer := { xfer (descr 1 8 (2 ^ 232 + tileAddr 7 256 * 2 ^ 320)) with segs := [.waiting 1 false stOk] }
   let a : Access := segAccess .entry .read (tileAddr 7 256) 16
   let s : State := demo [xfers x, .upd (.mem (tileAddr 7 256) (leBytes 8 (tileAddr 8 128))), .upd (.flight [a])]
   let entry := memRead s.mod.mem a.addr 16
   let dst := wordAt entry 0
   let c := (wordAt entry 8).toNat
   Claims.SegmentAccess s.mod t j x .entry a ∧ dOp x.desc = opFanout ∧ a.kind = .read ∧ a.size = 16 ∧
   Claims.TileRange s.mod a.addr 16 ∧ destOk s.mod t dst (dLen x.desc) (c.testBit 12) (c % 4096) = true ∧
   0 < dLen x.desc ∧ bitOf (dSrc x.desc) 63 = false ∧ bitOf dst 63 = false ∧ dst.toNat % 4096 + dLen x.desc ≤ 4096) ∧
  (∀ op ∈ [opCopy, opFanout],
   let t : Fin 1200 := 7
   let j : Nat := 0
   let x : Xfer := { xfer (descr op 8 0) with segs := [.waiting 1 false stOk] }
   let a : Access := segAccess .move (.copy (tileAddr 8 64) 0 []) (tileAddr 7 0) 8
   let s : State := demo [xfers x, .upd (.flight [a])]
   Claims.SegmentAccess s.mod t j x .move a ∧ (dOp x.desc = opCopy ∨ dOp x.desc = opFanout) ∧
   (segCounter x j).1 = false ∧ 0 < a.size ∧ tileAddr 8 64 % 128 + a.size ≤ 128 ∧ Claims.TileRange s.mod a.addr a.size ∧
   Claims.TileRange s.mod (tileAddr 8 64) a.size) ∧
  (let t : Fin 1200 := 7
   let x : Xfer := xfer (descr 2 8 (2 ^ 44))
   let j : Nat := 0
   let s : State := demo [xfers x]
   let r := segRange x.desc j
   let src := dSrc x.desc + BitVec.ofNat 64 r.1
   let dst := dDst x.desc + BitVec.ofNat 64 r.1
   Claims.NextSegment s.mod t 5 opArray x j ∧ 0 < r.2 ∧ bitOf src 63 = false ∧
   (if bitOf dst 63 then faOffset dst else dst.toNat) % 4096 + r.2 ≤ 4096) ∧
  (let t : Fin 1200 := 7
   let j : Nat := 0
   let x : Xfer := { xfer (descr 2 8 (2 ^ 44)) with segs := [.waiting 1 false stOk] }
   let a : Access := segAccess (.source 0) .read (tileAddr 7 0) 8
   let s : State := demo [xfers x, .upd (.flight [a])]
   Claims.SegmentAccess s.mod t j x (.source 0) a ∧ dOp x.desc = opArray ∧
   bitOf (dDst x.desc + BitVec.ofNat 64 (segRange x.desc j).1) 63 = false ∧ a.kind = .read ∧
   Claims.TileRange s.mod a.addr a.size) ∧
  (let t : Fin 1200 := 7
   let j : Nat := 0
   let x : Xfer := { xfer (descr 2 8 (2 ^ 44)) with segs := [.waiting 1 false stOk] }
   let v : List Byte := List.replicate (atypeBytes (dAtype x.desc)) 3
   let a : Access := segAccess .move (.amoArray (dAop x.desc) (dAtype x.desc) v none) (tileAddr 8 64) v.length
   let s : State := demo [xfers x, .upd (.flight [a])]
   Claims.SegmentAccess s.mod t j x .move a ∧ dOp x.desc = opArray ∧ dCen x.desc = false ∧
   a.size = atypeBytes (dAtype x.desc) ∧ Claims.TileRange s.mod a.addr (atypeBytes (dAtype x.desc))) ∧
  (let t : Fin 1200 := 7
   let x : Xfer := xfer (descr 3 8 0)
   let q : StageQueue := ⟨7, 8, 3, 4, 256, 1, 128, 1, 1, false⟩
   let s : State := demo [xfers x, sqOn]
   Claims.NextSegment s.mod t 5 opQsend x 0 ∧ (s.mod.thallus t).launch = some 2 ∧ homeOf s.mod 2 = 2 ∧
   (s.mod.launch? 2).map (fun l => l.sqs[dQidx x.desc]?) = some (some q) ∧ q.closed = false ∧ q.unmatched ≤ q.nslot ∧
   pathDown s.mod q = false) ∧
  (let t : Fin 1200 := 7
   let j : Nat := 0
   let x : Xfer := { xfer (descr 3 8 0) with segs := [.waiting 1 false stOk] }
   let q : StageQueue := ⟨7, 8, 3, 4, 256, 1, 128, 1, 1, false⟩
   let a : Access := segAccess .move (.copy (tileAddr 8 256) 0 []) (tileAddr 7 0) 8
   let s : State := demo [xfers x, sqOn, .upd (.flight [a])]
   Claims.SegmentAccess s.mod t j x .move a ∧ dOp x.desc = opQsend ∧ (s.mod.thallus t).launch = some 2 ∧
   queueAt s.mod t (dQidx x.desc) = some q ∧ q.closed = false ∧ counterRefused s.mod (some q.dcnt) = false ∧
   (s.mod.counter q.dcnt).toNat < counterMax ∧ 0 < a.size ∧ tileAddr 8 256 % 128 + a.size ≤ 128 ∧
   Claims.TileRange s.mod a.addr a.size ∧ Claims.TileRange s.mod (tileAddr 8 256) a.size) ∧
  (let t : Fin 1200 := 7
   let x : Xfer := unpackDescr
   let i : Nat := 0
   let st : Nat := 0
   let s : State := demo [xfers unpackDescr, stackUp 0 0, .upd (.mem 4096 [7, 6, 5])]
   s.mod.dieRuns (dieOf t) = true ∧ (s.mod.thallus t).queue = [x] ∧ x.seq = 5 ∧
   nextBlock s.mod t 5 = some (x, 0, i, false) ∧ sleeper s.mod (dDst x.desc).toNat = none ∧ blockMay s.mod t x i = true ∧
   (let d := x.desc
    let z := outSizes d
    let ch := chOf (chamberOf s.mod t)
    let at_ := (dSrc d).toNat + blockPos x i
    let map := leNat (memRead s.mod.mem at_ (mapBytes d))
    let n := blockBytes (dForm d) (dEtype d) (dOform d) (popCount 1024 map)
    let scales := (dAux d).toNat + 32 * i
    mapBytes d = 0 ∧ Claims.StackRead s.mod ch st (at_ + mapBytes d) n ∧ scaleBytes d = 0 ∧
    (s.mod.stk st).dropped = [] ∧ (s.mod.stk st).unkept = false ∧ dForm d = 1 ∧
    blockPos x i + mapBytes d + n ≤ dSrcBytes d ∧
    (unpackBlock d map (memRead s.mod.mem (at_ + mapBytes d) n) (memRead s.mod.mem scales (scaleBytes d))).isSome = true ∧
    ∀ o ∈ unpackBlock d map (memRead s.mod.mem (at_ + mapBytes d) n) (memRead s.mod.mem scales (scaleBytes d)),
      Claims.TileRange s.mod ((dDst d).toNat + i * z.1) o.1.length ∧
      Claims.TileRange s.mod (if z.2.1 = 0 then (dDst d).toNat else dMdst d + i * z.2.1) o.2.1.length ∧
      Claims.TileRange s.mod (if z.2.2 = 0 then (dDst d).toNat else dSdst d + i * z.2.2) o.2.2.length ∧
      counterRefused s.mod (if dCen d then some (dDcnt d) else none) = false)) ∧
  (let t : Fin 1200 := 7
   let x : Xfer := { xfer (descr 0 8 (tileAddr 7 512 * 2 ^ 256)) with segs := [.ok, .failed 3] }
   let s : State := demo [xfers x]
   s.mod.dieRuns (dieOf t) = true ∧ (s.mod.thallus t).queue = [x] ∧ x.seq = 5 ∧ (x.segs.all segEnded) = true ∧
   dScen x.desc = false ∧ dCrec x.desc ≠ 0 ∧ Claims.TileRange s.mod (dCrec x.desc) 32) := by
  refine ⟨?_, ?_, ?_, ?_, ?_, ?_, ?_, ?_, ?_, ?_, ?_, ?_⟩ <;> decide +kernel

theorem test_meets_LaserFeeds :
  (let f : Fin 16 := 3
   let ls : List Int := List.replicate 18 (-100)
   let tot : Int := -700
   let s : State := demo [setF (LS_FEED_STAT 3) LS_FEED_STAT_STATE 1, modPins fun p => { p with laserEn := 8 }]
   Claims.feedState s.mod f = 1 ∧ s.mod.pins.laserEn.getLsbD f = true ∧ pilotPass ls tot = true) ∧
  (let f : Fin 16 := 3
   let ls : List Int := []
   let tot : Int := -700
   let s : State := demo [setF (LS_FEED_STAT 3) LS_FEED_STAT_STATE 1, modPins fun p => { p with laserEn := 8 }]
   Claims.feedState s.mod f = 1 ∧ s.mod.pins.laserEn.getLsbD f = true ∧ pilotPass ls tot = false) ∧
  (let f : Fin 16 := 3
   let s : State := demo [setF (LS_FEED_STAT 3) LS_FEED_STAT_STATE 1, modTrust (fun t => { t with pilotOk := [3] }),
      modPins fun p => { p with laserEn := 8 }]
   Claims.feedState s.mod f = 1 ∧ s.mod.trust.pilotOk.contains f.val = true ∧ s.mod.pins.laserEn.getLsbD f = true ∧
   s.mod.fld (LS_DIE (f.val / 2)) LS_DIE_HANDOVER ≠ 3) ∧
  (let f : Fin 16 := 3
   let s : State := demo [setF (LS_FEED_STAT 3) LS_FEED_STAT_STATE 2, setF (LS_FEED_STAT 3) LS_FEED_STAT_FAULT_N 1,
      setF (LS_FEED_CTL 3) LS_FEED_CTL_ENABLE 1, modTrust fun t => { t with image := { t.image with feedAllow := 8 } }]
   Claims.feedState s.mod f = 2 ∧ s.mod.flag (LS_FEED_CTL f) LS_FEED_CTL_ENABLE = true ∧ feedMayRise s.mod f = true) ∧
  (let f : Fin 16 := 3
   let s : State := demo [setF (LS_FEED_STAT 3) LS_FEED_STAT_STATE 3, late, modPins fun p => { p with laserEn := 8 }]
   Claims.feedState s.mod f = 3) ∧
  (let f : Fin 16 := 3
   let s : State := demo [setF (CP_INPUT 6) CP_INPUT_LEVEL 1]
   s.mod.flag (CP_INPUT (3 + f.val)) CP_INPUT_MASKED = false ∧
      s.mod.flag (CP_INPUT (3 + f.val)) CP_INPUT_LEVEL = true) ∧
  (let f : Fin 16 := 3
   let s : State := demo [setF (CP_INPUT 6) CP_INPUT_LEVEL 0, setF (LS_FEED_STAT 3) LS_FEED_STAT_STATE 5]
   s.mod.flag (CP_INPUT (3 + f.val)) CP_INPUT_MASKED = false ∧
   s.mod.flag (CP_INPUT (3 + f.val)) CP_INPUT_LEVEL = false ∧ Claims.feedState s.mod f = 5 ∧
   s.mod.fld (LS_DIE (f.val / 2)) LS_DIE_HANDOVER ≠ 3) := by
  refine ⟨?_, ?_, ?_, ?_, ?_, ?_, ?_⟩ <;> decide +kernel

theorem test_meets_RingsMonitorsAndCalibration :
  (let p : Fin 64 := 9
   let tx : Bool := true
   let s : State := demo []
   moveOf s.mod tx p = none) ∧
  (let p : Fin 64 := 9
   let tx : Bool := false
   let l : Fin 18 := 3
   let s : State := demo [setF (PT_RX_LANE 9 3) lockFld 1]
   s.mod.fld (laneReg tx p l) lockFld = 1) ∧
  (let p : Fin 64 := 9
   let l : Fin 18 := 3
   let s : State := demo [setF (PT_RX_LANE 9 3) lockFld 1]
   s.mod.fld (laneReg false p l) lockFld = 1 ∧ (s.mod.port p).retiredRx.contains l.val = false) ∧
  (let p : Fin 64 := 9
   let l : Fin 18 := 3
   let s : State := demo [late, modPort 9 (fun x => { x with suspRx := [3] }), setLane false 9 3 16]
   (s.mod.port p).suspRx.contains l.val = true ∧ s.mod.logicalOn false p l = none) ∧
  (let p : Fin 64 := 9
   let l : Fin 18 := 3
   let s : State := demo [late, modPort 9 (fun x => { x with suspRx := [3] }), setLane false 9 3 16]
   (s.mod.port p).suspRx.contains l.val = true ∧ s.mod.logicalOn false p l = none) ∧
  (let p : Fin 64 := 9
   let x : Fin 18 := 16
   let mv : Move := move false 2
   let s : State := demo [modPort 9 fun x => { x with moveR := some (move false 2) }]
   (s.mod.port p).moveR = some mv ∧ mv.dst = x.val ∧ mv.step = 2 ∧ (s.mod.port p).lmcRx = none) ∧
  (let p : Fin 64 := 9
   let mv : Move := move false 3
   let s : State := demo [modPort 9 fun x => { x with moveR := some (move false 3) }]
   (s.mod.port p).moveR = some mv ∧ mv.step = 3 ∧ mv.logical < 16 ∧ mv.dst < 18) ∧
  (let p : Fin 64 := 9
   let x : Fin 18 := 16
   let tx : Bool := true
   let s : State := demo [modPort 9 fun x => { x with retraining := [(16, true)] }]
   (s.mod.port p).retraining = [(x.val, tx)]) ∧
  (let p : Nat := 9
   let l : Nat := 16
   let ph : Nat := 1
   let s : State := demo [.upd (.calPhase (some (9, 16, 1)))]
   s.mod.calPhase = some (p, l, ph) ∧ 1 ≤ ph ∧ ph ≤ 3) ∧
  (let p : Fin 64 := 9
   let l : Nat := 16
   let s : State := demo [.upd (.calPhase (some (9, 16, 4)))]
   s.mod.calPhase = some (p.val, l, 4) ∧ 16 ≤ l ∧ l < 18) ∧
  (let p : Fin 64 := 9
   let l : Nat := 16
   let s : State := demo [.upd (.calPhase (some (9, 16, 6)))]
   s.mod.calPhase = some (p.val, l, 6) ∧ 16 ≤ l ∧ l < 18) ∧
  (let p : Fin 64 := 9
   let l : Fin 18 := 3
   let s : State := demo [setF (PT_TX_LANE 9 3) lockFld 1]
   s.mod.fld (PT_TX_LANE p l) lockFld = 1 ∧ (s.mod.iodie (p.val / 8)).hand = none) := by
  refine ⟨?_, ?_, ?_, ?_, ?_, ?_, ?_, ?_, ?_, ?_, ?_, ?_⟩ <;> decide +kernel

theorem test_meets_LaneManagementFrames :
  (let p : Fin 64 := 9
   let f : Word := frame 1 3 16 2
   let s : State := demo [setLink 9 lkUp]
   s.mod.portOpen p = true ∧ frameOk s.mod p frMoveReq f = true ∧ frLogical f < 16 ∧ 16 ≤ frPhys f ∧ frPhys f < 18 ∧
   (s.mod.port p).move = none ∧ (s.mod.port p).queuedMoves = [] ∧ s.mod.laneOf true p (frLogical f) ≠ frPhys f ∧
   s.mod.spareUse p (frPhys f) = 0) ∧
  (let p : Fin 64 := 9
   let f : Word := frame 2 3 16 2
   let s : State := demo [setLink 9 lkUp]
   s.mod.portOpen p = true ∧ frameOk s.mod p frTrainStart f = true ∧ frLogical f < 16 ∧ frPhys f < 18 ∧ (s.mod.port p).moveR = none) ∧
  (let p : Fin 64 := 9
   let f : Word := frame 3 3 16 2
   let mv : Move := move true 2
   let s : State := demo [modPort 9 fun x => { x with move := some (move true 2) }]
   frameOk s.mod p frTrained f = true ∧ frameMove s.mod true p f = some mv ∧ mv.step = 2) ∧
  (let p : Fin 64 := 9
   let f : Word := frame 4 3 16 2
   let mv : Move := move false 2
   let s : State := demo [modPort 9 fun x => { x with moveR := some (move false 2) }]
   frameOk s.mod p frMirrorOn f = true ∧ frameMove s.mod false p f = some mv ∧ mv.step = 2) ∧
  (let p : Fin 64 := 9
   let f : Word := frame frSwitched 3 16 2
   let mv : Move := move true 3
   let s : State := demo [modPort 9 fun x => { x with move := some (move true 3) }]
   frameOk s.mod p frSwitched f = true ∧ frameMove s.mod true p f = some mv ∧ mv.step = 3 ∧ mv.logical < 16 ∧
   mv.dst < 18 ∧ mv.cause = 2 ∧ s.mod.calPhase = none ∧ (s.mod.port p).queuedMoves = [] ∧
   (s.mod.iodie (p.val / 8)).comb = []) ∧
  (let p : Fin 64 := 9
   let f : Word := frame frCalStart 3 16 2
   let s : State := demo []
   frameOk s.mod p frCalStart f = true ∧ frPhys f < 18) ∧
  (let p : Fin 64 := 9
   let f : Word := frame frCalDone 3 16 2
   let s : State := demo []
   frameOk s.mod p frCalDone f = true ∧ frPhys f < 18) ∧
  (let p : Fin 64 := 9
   let f : Word := frame frAbort 3 16 2
   let mv : Move := move true 2
   let s : State := demo [modPort 9 fun x => { x with move := some (move true 2) }]
   frameOk s.mod p frAbort f = true ∧ frameMove s.mod true p f = some mv ∧ mv.tx = true ∧
   frameMove s.mod false p f = none ∧ s.mod.calPhase = none ∧ (s.mod.port p).queuedMoves = [] ∧
   (s.mod.iodie (p.val / 8)).comb = []) ∧
  (let p : Fin 64 := 9
   let f : Word := frame frMap 3 16 2
   let s : State := demo []
   frameOk s.mod p frMap f = true ∧ frLogical f < 16 ∧ frPhys f < 18) ∧
  (let p : Fin 64 := 9
   let f : Word := frame frAck 3 16 2
   let x : LmcSend := ⟨frame 4 3 16 2, 2⟩
   let s : State := demo [modPort 9 fun x => { x with lmcTx := some ⟨frame 4 3 16 2, 2⟩ }]
   frameOk s.mod p frAck f = true ∧ (s.mod.port p).lmcTx = some x ∧ frLogical x.frame = frLogical f ∧
   frPhys x.frame = frPhys f ∧ (s.mod.port p).lmcRx = none) ∧
  (let p : Fin 64 := 9
   let x : LmcSend := ⟨frame 4 3 16 2, 3⟩
   let s : State := demo [modPort 9 fun x => { x with lmcTx := some ⟨frame 4 3 16 2, 3⟩ }]
   (s.mod.port p).lmcTx = some x ∧ x.sends < 4 ∧ (s.mod.port p).lmcRx = none) := by
  refine ⟨?_, ?_, ?_, ?_, ?_, ?_, ?_, ?_, ?_, ?_, ?_⟩ <;> decide +kernel

theorem test_meets_RegisterWrites :
  (let who : Requester := .sfw
   let off : Nat := RM_CFG
   let size : Nat := 8
   let row : RegRow := ⟨0x600000, [], [⟨0, 16, .lck, 0xFA0⟩]⟩
   let ix : List Nat := []
   let s : State := demo [up]
   accessOk off size = true ∧ reaches s.mod who off = true ∧ regFind (regOff off) regTable = some (row, ix) ∧
   ignores s.mod who row.base ix = false ∧
   row.base ∉ [CD_RING_CTL 0 0, PT_CAL 0, DD_RESET, TH_STATUS, TR_GATE_CTL 0] ∧
   s.mod.reg (regOff off) &&& regMask (regOff off) = s.mod.reg (regOff off)) ∧
  (let who : Requester := .sfw
   let off : Nat := 3
   let size : Nat := 8
   let s : State := demo []
   (accessOk off size = false ∨ reaches s.mod who off = false)) ∧
  (let tag : BitVec 16 := 9
   let off : BitVec 52 := 4
   let n : BitVec 13 := 8
   let s : State := demo [setF VL_PORTS VL_PORTS_STATE0 2]
   voloshUp s.mod = true ∧ tagBusy s.mod tag = false ∧ (n.toNat = 4 ∨ n.toNat = 8) ∧
   accessOk off.toNat n.toNat = false) ∧
  (let d : Fin 8 := 1
   let r : Fin 256 := 3
   let val : Word := 0x500000100
   let s : State := demo [up, ringUp 1 3, modChamber 0 fun c => { c with valid := true, st := chReady }]
   bitOf val 8 = true ∧ ringsAllowed s.mod (ringChamber s.mod d r) = true ∧
   s.mod.flag (CD_RING_CTL d r) CD_RING_CTL_ENABLE = true ∧ s.mod.dieRuns d = true ∧
   bound s.mod (ringChamber s.mod d r) = false) ∧
  (let p : Fin 64 := 9
   let val : Word := 0x3F
   let s : State := demo []
   bitOf val 5 = true ∧ calRefused s.mod p (bitsOf val 0 5) = true) ∧
  (let p : Fin 64 := 9
   let val : Word := 0x30
   let s : State := demo []
   bitOf val 5 = true ∧ calRefused s.mod p (bitsOf val 0 5) = false ∧ 16 ≤ bitsOf val 0 5) ∧
  (let val : Word := 0xC0
   bitOf val 5 = false) ∧
  (let g : Fin 200 := 1
   let val : Word := 0x101
   let s : State := demo [up]
   bitOf val 8 = true ∧ bitOf val 22 = false ∧ bitsOf val 0 8 = g.val ∧ sorusResetRefused s.mod g = false) ∧
  (let g : Nat := 200
   let val : Word := 0x1C8
   let s : State := demo []
   bitOf val 8 = true ∧ bitOf val 22 = false ∧ bitsOf val 0 8 = g ∧ sorusResetRefused s.mod g = true) ∧
  (let p : Fin 64 := 9
   let val : Word := 0x490000
   let s : State := demo [up]
   bitOf val 8 = false ∧ bitOf val 22 = true ∧ bitsOf val 16 6 = p.val ∧ s.mod.dieRuns (ioDie (p.val / 8)) = true) ∧
  (let val : Word := 0x1000000
   bitOf val 8 = false ∧ bitOf val 22 = false) ∧
  (let val : Word := 2
   let s : State := demo [setF TH_STATUS TH_STATUS_FAULT 1]
   bitOf val 1 = true ∧ s.mod.trust.halted = false ∧ (∀ n < 22, s.mod.flag (TH_DIE n) TH_DIE_ISOLATED = false)) := by
  refine ⟨?_, ?_, ?_, ?_, ?_, ?_, ?_, ?_, ?_, ?_, ?_⟩ <;> decide +kernel

theorem test_meets_VoloshLink :
  (let p : Fin 64 := 9
   let i : Nat := 0
   let w : BitVec 6 := 40
   let b : BitVec 12 := 1
   let s : State := demo [up, setLink 9 lkUp, setF VL_PORTS VL_PORTS_PORT0_VALID 1, setF VL_PORTS VL_PORTS_PORT0 9,
      setF VL_PORTS VL_PORTS_STATE0 1]
   voloshIndex s.mod p = some i ∧ s.mod.portOpen p = true ∧ voloshState s.mod i = 1 ∧
   s.mod.fld VL_CFG VL_CFG_WIN_LOG2 ≤ w.toNat ∧ 1 ≤ b.toNat) ∧
  (let p : Fin 64 := 9
   let i : Nat := 0
   let v : BitVec 8 := 2
   let s : State := demo [up, setLink 9 lkUp, setF VL_PORTS VL_PORTS_PORT0_VALID 1, setF VL_PORTS VL_PORTS_PORT0 9,
      setF VL_PORTS VL_PORTS_STATE0 1]
   voloshIndex s.mod p = some i ∧ s.mod.portOpen p = true ∧ voloshState s.mod i = 1 ∧ v ≠ 1) ∧
  (let p : Fin 64 := 9
   let i : Nat := 0
   let s : State := demo [up, setLink 9 lkUp, setF VL_PORTS VL_PORTS_PORT0_VALID 1, setF VL_PORTS VL_PORTS_PORT0 9,
      setF VL_PORTS VL_PORTS_STATE0 3]
   voloshIndex s.mod p = some i ∧ voloshState s.mod i = 3) ∧
  (let off : BitVec 52 := 70
   let l : VLine := ⟨true, true, none, [5]⟩
   let s : State := demo [setF VL_PORTS VL_PORTS_STATE0 2,
      modVolosh fun v => { v with lines := [(64, ⟨true, true, none, [5]⟩)] }]
   voloshUp s.mod = true ∧ s.mod.volosh.lines.get? (off.toNat / 64 * 64) = some l ∧ l.watch = none) ∧
  (let tag : BitVec 16 := 9
   let r : VReq := ⟨9, opRdShared, 128, [], none, some 9⟩
   let bs : List Byte := List.replicate 64 3
   let s : State := demo [setF VL_PORTS VL_PORTS_STATE0 2,
      modVolosh fun v => { v with reqs := [⟨9, opRdShared, 128, [], none, some 9⟩] }]
   s.mod.volosh.reqs = [r] ∧ r.tag = tag ∧ r.port.isSome = true ∧ r.opc = opRdShared ∧ r.watch = none ∧ bs.length = 64) ∧
  (let tag : BitVec 16 := 9
   let r : VReq := ⟨9, opWrNc, 128, [], none, some 9⟩
   let s : State := demo [setF VL_PORTS VL_PORTS_STATE0 2,
      modVolosh fun v => { v with reqs := [⟨9, opWrNc, 128, [], none, some 9⟩] }]
   s.mod.volosh.reqs = [r] ∧ r.tag = tag ∧ opRdNc < r.opc ∧ r.port.isSome = true ∧ r.watch = none) ∧
  (let tag : BitVec 16 := 9
   let a : BitVec 52 := 64
   let n : BitVec 13 := 8
   let st : Nat := 0
   let off : Nat := 64
   let k : Nat := 0
   let s : State := demo [memory, setF (VL_CHAMBER 0) VL_CHAMBER_HOST_ACCESS 1, setF VL_PORTS VL_PORTS_STATE0 2]
   voloshUp s.mod = true ∧ tagBusy s.mod tag = false ∧ devSize n.toNat = true ∧ devCrosses a.toNat n.toNat = false ∧
   devStatus s.mod a.toNat n.toNat none = stOk ∧ stackOwner s.mod st = some k ∧
   Claims.ServedAtOnce s.mod { org := .volosh tag, kind := .read, addr := a.toNat, size := n.toNat, hint := 0, chamber := k, cnt := none, stat := false, tag := 0, pc := 0, word := 0, stamp := s.mod.now, rd := 0, run := 0 } st off) ∧
  (let tag : BitVec 16 := 9
   let a : BitVec 52 := 64
   let bs : List Byte := List.replicate 64 3
   let st : Nat := 0
   let off : Nat := 64
   let k : Nat := 0
   let s : State := demo [memory, setF (VL_CHAMBER 0) VL_CHAMBER_HOST_ACCESS 1, setF VL_PORTS VL_PORTS_STATE0 2]
   voloshUp s.mod = true ∧ tagBusy s.mod tag = false ∧ devSize bs.length = true ∧
   devCrosses a.toNat bs.length = false ∧ devStatus s.mod a.toNat bs.length none = stOk ∧
   stackOwner s.mod st = some k ∧
   Claims.ServedAtOnce s.mod { org := .volosh tag, kind := .write bs, addr := a.toNat, size := bs.length, hint := 0, chamber := k, cnt := none, stat := false, tag := 0, pc := 0, word := 0, stamp := s.mod.now, rd := 0, run := 0 } st off) ∧
  (let tag : BitVec 16 := 9
   let off : BitVec 52 := 0
   let n : BitVec 13 := 8
   let s : State := demo [setF VL_CFG VL_CFG_REG_MASK 0xFFFF, setF VL_PORTS VL_PORTS_STATE0 2]
   voloshUp s.mod = true ∧ tagBusy s.mod tag = false ∧ accessOk off.toNat n.toNat = true ∧
   reaches s.mod .companion off.toNat = true) ∧
  (let tag : BitVec 16 := 9
   let off : BitVec 52 := 0
   let bs : List Byte := List.replicate 8 3
   let s : State := demo [setF VL_CFG VL_CFG_REG_MASK 0xFFFF, setF VL_PORTS VL_PORTS_STATE0 2]
   voloshUp s.mod = true ∧ tagBusy s.mod tag = false ∧ accessOk off.toNat bs.length = true ∧
   reaches s.mod .companion off.toNat = true) ∧
  (let off : BitVec 52 := 64
   let l : VLine := ⟨true, true, none, [5]⟩
   let s : State := demo [modVolosh fun v => { v with lines := [(64, ⟨true, true, none, [5]⟩)] }]
   s.mod.volosh.lines.get? off.toNat = some l ∧ l.owned = true ∧ l.written = true) ∧
  (let s : State := demo [setF VL_PORTS VL_PORTS_PORT0_VALID 1,
     modVolosh fun v => { v with lines := [(64, ⟨true, true, none, [5]⟩)] }]
   voloshUp s.mod = false ∧ s.mod.flag VL_PORTS VL_PORTS_PORT0_VALID = true) ∧
  (let opc : BitVec 8 := 0x99
   let s : State := demo [setF VL_PORTS VL_PORTS_STATE0 2]
   voloshUp s.mod = true ∧ opc.toNat ∉ [0x21, 0x22, 0x41, 0x42, 0x43, 0x44, 0x81, 0x82, 0xE0, 0xE1] ∧
   (s.mod.queue (qDie mgmtDie)).recs.length < queueCap (qDie mgmtDie)) := by
  refine ⟨?_, ?_, ?_, ?_, ?_, ?_, ?_, ?_, ?_, ?_, ?_, ?_, ?_⟩ <;> decide +kernel

theorem test_meets_SpdmAndConfidential :
  (let s : State := demo [spdm 3]
   Claims.SpdmReady s.mod ∧ s.mod.volosh.spdm ≠ 8) ∧
  (let s : State := demo [spdm 1]
   Claims.SpdmReady s.mod ∧ s.mod.volosh.spdm = 1) ∧
  (let s : State := demo [spdm 2]
   Claims.SpdmReady s.mod ∧ s.mod.volosh.spdm = 2) ∧
  (let s : State := demo [spdm 3]
   Claims.SpdmReady s.mod ∧ 3 ≤ s.mod.volosh.spdm ∧ s.mod.volosh.spdm ≤ 5) ∧
  (let slot : BitVec 8 := 1
   let chain : List Byte := []
   let s : State := demo [spdm 4]
   Claims.SpdmReady s.mod ∧ (s.mod.volosh.spdm = 4 ∨ s.mod.volosh.spdm = 5) ∧ slot.toNat < 2 ∧
   certChain s.mod slot.toNat = some chain) ∧
  (let s : State := demo [spdm 5]
   Claims.SpdmReady s.mod ∧ (s.mod.volosh.spdm = 5 ∨ s.mod.volosh.spdm = 6)) ∧
  (let s : State := demo [spdm 6]
   Claims.SpdmReady s.mod ∧ (s.mod.volosh.spdm = 5 ∨ s.mod.volosh.spdm = 6)) ∧
  (let mutualOk : Bool := false
   let s : State := demo [spdm 7]
   Claims.SpdmReady s.mod ∧ s.mod.volosh.spdm = 7 ∧ (mutualOk = true ∨ s.mod.trust.image.mutAuth = false)) ∧
  (let ok : Bool := false
   let mutualOk : Bool := true
   let s : State := demo [spdm 7]
   Claims.SpdmReady s.mod ∧ s.mod.volosh.spdm = 7 ∧
   (ok = false ∨ (mutualOk = false ∧ s.mod.trust.image.mutAuth = true))) ∧
  (let s : State := demo [spdm 8]
   Claims.SpdmReady s.mod ∧ s.mod.volosh.spdm = 8) ∧
  (let s : State := demo [spdm 8]
   Claims.SpdmReady s.mod ∧ s.mod.volosh.spdm = 8 ∧ Claims.NoBinding s.mod) ∧
  (let s : State := demo [spdm 8]
   s.mod.volosh.spdm = 8 ∧ s.mod.trust.halted = false ∧ Claims.NoBinding s.mod) ∧
  (let nonce : List Byte := [1, 2]
   let s : State := demo [spdm 0, modRst fun r => { r with powerGood := true }]
   voloshUp s.mod = true ∧ mayReport s.mod = true ∧ nonce.length ≤ 48) ∧
  (let s : State := demo [spdm 0, modChamber 3 fun c => { c with mslots := [⟨5, [1], 64, 0, some 9⟩] }]
   voloshUp s.mod = true ∧ s.mod.trust.halted = false) ∧
  (let tag : BitVec 16 := 3
   let k : Nat := 3
   let s : State := demo [up, spdm 8, chamberSealed]
   Claims.SpdmReady s.mod ∧ s.mod.volosh.spdm = 8 ∧ k < 8 ∧ (s.mod.chamber k).valid = true ∧
   confidential s.mod k = true ∧ (s.mod.chamber k).tag = tag ∧ (∀ j < 8, j ≠ k → (s.mod.chamber j).tag ≠ tag) ∧
   bound s.mod k = false ∧ (s.mod.chamber k).bindWanted = none ∧ (∀ d < 8, (s.mod.cdie d).launches = [])) ∧
  (let k : Fin 8 := 3
   let s : State := demo [up, modChamber 3 (fun c => { c with valid := true, clearing := true, stackMask := 3 }),
      stackUp 0 3, setF (stackReg 0) MS_STACK_STATE_STATE 7, stackUp 1 3]
   clearOver s.mod k = true ∧ confidential s.mod k = false) ∧
  (let k : Fin 8 := 3
   let s : State := demo [up, spdm 8, chamberSealed, setF (VL_CONF_STATE 3) VL_CONF_STATE_STATE 3,
      modChamber 3 fun c => { c with inProd := 4 }]
   Claims.BounceReady s.mod k) := by
  refine ⟨?_, ?_, ?_, ?_, ?_, ?_, ?_, ?_, ?_, ?_, ?_, ?_, ?_, ?_, ?_, ?_, ?_⟩ <;> decide +kernel

theorem test_meets_ClocksThermalAndResets :
  (let s : State := demo [late]
   s.mod.flag TM_STATUS TM_STATUS_DRIP_LOST = false) ∧
  (let s : State := demo [late, setF TM_STATUS TM_STATUS_DRIP_LOST 1]
   s.mod.flag TM_STATUS TM_STATUS_DRIP_LOST = true ∧
   (s.mod.queue (qDie mgmtDie)).recs.length < queueCap (qDie mgmtDie)) ∧
  (let sn : Sensor := .sorus 3 2
   let first : Int := 6800
   let s : State := demo [up]
   s.mod.dieState (sensorDie sn) ≠ 0 ∧ (s.mod.sensor (sensorKey sn)).excluded = false ∧ degC (-40) ≤ first ∧
   first ≤ degC 150) ∧
  (let sn : Sensor := .memside 1 2
   let first : Option Int := none
   let second : Option Int := some 99999
   let s : State := demo [up]
   s.mod.dieState (sensorDie sn) ≠ 0 ∧ goodReading first = none ∧ goodReading second = none) ∧
  (let n : Fin 22 := 3
   let s : State := demo [up, setF (TH_DIE 3) TH_DIE_ISOLATED 1]
   s.mod.flag (TH_DIE n) TH_DIE_ISOLATED = true ∧ (∀ t ∈ dieTemps s.mod n, t ≤ degC 85)) ∧
  (let n : Fin 19 := 3
   let s : State := demo [late, input 3 1 1]
   s.mod.flag (CP_INPUT n) CP_INPUT_MASKED = true) ∧
  (let n : Fin 19 := 3
   let s : State := demo [late, input 3 0 0]
   n.val ≠ 2 ∧ s.mod.flag (CP_INPUT n) CP_INPUT_LEVEL = false ∧
   (s.mod.queue (qDie mgmtDie)).recs.length < queueCap (qDie mgmtDie)) ∧
  (let s : State := demo [gates, input 0 1 0, .upd (.mem 64 [1]), modThallus 7 fun th => { th with sregs := [(1, 2)] }]
   s.mod.flag (CP_INPUT 0) CP_INPUT_MASKED = false ∧ s.mod.flag (CP_INPUT 0) CP_INPUT_LEVEL = true ∧
   s.mod.rst.powerGood = true ∧ s.mod.fabric.withdrawing = false ∧ (∀ p < 64, s.mod.portUp p = false)) ∧
  (let p : Nat := 9
   let s : State := demo [gates, strapped, input 0 1 0, portAt 9 1 lkUp]
   s.mod.flag (CP_INPUT 0) CP_INPUT_MASKED = false ∧ s.mod.flag (CP_INPUT 0) CP_INPUT_LEVEL = true ∧
   s.mod.rst.powerGood = true ∧ s.mod.fabric.withdrawing = false ∧ s.mod.fabric.withdrawn = false ∧ p < 64 ∧
   s.mod.portUp p = true ∧ s.mod.planKind p ∈ [1, 2, 3, 6]) ∧
  (let s : State := demo [input 0 0 0]
   s.mod.flag (CP_INPUT 0) CP_INPUT_MASKED = false ∧ s.mod.flag (CP_INPUT 0) CP_INPUT_LEVEL = false ∧
   s.mod.flag MOD_POSITION MOD_POSITION_STRAPS_VALID = false ∧ s.mod.rst.phaseB = false) ∧
  (let s : State := demo [gates, input 1 1 0, .upd (.mem 64 [1])]
   s.mod.flag (CP_INPUT 1) CP_INPUT_MASKED = false ∧ s.mod.flag (CP_INPUT 1) CP_INPUT_LEVEL = true) ∧
  (let s : State := demo [input 1 0 0]
   s.mod.flag (CP_INPUT 1) CP_INPUT_MASKED = false ∧ s.mod.flag (CP_INPUT 1) CP_INPUT_LEVEL = false ∧
   s.mod.flag MOD_POSITION MOD_POSITION_STRAPS_VALID = false ∧ s.mod.rst.phaseB = false) ∧
  (let s : State := demo [input 0 0 0, input 1 0 0]
   s.mod.flag (CP_INPUT 1) CP_INPUT_MASKED = false ∧ s.mod.flag (CP_INPUT 1) CP_INPUT_LEVEL = false ∧
   s.mod.flag (CP_INPUT 0) CP_INPUT_LEVEL = false ∧ s.mod.rst.phaseB = false) := by
  refine ⟨?_, ?_, ?_, ?_, ?_, ?_, ?_, ?_, ?_, ?_, ?_, ?_, ?_⟩ <;> decide +kernel

theorem test_meets_TrustedFirmware :
  (let s : State := demo [gates, modTrust fun t => { t with sfwUp := true }]
   s.mod.trust.sfwUp = true ∧ tfwAlive s.mod = true ∧
   (s.mod.queue (qDie mgmtDie)).recs.length < queueCap (qDie mgmtDie)) ∧
  (let s : State := demo [gates, setF (TR_GATE_STAT 2) TR_GATE_STAT_BUSY 1, setF (TR_GATE_STAT 2) TR_GATE_STAT_GATE 7]
   tfwAlive s.mod = true) ∧
  (let s : State := demo [gates, setF TR_STATE TR_STATE_LOCKSTEP 1]
   tfwAlive s.mod = true ∧ 0 < s.mod.fld TR_STATE TR_STATE_LOCKSTEP) ∧
  (let s : State := demo [gates,
     modTrust fun t => { t with confirmWait := true, prevDies := [1], tfw := { t.tfw with pending := some 1, trying := true } }]
   s.mod.trust.confirmWait = true ∧ s.mod.trust.halted = false ∧ (∀ n ∈ s.mod.trust.prevDies,
      s.mod.dieRuns n = true)) ∧
  (let d : Fin 4 := 1
   let r : BitVec 512 := 5
   let rest : List (BitVec 512) := [6]
   let s : State := demo [gates, modMDie 1 fun x => { x with ledgerReqs := [5, 6] }]
   (s.mod.mdie d).ledgerReqs = r :: rest ∧ tfwAlive s.mod = true ∧ s.mod.trust.ledgerQueue = [] ∧
   s.mod.trust.flash = []) ∧
  (let r : BitVec 512 := 5
   let again : Bool := false
   let s : State := demo [gates, modTrust fun t => { t with flash := [.append 5 false], used := 7 }]
   s.mod.trust.flash = [.append r again] ∧ tfwAlive s.mod = true ∧ s.mod.trust.ledgerQueue = [] ∧
   s.mod.trust.used < 31000) ∧
  (let mb : Nat := 2
   let kind : Nat := 1
   let s : State := demo [gates, .upd (.reg (TR_GATE_ARG 2 0) 1), modTrust fun t => { t with flash := [.gate 2 7] }]
   s.mod.trust.flash = [.gate mb 7] ∧ tfwAlive s.mod = true ∧ mb < 3 ∧ argOf s.mod mb 0 = kind ∧ 1 ≤ kind ∧ kind ≤ 3) ∧
  (let mb : Nat := 2
   let s : State := demo [gates, .upd (.reg (TR_GATE_ARG 2 0) 4), .upd (.reg (TR_GATE_ARG 2 1) 1),
      modTrust fun t => { t with flash := [.gate 2 9], commPend := [(4, [1, 2]), (3, [5]), (4, [3])] }]
   s.mod.trust.flash = [.gate mb 9] ∧ tfwAlive s.mod = true ∧ mb < 3 ∧ argOf s.mod mb 1 = 1) ∧
  (let mb : Fin 3 := 2
   let kind : Word := 1
   let idx : Word := 3
   let s : State := demo [gates]
   mb.val ≠ 0 ∧ Claims.GateOpen s.mod mb ∧ 1 ≤ kind.toNat ∧ kind.toNat ≤ 3 ∧ idx.toNat < slotSize kind.toNat / 4096 ∧
   (∀ x ∈ s.mod.trust.updates, x.kind ≠ kind.toNat)) ∧
  (let part : Word := 4
   let page : List Byte := [1, 2]
   let signed : Bool := false
   let s : State := demo [gates, modTrust fun t => { t with maint := true }]
   Claims.GateOpen s.mod 2 ∧ s.mod.trust.maint = true ∧ part.toNat < 5 ∧
   (rootGuarded s.mod part.toNat page = false ∨ signed = true)) ∧
  (let mb : Fin 3 := 2
   let s : State := demo [gates]
   mb.val ≠ 0 ∧ Claims.GateOpen s.mod mb ∧ isSource s.mod = true ∧ s.mod.fabric.opened = false) ∧
  (let mb : Fin 3 := 2
   let k : Nat := 3
   let win : Nat := 7
   let w : Win := ⟨0, BitVec.ofNat 64 (4096 + 3 * 2 ^ 48), 0, 0⟩
   let s : State := demo [gates, modChamber 3 fun c => { c with valid := true, tag := 3, stackMask := 1 }]
   mb.val ≠ 0 ∧ Claims.GateOpen s.mod mb ∧ k < 8 ∧ win < 256 ∧ (s.mod.chamber k).valid = true ∧
   windowOk (s.mod.chamber k) w = true) ∧
  (let mb : Fin 3 := 2
   let k : Nat := 3
   let win : Nat := 7
   let w : Win := ⟨1, 0, 0, 0⟩
   let s : State := demo [gates]
   mb.val ≠ 0 ∧ Claims.GateOpen s.mod mb ∧ k < 8 ∧ win < 256 ∧ windowOk (s.mod.chamber k) w = false) ∧
  (let m : Mod := { Mod.reset with winNext := [(256 * 3 + 7, win)] }
   m.winNext = [(256 * 3 + 7, win)]) := by
  refine ⟨?_, ?_, ?_, ?_, ?_, ?_, ?_, ?_, ?_, ?_, ?_, ?_, ?_, ?_⟩ <;> decide +kernel

theorem test_meets_GateCommands :
  (let mb : Fin 3 := 2
   let f : Fin 16 := 3
   let s : State := demo [gates, setF (LS_FEED_STAT 3) LS_FEED_STAT_FAULT_N 1,
      modTrust fun t => { t with image := { t.image with feedAllow := 8 } }]
   mb.val ≠ 1 ∧ Claims.GateOpen s.mod mb ∧ feedMayRise s.mod f = true ∧ s.mod.pins.laserEn.getLsbD f = false) ∧
  (let mb : Fin 3 := 2
   let f : Fin 16 := 3
   let s : State := demo [gates]
   mb.val ≠ 1 ∧ Claims.GateOpen s.mod mb ∧ s.mod.trust.image.feedAllow.getLsbD f = false) ∧
  (let mb : Fin 3 := 2
   let f : Fin 16 := 3
   let s : State := demo [gates, setF (LS_FEED_STAT 3) LS_FEED_STAT_STATE 3, modPins fun p => { p with laserEn := 8 }]
   mb.val ≠ 1 ∧ Claims.GateOpen s.mod mb ∧ feedSelected s.mod f = false) ∧
  (let mb : Fin 3 := 2
   let i : Fin 8 := 1
   let f : Fin 16 := 3
   let s : State := demo [gates]
   mb.val ≠ 1 ∧ Claims.GateOpen s.mod mb ∧ (s.mod.iodie i).hand = none ∧ f.val / 2 = i.val ∧
   f.val ≠ activeFeed s.mod i ∧ feedHealthy s.mod f = false) ∧
  (let mb : Fin 3 := 2
   let d : Fin 4 := 1
   let c : Fin 8 := 2
   let s : State := demo [gates, setF (stackReg 10) MS_STACK_STATE_STATE 3]
   mb.val ≠ 1 ∧ Claims.GateOpen s.mod mb ∧ stackCheck true (BitVec.ofNat 64 d) (BitVec.ofNat 64 c) s.mod = 0) ∧
  (let mb : Fin 3 := 2
   let d : Fin 4 := 1
   let c : Fin 8 := 2
   let s : State := demo [gates, setF (stackReg 10) MS_STACK_STATE_STATE 3]
   mb.val ≠ 1 ∧ Claims.GateOpen s.mod mb ∧ stackCheck true (BitVec.ofNat 64 d) (BitVec.ofNat 64 c) s.mod = 0) ∧
  (let mb : Fin 3 := 2
   let d : Fin 4 := 1
   let c : Fin 8 := 2
   let s : State := demo [gates, setF (stackReg 10) MS_STACK_STATE_STATE 1]
   mb.val ≠ 1 ∧ Claims.GateOpen s.mod mb ∧ stackCheck false (BitVec.ofNat 64 d) (BitVec.ofNat 64 c) s.mod = 0) ∧
  (let n : Fin 22 := 3
   let s : State := demo [gates]
   Claims.GateOpen s.mod 2 ∧ s.mod.trust.image.cmdAllow.getLsbD 0 = true ∧ n.val ≠ mgmtDie ∧ 2 ≤ s.mod.dieState n) ∧
  (let s : State := demo [gates]
   Claims.GateOpen s.mod 2 ∧ s.mod.trust.image.cmdAllow.getLsbD 1 = true ∧ s.mod.fabric.withdrawing = false ∧
   s.mod.fabric.withdrawn = false) ∧
  (let source : BitVec 14 := 9
   let k : Fin 8 := 3
   let ty : Fin 4 := 1
   let a : Word := 4096
   let len : Nat := 128
   let step : Nat := 5
   let fin : Nat := 6
   let st : Nat := 0
   let off : Nat := 4096
   let s : State := demo [gates, stackUp 0 3, modChamber 3 fun c => { c with valid := true, cntNum := 10 }]
   Claims.GateOpen s.mod 2 ∧ s.mod.trust.image.cmdAllow.getLsbD 2 = true ∧ s.mod.shadow = none ∧
   (s.mod.chamber k).valid = true ∧ locate a.toNat = .stack st off ∧ stackOwner s.mod st = some k.val ∧
   len ≤ roomAt a.toNat ∧ a.toNat % 64 = 0 ∧ len ≤ 2 ^ 26 ∧ len % shElem ty = 0 ∧ validId source.toNat = true ∧
   (s.mod.chamber k).cntFirst ≤ step ∧ step < (s.mod.chamber k).cntFirst + (s.mod.chamber k).cntNum ∧ step < 4096 ∧
   (s.mod.chamber k).cntFirst ≤ fin ∧ fin < (s.mod.chamber k).cntFirst + (s.mod.chamber k).cntNum ∧ fin < 4096) ∧
  (let k : Fin 8 := 3
   let s : State := demo [gates, modChamber 3 fun c => { c with valid := true }]
   Claims.GateOpen s.mod 2 ∧ s.mod.trust.image.cmdAllow.getLsbD 3 = true ∧ (s.mod.chamber k).valid = true ∧
   (s.mod.chamber k).clearing = false) ∧
  (let s : State := demo [gates]
   Claims.GateOpen s.mod 2 ∧ s.mod.trust.image.cmdAllow.getLsbD 4 = true ∧ s.mod.trust.maint = false) ∧
  (let s : State := demo [gates, modTrust fun t => { t with maint := true }]
   Claims.GateOpen s.mod 2 ∧ s.mod.trust.image.cmdAllow.getLsbD 5 = true ∧ s.mod.trust.maint = true ∧
   s.mod.fld MOD_POSITION MOD_POSITION_BOOT_MODE ≠ 1) ∧
  (let s : State := demo [gates, modTrust fun t => { t with image := { t.image with cmdAllow := 0 } }]
   Claims.GateOpen s.mod 2 ∧ s.mod.trust.image.cmdAllow.getLsbD 5 = false) := by
  refine ⟨?_, ?_, ?_, ?_, ?_, ?_, ?_, ?_, ?_, ?_, ?_, ?_, ?_, ?_⟩ <;> decide +kernel

theorem test_meets_DiesAndLinks :
  (let n : Fin 22 := 3
   let s : State := demo [up]
   2 ≤ s.mod.dieState n ∧ n.val ≠ mgmtDie) ∧
  (let n : Fin 22 := 3
   let s : State := demo [setF MOD_DIE_STATE ⟨6, 2⟩ 1, modRst fun r => { r with powerGood := true, phaseB := true }]
   s.mod.dieState n = 1 ∧ s.mod.rst.powerGood = true ∧ s.mod.rst.phaseB = true ∧
   s.mod.flag (DD_DIE n) DD_DIE_HELD = false ∧ s.mod.flag (TH_DIE n) TH_DIE_ISOLATED = false) ∧
  (let n : Fin 22 := 3
   let s : State := demo [up]
   2 ≤ s.mod.dieState n ∧ n.val ≠ mgmtDie ∧ s.mod.fld (DD_DIE n) DD_DIE_TEST_RESULT = 0 ∧ s.mod.rst.phaseB = false) ∧
  (let n : Fin 22 := 3
   let code : BitVec 4 := 5
   let s : State := demo [setF MOD_DIE_STATE ⟨6, 2⟩ 2]
   s.mod.dieState n = 2 ∧ n.val ≠ mgmtDie ∧ s.mod.fld (DD_DIE n) DD_DIE_TEST_RESULT = 0 ∧ 2 ≤ code.toNat ∧
   s.mod.rst.phaseB = false) ∧
  (let n : Fin 22 := 3
   let s : State := demo [up]
   (s.mod.trust.image.jtagLock = false ∨ s.mod.trust.testEn = true) ∧ 2 ≤ s.mod.dieState n ∧ n.val ≠ mgmtDie) ∧
  (let g : Fin 200 := 30
   let s : State := demo [up, modCDie 1 fun c => { c with resetting := [5, 6] }]
   (s.mod.cdie (g.val / 25)).resetting.contains (g.val % 25) = true) ∧
  (let l : Fin 57 := 40
   let s : State := demo [up, setF (DD_LINK 40) DD_LINK_STATE dlTraining]
   s.mod.fld (DD_LINK l) DD_LINK_STATE = dlTraining ∧ 32 ≤ l.val) ∧
  (let l : Fin 57 := 4
   let s : State := demo [up, setF (DD_LINK 4) DD_LINK_STATE dlTraining]
   s.mod.fld (DD_LINK l) DD_LINK_STATE = dlTraining ∧ l.val < 32) ∧
  (let l : Fin 57 := 40
   let s : State := demo [up, setF (DD_LINK 40) DD_LINK_STATE dlTraining]
   s.mod.fld (DD_LINK l) DD_LINK_STATE = dlTraining ∧ (s.mod.link l).tries = 0) ∧
  (let l : Fin 57 := 40
   let k : Fin 4 := 2
   let pass : Bool := false
   let s : State := demo [up, setF (DD_LINK 40) DD_LINK_STATE dlRunning]
   s.mod.fld (DD_LINK l) DD_LINK_STATE = dlRunning ∧ k.val < linkModules l ∧
   (s.mod.link l).dead.contains k.val = false ∧ (s.mod.link l).dead.length + (if pass then 0 else 1) < linkModules l) ∧
  (let l : Fin 57 := 56
   let r : BitVec 512 := mkRecord 1 4 []
   let s : State := demo [up, setF (DD_LINK 56) DD_LINK_STATE dlNegotiating,
      modLink 56 fun x => { x with step := 2, sender := 4 }]
   Claims.RecordDue s.mod l 0x01 2 r) ∧
  (let l : Fin 57 := 40
   let r : BitVec 512 := mkRecord 2 4 []
   let s : State := demo [up, setF (DD_LINK 40) DD_LINK_STATE dlNegotiating,
      modLink 40 fun x => { x with step := 3, sender := 4 }]
   Claims.RecordDue s.mod l 0x02 3 r) ∧
  (let l : Fin 57 := 40
   let r : BitVec 512 := mkRecord 3 4 []
   let s : State := demo [up, setF (DD_LINK 40) DD_LINK_STATE dlNegotiating,
      modLink 40 fun x => { x with step := 3, sender := 4 }]
   Claims.RecordDue s.mod l 0x03 3 r) ∧
  (let l : Fin 57 := 40
   let r : BitVec 512 := mkRecord 4 4 []
   let s : State := demo [up, setF (DD_LINK 40) DD_LINK_STATE dlNegotiating,
      modLink 40 fun x => { x with step := 3, sender := 4 }]
   Claims.RecordDue s.mod l 0x04 3 r) ∧
  (let l : Fin 57 := 40
   let r : BitVec 512 := mkRecord 5 4 []
   let s : State := demo [up, setF (DD_LINK 40) DD_LINK_STATE dlNegotiating,
      modLink 40 fun x => { x with step := 3, sender := 4 }]
   Claims.RecordDue s.mod l 0x05 3 r) ∧
  (let l : Fin 57 := 40
   let r : BitVec 512 := mkRecord 6 4 []
   let s : State := demo [up, setF (DD_LINK 40) DD_LINK_STATE dlNegotiating,
      modLink 40 fun x => { x with step := 3, sender := 4 }]
   Claims.RecordDue s.mod l 0x06 3 r) ∧
  (let l : Fin 57 := 40
   let r : BitVec 512 := mkRecord 7 4 []
   let s : State := demo [up, setF (DD_LINK 40) DD_LINK_STATE dlNegotiating,
      modLink 40 fun x => { x with step := 3, sender := 4 }]
   Claims.RecordDue s.mod l 0x07 3 r) ∧
  (let l : Fin 57 := 40
   let r : BitVec 512 := mkRecord 8 4 []
   let s : State := demo [up, setF (DD_LINK 40) DD_LINK_STATE dlNegotiating,
      modLink 40 fun x => { x with step := 3, sender := 4 }]
   Claims.RecordDue s.mod l 0x08 3 r) ∧
  (let l : Fin 57 := 56
   let r : BitVec 512 := mkRecord 9 4 []
   let s : State := demo [up, setF (DD_LINK 56) DD_LINK_STATE dlNegotiating,
      modLink 56 fun x => { x with step := 3, sender := 4 }]
   Claims.RecordDue s.mod l 0x09 3 r) ∧
  (let l : Fin 57 := 40
   let r : BitVec 512 := mkRecord 3 4 []
   let s : State := demo [up, setF (DD_LINK 40) DD_LINK_STATE dlNegotiating,
      modLink 40 fun x => { x with step := 3, sender := 4 }]
   s.mod.fld (DD_LINK l) DD_LINK_STATE = dlNegotiating ∧ (s.mod.link l).step = 3 ∧ (s.mod.link l).tries = 0 ∧
   recordOk 0x02 (s.mod.link l).sender r = false) ∧
  (let l : Fin 57 := 56
   let r : BitVec 512 := mkRecord 15 4 [(4, 2, 4)]
   let s : State := demo [up, setF (DD_LINK 56) DD_LINK_STATE dlNegotiating,
      modLink 56 fun x => { x with step := 3, sender := 4, records := [0, mkRecord 1 0 [(4, 2, 0x4B4D), (6, 1, 5), (7, 1, 12)], mkRecord 2 1 [(4, 1, 1), (5, 1, 32), (6, 1, 1)], mkRecord 8 2 [(4, 1, 1)], mkRecord 9 3 []] }]
   Claims.RecordDue s.mod l 0x0F 3 r ∧ rf r 4 2 = (s.mod.link l).sender ∧
   requirement (dieMode s.mod (peerOf l)) (decide (l.val = 56)) ((s.mod.link l).records ++ [r]) = 0) ∧
  (let l : Fin 57 := 40
   let s : State := demo [up, setF (DD_LINK 40) DD_LINK_STATE dlNegotiating,
      modLink 40 fun x => { x with step := 4, agreed := mkRecord 16 1 [(4, 1, 3)] }]
   s.mod.fld (DD_LINK l) DD_LINK_STATE = dlNegotiating ∧ (s.mod.link l).step = 4) ∧
  (let l : Fin 57 := 40
   let r : BitVec 512 := mkRecord 17 4 [(4, 1, 3)]
   let s : State := demo [up, setF (DD_LINK 40) DD_LINK_STATE dlNegotiating,
      modLink 40 fun x => { x with step := 4, sender := 4, agreed := mkRecord 16 1 [(4, 1, 3)], identity := 99 }]
   Claims.RecordDue s.mod l 0x11 4 r ∧ rf r 4 56 = rf (s.mod.link l).agreed 4 56) ∧
  (let l : Fin 57 := 40
   let s : State := demo [up, setF (DD_LINK 40) DD_LINK_STATE dlNegotiating]
   s.mod.fld (DD_LINK l) DD_LINK_STATE = dlNegotiating ∧ (s.mod.link l).tries = 0) ∧
  (let pk : Packet := ⟨hdrZero, List.replicate 4097 0⟩
   4096 < pk.data.length) ∧
  (let pk : Packet := ⟨hdrZero, []⟩
   let s : State := demo [up, modLink 56 fun x => { x with records := [0, mkRecord 9 0 [(4, 1, 1)]] }]
   pk.data.length ≤ 4096 ∧ s.mod.dieRuns accDie = true ∧ s.mod.dieRuns (memDie 0) = true ∧ accessoryMem s.mod = true ∧
   s.mod.flag DD_ACC_CFG DD_ACC_CFG_CHAMBER_VALID = false) ∧
  (let pk : Packet := ⟨{ hdrZero with dst := 5, op := 1, opinfo := 8, addr := 64 }, []⟩
   let st : Nat := 0
   let off : Nat := 64
   let s : State := demo [memory, strapped, setF DD_ACC_CFG DD_ACC_CFG_CHAMBER_VALID 1,
      setF DD_ACC_CFG DD_ACC_CFG_MEM_EN 1, modLink 56 fun x => { x with records := [0, mkRecord 9 0 [(4, 1, 1)]] }]
   pk.data = [] ∧ s.mod.dieRuns accDie = true ∧ s.mod.dieRuns (memDie 0) = true ∧ accessoryMem s.mod = true ∧
   s.mod.flag DD_ACC_CFG DD_ACC_CFG_CHAMBER_VALID = true ∧ s.mod.flag DD_ACC_CFG DD_ACC_CFG_MEM_EN = true ∧
   accessoryForm s.mod pk = true ∧ formOk pk = true ∧ pk.hdr.op = 1 ∧ pk.hdr.addr.toNat % (touched pk).2 = 0 ∧
   stackStatus s.mod st off (touched pk).1 (some (s.mod.fld DD_ACC_CFG DD_ACC_CFG_CHAMBER)) false = stOk ∧
   (touched pk).1 ≤ roomAt pk.hdr.addr.toNat ∧
   Claims.ServedAtOnce s.mod { org := .accessory pk.hdr, kind := .read, addr := pk.hdr.addr.toNat, size := (touched pk).1, hint := 0, chamber := s.mod.fld DD_ACC_CFG DD_ACC_CFG_CHAMBER, cnt := none, stat := false, tag := pk.hdr.tag, pc := 0, word := 0, stamp := s.mod.now, rd := 0, run := 0 } st off) := by
  refine ⟨?_, ?_, ?_, ?_, ?_, ?_, ?_, ?_, ?_, ?_, ?_, ?_, ?_, ?_, ?_, ?_, ?_, ?_, ?_, ?_, ?_, ?_, ?_, ?_, ?_, ?_,
     ?_⟩ <;> decide +kernel

theorem test_meets_JournalAndSessions :
  (let q : Nat := 9
   let r : Rec := record1
   let s : State := demo [gates, .upd (.sessions []), .upd (.queues [(9, ⟨[record1], 0⟩)])]
   s.mod.rst.powerGood = true ∧ s.mod.queues = [(q, ⟨[r], 0⟩)] ∧ s.mod.journal.length < 16384 ∧ s.mod.sessions = []) ∧
  (let q : Nat := 9
   let r : Rec := record1
   let s : State := demo [gates, .upd (.queues [(9, ⟨[record1, record1], 2⟩)])]
   s.mod.rst.powerGood = true ∧ nextTaken s.mod.recPtr (queueHeads s.mod) = some (q, r)) ∧
  (let s : State := demo [gates, modTrust fun t => { t with sfwUp := true }]
   s.mod.trust.sfwUp = true ∧ tfwAlive s.mod = true) ∧
  (let control : Bool := false
   let s : State := demo [gates, modPins fun p => { p with phy := some 3 }]
   tfwAlive s.mod = true ∧ s.mod.pins.phy.isSome = true ∧ s.mod.sessions.length < 4 ∧
   (control = false ∨ (∀ x ∈ s.mod.sessions, x.control = false))) ∧
  (let control : Bool := true
   let chainOk : Bool := true
   let s : State := demo [gates, modPins fun p => { p with phy := some 3 }]
   (chainOk = false ∨ 4 ≤ s.mod.sessions.length ∨ (control = true ∧ ∃ x ∈ s.mod.sessions, x.control = true))) ∧
  (let id : Nat := 1
   let nonce : List Byte := [1]
   let x : Session := ⟨1, true, none⟩
   let s : State := demo [gates]
   Claims.SessionOpen s.mod id x ∧ nonce.length ≤ 48) ∧
  (let id : Nat := 1
   let count : Nat := 2
   let x : Session := ⟨1, true, none⟩
   let s : State := demo [gates, .upd (.journal [record1, record1])]
   Claims.SessionOpen s.mod id x ∧ count ≤ 1024) ∧
  (let id : Nat := 1
   let j : Nat := 2
   let k : Nat × Nat := (3100, 32)
   let x : Session := ⟨1, true, none⟩
   let s : State := demo [gates, .upd (.scores [(3101, 7)] [])]
   Claims.SessionOpen s.mod id x ∧ scoreKinds[j]? = some k) ∧
  (let id : Nat := 1
   let off : Nat := 8
   let count : Nat := 3
   let x : Session := ⟨1, true, none⟩
   let s : State := demo [gates]
   Claims.SessionOpen s.mod id x ∧ count ≤ 64 ∧ off % 8 = 0) ∧
  (let id : Nat := 1
   let gate : BitVec 8 := 3
   let args : List Word := [1, 2]
   let page : List Byte := [1, 2, 3]
   let x : Session := ⟨1, true, none⟩
   let s : State := demo [gates]
   Claims.SessionOpen s.mod id x ∧ x.control = true ∧ args.length ≤ 8 ∧ page.length ≤ 4096 ∧
   s.mod.flag (TR_GATE_STAT 2) TR_GATE_STAT_BUSY = false ∧ 1 ≤ gate.toNat ∧ gate.toNat ≤ 9) ∧
  (let id : Nat := 1
   let x : Session := ⟨1, false, none⟩
   let s : State := demo [gates, .upd (.sessions [⟨1, false, none⟩])]
   Claims.SessionOpen s.mod id x ∧ x.control = false) ∧
  (let id : Nat := 1
   let x : Session := ⟨1, true, none⟩
   let s : State := demo [gates]
   Claims.SessionOpen s.mod id x ∧ x.control = true ∧ s.mod.shadow = none) ∧
  (let id : Nat := 1
   let n : Word := 3
   let x : Session := ⟨1, true, none⟩
   let y : Shadow := ⟨9, 0, 1, 0, 64, 1, 2, [1], none, [(1, 2)], [(1, 3)], 1⟩
   let s : State := demo [gates, setF ER_SHADOW_STAT ER_SHADOW_STAT_ROLE 2, .upd (.shadow (some ⟨9, 0, 1, 0, 64, 1,
      2, [1], none, [(1, 2)], [(1, 3)], 1⟩))]
   Claims.SessionOpen s.mod id x ∧ x.control = true ∧ s.mod.shadow = some y ∧
   s.mod.fld ER_SHADOW_STAT ER_SHADOW_STAT_ROLE = 2 ∧ y.own.get? n.toNat = none) ∧
  (let s : State := demo [gates]
   tfwAlive s.mod = true) := by
  refine ⟨?_, ?_, ?_, ?_, ?_, ?_, ?_, ?_, ?_, ?_, ?_, ?_, ?_, ?_⟩ <;> decide +kernel

theorem test_meets_ShadowAndFleet :
  (let d : Fin 4 := 0
   let n : Nat := 1
   let rest : List Nat := [2]
   let x : Shadow := ⟨9, 0, 1, 0, 64, 1, 2, [1, 2], none, [], [], 1⟩
   let s : State := demo [up, .upd (.shadow (some ⟨9, 0, 1, 0, 64, 1, 2, [1, 2], none, [], [], 1⟩))]
   s.mod.shadow = some x ∧ x.steps = n :: rest ∧ shadowDie x = some d.val ∧ x.running = none ∧
   s.mod.dieRuns (memDie d) = true) ∧
  (let n : Nat := 1
   let bs : List Byte := [1, 2]
   let x : Shadow := ⟨9, 0, 1, 0, 64, 1, 2, [], some (1, [1, 2]), [], [], 1⟩
   let s : State := demo [up, setF ER_SHADOW_STAT ER_SHADOW_STAT_ROLE 2, .upd (.shadow (some ⟨9, 0, 1, 0, 64, 1, 2,
      [], some (1, [1, 2]), [], [], 1⟩))]
   s.mod.shadow = some x ∧ x.running = some (n, bs) ∧ s.mod.fld ER_SHADOW_STAT ER_SHADOW_STAT_ROLE = 2 ∧
   x.peer.get? n = none ∧ x.stepCnt ≠ x.doneCnt) ∧
  (let n : Nat := 1
   let bs : List Byte := [1, 2]
   let x : Shadow := ⟨9, 0, 1, 0, 64, 1, 2, [], some (1, [1, 2]), [], [(1, Config.sha384 ([1, 2] ++ leBytes 8 1))], 1⟩
   let s : State := demo [up, setF ER_SHADOW_STAT ER_SHADOW_STAT_ROLE 2,
      setF ER_SHADOW_CFG ER_SHADOW_CFG_PASS_STEPS 4, .upd (.shadow (some ⟨9, 0, 1, 0, 64, 1, 2, [], some (1, [1, 2]),
      [], [(1, Config.sha384 ([1, 2] ++ leBytes 8 1))], 1⟩))]
   s.mod.shadow = some x ∧ x.running = some (n, bs) ∧ s.mod.fld ER_SHADOW_STAT ER_SHADOW_STAT_ROLE = 2 ∧
   x.peer.get? n = some (Config.sha384 (bs ++ leBytes 8 n)) ∧ x.stepCnt ≠ x.doneCnt ∧
   s.mod.fld ER_SHADOW_STAT ER_SHADOW_STAT_COMPARED + 1 < s.mod.fld ER_SHADOW_CFG ER_SHADOW_CFG_PASS_STEPS) ∧
  (let step : Word := 3
   let x : Shadow := ⟨9, 0, 1, 0, 64, 1, 2, [], none, [(3, 4)], [], 1⟩
   let s : State := demo [up, .upd (.shadow (some ⟨9, 0, 1, 0, 64, 1, 2, [], none, [(3, 4)], [], 1⟩))]
   s.mod.shadow = some x ∧ ((x.own.get? step.toNat).isSome = true ∨ (x.peer.get? step.toNat).isSome = true)) ∧
  (let s : State := demo [.upd (.loss 9000000 1000000)]
   s.mod.lossHour / 1000000 < s.mod.lossNs / 1000000 ∧
   (s.mod.queue (qDie mgmtDie)).recs.length < queueCap (qDie mgmtDie)) ∧
  (let s : State := demo [gates, modPins fun p => { p with phyReset := true, phy := none }]
   tfwAlive s.mod = true ∧ s.mod.pins.phyReset = true ∧ s.mod.pins.phy = none) ∧
  (let s : State := demo [gates, modPins fun p => { p with phyReset := true, phy := none }]
   tfwAlive s.mod = true ∧ s.mod.pins.phyReset = true ∧ s.mod.pins.phy = none ∧
   (s.mod.queue (qDie mgmtDie)).recs.length < queueCap (qDie mgmtDie)) ∧
  (let s : State := demo [strapped]
   s.mod.flag MOD_POSITION MOD_POSITION_STRAPS_VALID = true) := by
  refine ⟨?_, ?_, ?_, ?_, ?_, ?_, ?_, ?_⟩ <;> first
    | decide +kernel
    | (refine ⟨rfl, rfl, ?_, rfl, ?_, ?_⟩ <;> decide +kernel)

/-- The two hypotheses that the witnesses above leave to a proof. -/
theorem test_meets_operations :
    (bodyOf (wordOf 5 0x04 0)).isSome = true ∧ (0x41 ≤ (0x41 : BitVec 8).toNat ∧ (0x41 : BitVec 8).toNat ≤ 0x47) := by decide

/-- A signed object of trusted firmware without a body: magic, kind, form, version 5, length 0, the digest of nothing. -/
def bareObject : List Byte :=
  [0x4B, 0x4D, 0x53, 0x4F, 1, 1, 0, 0, 5, 0, 0, 0, 0, 0, 0, 0] ++ leBytes 48 (Config.sha384 []).toNat ++ List.replicate 4032 0

def bareUpdate : Update := ⟨1, 2, [(0, bareObject)]⟩

theorem objFormOk_bareObject : objFormOk 1 bareObject = true := by
  have h : numAt bareObject 16 48 = leNat (leBytes 48 (Config.sha384 []).toNat) := rfl
  have hb : objBody bareObject = [] := rfl
  have hd : numAt bareObject 0 4 = 0x4F534D4B ∧ numAt bareObject 4 1 = 1 ∧ numAt bareObject 5 1 = 1 ∧
      4096 + objLen bareObject ≤ slotSize 1 ∧ 4096 + objLen bareObject ≤ bareObject.length := by decide +kernel
  rw [leNat_leBytes, Nat.mod_eq_of_lt (Config.sha384 []).isLt] at h
  simp only [objFormOk, hd, hb, h, and_self, decide_true, Bool.and_self]

/-- What `TrustedFirmware` asks of an UPDATE_COMMIT that passes. -/
theorem test_meets_TrustedFirmware_commit :
    let s := demo [gates, modTrust fun t => { t with updates := [bareUpdate] }]
    Claims.GateOpen s.mod (2 : Fin 3) ∧ updateOf s.mod.trust 1 = some bareUpdate ∧
    updateBytes bareUpdate 4096 = some bareObject ∧ commitCode s.mod 2 1 4096 true = 0 := by
  have hu : updateOf (demo [gates, modTrust fun t => { t with updates := [bareUpdate] }]).mod.trust 1 = some bareUpdate := rfl
  have hb : updateBytes bareUpdate 4096 = some bareObject := by
    show some (bareObject ++ []) = _
    rw [List.append_nil]
  have hl : objLen bareObject = 0 := rfl
  have hv : objSvn bareObject = 5 := rfl
  refine ⟨by decide +kernel, hu, hb, ?_⟩
  have hm : bareUpdate.mailbox = 2 := rfl
  have hk : (kindOf (demo [gates, modTrust fun t => { t with updates := [bareUpdate] }]).mod.trust 1).svnMin = 0 := rfl
  simp [commitCode, hu, hb, hm, objFormOk_bareObject, hl, hv, hk, rOk]

/-! ### Well-formedness: each check refuses a term -/

def shortPacket : Packet := ⟨{ hdrZero with len := 1 }, []⟩
def longPacket : Packet := ⟨hdrZero, List.replicate 4097 0⟩

theorem test_wf_refuses_packets :
    (∀ c ∈ [Instr.load, .store, .atomic, .copyWrite, .copyRead, .blockFetch, .aggStore], (c 0 ⟨hdrZero, []⟩ .good).wf = false) ∧
    (Instr.remoteReply shortPacket).wf = false ∧ (Instr.remoteReply longPacket).wf = false ∧
    (Instr.statusOnly ⟨hdrZero, []⟩).wf = false ∧ (Instr.accessoryRequest shortPacket .good).wf = false := by decide +kernel

theorem test_wf_refuses_lengths :
    (Instr.discover 0 { discover 0 0 with nonce := List.replicate 49 0 } true true).wf = false ∧
    (Instr.discover 0 { discover 0 0 with chain := List.replicate 4033 0 } true true).wf = false ∧
    (Instr.discover 0 { discover 0 0 with signature := List.replicate 97 0 } true true).wf = false ∧
    (Instr.marginingDone 0 []).wf = false ∧ (Instr.feedPilotCheck 0 [] 0).wf = false ∧
    (Instr.feedFullPowerCheck 0 [] 0).wf = false ∧ (Instr.scrubRead 0 0x60000000 .good).wf = false ∧
    (Instr.getMeasurements [] true).wf = false ∧ (Instr.spdmAttest (List.replicate 49 0)).wf = false ∧
    (Instr.mgmtAttest 0 0 (List.replicate 49 0)).wf = false ∧ (Instr.bounceLoad 0 (List.replicate 63 0)).wf = false ∧
    (Instr.bounceExport 0 (List.replicate 63 0) .good).wf = false ∧ (Instr.bounceNop 0 (List.replicate 63 0)).wf = false ∧
    (Instr.updateChunk 0 0 0 []).wf = false ∧ (Instr.commission 0 0 true (List.replicate 4097 0) true).wf = false ∧
    (Instr.mgmtGate 0 0 0 (List.replicate 9 0) []).wf = false ∧
    (Instr.mgmtGate 0 0 0 [] (List.replicate 4097 0)).wf = false := by
  refine ⟨?_, ?_, ?_, ?_, ?_, ?_, ?_, ?_, ?_, ?_, ?_, ?_, ?_, ?_, ?_, ?_, ?_⟩ <;> decide +kernel

theorem test_wf_accepts : (Instr.load 0 (request 1 8 []) .good).wf = true ∧ (Instr.ppsLoss).wf = true ∧
    (Instr.bounceNop 0 (List.replicate 64 0)).wf = true := by decide

/-! ### Single steps; the expected values are worked out by hand from the rule named -/

/-- What a command leaves, read by `f`. -/
def leaves {α : Type} (r : Result) (f : Mod → α) : Option α :=
  match r with
  | .next u => some (f u.mod)
  | _ => none

/-- Scalar register 5 after `rd = 5, ra = 1, rb = 2` of class 0. -/
def scalarResult (op : Nat) (c : Fin 1200 → Env → BitVec 54 → Instr) (a b : Word) : Option Word :=
  leaves (exec (c 7 good (fields [(10, 5), (15, 1), (20, 2)]))
    (ready (wordOf 0 op (fields [(10, 5), (15, 1), (20, 2)])) [holds [(1, a), (2, b)]])) fun m => (m.thallus 7).sget 5

/-- R95: sums wrap modulo 2⁶⁴. -/
theorem test_add_wraps : scalarResult 0x00 .add 0xFFFFFFFFFFFFFFFF 3 = some 2 := by decide +kernel
/-- R96: a division by zero gives all ones, its remainder the dividend. -/
theorem test_divu_by_zero : scalarResult 0x0A .divu 7 0 = some 0xFFFFFFFFFFFFFFFF := by decide +kernel
theorem test_remu_by_zero : scalarResult 0x0B .remu 7 0 = some 7 := by decide +kernel
/-- R95: only bits [5:0] of a shift's operand count, and SRA copies the sign. -/
theorem test_sra_signed : scalarResult 0x07 .sra 0x8000000000000000 65 = some 0xC000000000000000 := by decide +kernel
/-- R95: MULHU gives the high half of the unsigned product. -/
theorem test_mulhu_high : scalarResult 0x09 .mulhu 0xFFFFFFFFFFFFFFFF 0xFFFFFFFFFFFFFFFF = some 0xFFFFFFFFFFFFFFFE := by
  decide +kernel
/-- R95: SLT compares as signed numbers. -/
theorem test_slt_signed : scalarResult 0x0C .slt 0xFFFFFFFFFFFFFFFF 0 = some 1 := by decide +kernel

/-- R80: ties go to the even neighbour: 1 + 2⁻⁸ in BF16 is halfway between 1 and its neighbour. -/
theorem test_bf16_ties_to_even : elAdd (.flt bf16) 0x3F80 0x3B80 = 0x3F80 ∧ elAdd (.flt bf16) 0x3F81 0x3B80 = 0x3F82 := by
  decide +kernel
/-- R78: the largest finite E4M3 code is 0x7E, the value 448. -/
theorem test_e4m3_largest : rnd fp32 (e4m3.decode 0x7E) = 0x43E00000 := by decide +kernel

/-- R87: a write of s0 is discarded. -/
theorem test_addi_s0_discards :
    leaves (exec (.addi 7 good (fields [(10, 0), (15, 1), (20, 5)])) (ready (wordOf 0 0x10 (fields [(10, 0), (15, 1), (20, 5)]))
      [holds [(1, 3)]])) (fun m => ((m.thallus 7).sget 0, (m.thallus 7).pc)) = some (0, 16) := by decide +kernel

/-- R98: a misaligned scalar load raises an exception and does not load. -/
theorem test_ld_misaligned_stops :
    leaves (exec (.ld 7 good (fields [(10, 5), (20, 4)])) (ready (wordOf 0 0x26 (fields [(10, 5), (20, 4)])) []))
      (fun m => (m.thState 7, (m.thallus 7).sget 5)) = some (thStopped, 0) := by decide +kernel

/-- R87, R43: the identification register reads its value and takes no write. -/
theorem test_ident_read_only :
    leaves (exec (.registerWrite .tfw MOD_IDENT 8 0) (demo [up])) (fun m => m.reg MOD_IDENT) = some 0x150124B4D := by
  decide +kernel

/-- An empty queue's step moves hall time on by 40 ns or so and answers a next state (R447). -/
theorem test_idle_step : (leaves (step State.reset) fun m => m.tick) = some 1 := by decide +kernel

/-- No row of the table has bits. -/
theorem test_no_table_words : decodeTableWord 64 5 = none ∧ (State.reset.withFetchWord 64 5) = State.reset := by decide

end Sys2Proof.Tests
end

section

namespace Sys2Proof.Machine

/-! ### Finding a register in the table (R43) -/

/-- The first row that holds an offset is the one found. -/
theorem regFind_getElem {off n : Nat} {l : List RegRow} {row : RegRow} {ix : List Nat} (hn : l[n]? = some row)
    (hmiss : ∀ r ∈ l.take n, r.hit off = none) (hhit : row.hit off = some ix) : regFind off l = some (row, ix) := by
  induction n generalizing l with
  | zero =>
    cases l with
    | nil => simp at hn
    | cons r l => simp only [List.getElem?_cons_zero, Option.some.injEq] at hn; simp [regFind, hn, hhit]
  | succ n ih =>
    cases l with
    | nil => simp at hn
    | cons r l =>
      simp only [List.take_succ_cons, List.forall_mem_cons] at hmiss
      rw [regFind, hmiss.1]
      exact ih (by simpa using hn) hmiss.2

theorem mem_of_regFind {off : Nat} {l : List RegRow} {row : RegRow} {ix : List Nat}
    (h : regFind off l = some (row, ix)) : row ∈ l := by
  induction l with
  | nil => simp [regFind] at h
  | cons r l ih =>
    rw [regFind] at h
    split at h
    · simp only [Option.some.injEq, Prod.mk.injEq] at h; simp [h.1]
    · exact List.mem_cons_of_mem _ (ih h)

theorem hit_eq_none (off base : Nat) (dims : List (Nat × Nat)) (fs : List RField) :
    (RegRow.mk base dims fs).hit off = none ↔ off < base ∨ regIndex dims (off - base) = none := by
  unfold RegRow.hit; split <;> simp_all

theorem hit_add (base : Nat) (dims : List (Nat × Nat)) (fs : List RField) (x : Nat) :
    (RegRow.mk base dims fs).hit (base + x) = regIndex dims x := by
  simp [RegRow.hit]

theorem regIndex_nil_zero : regIndex [] 0 = some [] := rfl

theorem regIndex_nil_eq_none (x : Nat) : regIndex [] x = none ↔ x ≠ 0 := by simp [regIndex]

theorem regIndex_cons_eq_none (n k : Nat) (ds : List (Nat × Nat)) (x : Nat) :
    regIndex ((n, k) :: ds) x = none ↔ n ≤ x / k ∨ regIndex ds (x % k) = none := by
  simp only [regIndex]; split <;> simp <;> omega

/-- A place `x` bytes into element `i` of an array has index `i` there. -/
theorem regIndex_mul_add (n k : Nat) (ds : List (Nat × Nat)) {i x : Nat} (hi : i < n) (hx : x < k) :
    regIndex ((n, k) :: ds) (k * i + x) = (regIndex ds x).map (i :: ·) := by
  have hd : (k * i + x) / k = i := by
    rw [Nat.mul_add_div (by omega), Nat.div_eq_of_lt hx, Nat.add_zero]
  simp [regIndex, hd, hi, Nat.mod_eq_of_lt hx]

/-- In a register that every compute die has, die `d` is index `d`, and the place within the die's block decides the
rest. -/
theorem hit_die (base : Nat) (ds : List (Nat × Nat)) (fs : List RField) {b d x : Nat} (hd : d < 8) (hb : base ≤ b)
    (hx : b + x < base + 0x10000) :
    (RegRow.mk base ((8, 0x10000) :: ds) fs).hit (b + 0x10000 * d + x) = (regIndex ds (b + x - base)).map (d :: ·) := by
  rw [← regIndex_mul_add 8 0x10000 ds hd (by omega : b + x - base < 0x10000), ← hit_add base _ fs]
  congr 1; omega

theorem regFind_CD_THALLUS_STATE {d s p : Nat} (hd : d < 8) (hs : s < 25) (hp : p < 6) :
    regFind (CD_THALLUS_STATE d s p) regTable = some (⟨0x101000, [(8, 0x10000), (25, 0x30), (6, 0x8)],
      [⟨0, 3, .hwu, 0x0⟩, ⟨4, 3, .hwu, 0x0⟩, ⟨7, 1, .hwu, 0x0⟩, ⟨8, 6, .hwu, 0x0⟩, ⟨16, 4, .hwu, 0x0⟩]⟩, [d, s, p]) := by
  have e : CD_THALLUS_STATE d s p = 0x101000 + 0x10000 * d + (0x30 * s + (0x8 * p + 0)) := by
    unfold CD_THALLUS_STATE; omega
  rw [e]
  refine regFind_getElem (n := 11) rfl ?_ ?_
  · simp (disch := omega) only [regTable, regsMOD0, regsCD0, List.cons_append, List.nil_append, List.take_succ_cons,
      List.take_zero, List.forall_mem_cons, List.not_mem_nil, IsEmpty.forall_iff, implies_true, and_true, hit_die,
      Option.map_eq_none_iff, hit_eq_none, regIndex_nil_eq_none, regIndex_cons_eq_none]
    and_intros <;> omega
  · simp (disch := omega) only [hit_die, Nat.add_sub_cancel_left, regIndex_mul_add, regIndex_nil_zero, Option.map_some]

theorem regAssigned_of_find {off : Nat} {x : RegRow × List Nat} (h : regFind off regTable = some x) :
    regAssigned off = true := by simp [regAssigned, h]

theorem regFields_of_find {off : Nat} {row : RegRow} {ix : List Nat} (h : regFind off regTable = some (row, ix)) :
    regFields off = row.fields := by simp [regFields, h]

/-- The bits that some field of a list takes. -/
def fieldsMask (fs : List RField) : Word := fs.foldl (fun a f => a ||| fieldMask f.lo f.w) 0

theorem regMask_of_find {off : Nat} {row : RegRow} {ix : List Nat} (h : regFind off regTable = some (row, ix)) :
    regMask off = fieldsMask row.fields := by rw [← regFields_of_find h]; rfl

/-- A field of a register is one that its row of the table takes. -/
theorem fldOk_of_find {off : Nat} {row : RegRow} {ix : List Nat} {f : Fld} (h : regFind off regTable = some (row, ix))
    (hf : f.lo + f.w ≤ 64 ∧ fieldMask f.lo f.w &&& ~~~fieldsMask row.fields = 0) : fldOk off f = true := by
  simp [fldOk, regAssigned_of_find h, regMask_of_find h, hf]

theorem regFind_thReg (t : Fin 1200) : ∃ ix, regFind (thReg t) regTable =
    some (⟨0x101000, [(8, 0x10000), (25, 0x30), (6, 0x8)],
      [⟨0, 3, .hwu, 0x0⟩, ⟨4, 3, .hwu, 0x0⟩, ⟨7, 1, .hwu, 0x0⟩, ⟨8, 6, .hwu, 0x0⟩, ⟨16, 4, .hwu, 0x0⟩]⟩, ix) :=
  ⟨_, regFind_CD_THALLUS_STATE (by unfold dieOf; omega) (by unfold sorusOf; omega) (by unfold coreOf; omega)⟩

theorem fldOk_thState (t : Fin 1200) : fldOk (thReg t) CD_THALLUS_STATE_STATE = true := by
  obtain ⟨ix, h⟩ := regFind_thReg t
  exact fldOk_of_find h (by decide)

theorem fldOk_thException (t : Fin 1200) : fldOk (thReg t) CD_THALLUS_STATE_EXCEPTION = true := by
  obtain ⟨ix, h⟩ := regFind_thReg t
  exact fldOk_of_find h (by decide)

/-! ### What an effect keeps -/

/-- Whatever the module, an effect keeps `P`. -/
def Act.Keeps (P : Mod → Prop) (a : Act) : Prop := ∀ m, P m → P (a.run m)

section keeps
variable {P : Mod → Prop}

theorem Act.Keeps.nop : Act.nop.Keeps P := fun _ h => h

theorem Act.Keeps.look {k : Mod → Act} (h : ∀ m, P m → (k m).Keeps P) : (Act.look k).Keeps P :=
  fun m hm => h m hm m hm

theorem Act.Keeps.acts_nil : (acts []).Keeps P := fun _ h => h

theorem Act.Keeps.acts_cons {a : Act} {l : List Act} (ha : a.Keeps P) (hl : (acts l).Keeps P) :
    (acts (a :: l)).Keeps P := fun m hm => hl _ (ha m hm)

theorem Act.Keeps.forEach {α : Type} {l : List α} {f : α → Act} (h : ∀ x ∈ l, (f x).Keeps P) :
    (forEach l f).Keeps P := by
  induction l with
  | nil => exact acts_nil
  | cons x l ih => exact acts_cons (h x (by simp)) (ih fun y hy => h y (by simp [hy]))

theorem Act.Keeps.onlyIf {c : Bool} {a : Act} (h : c = true → a.Keeps P) : (onlyIf c a).Keeps P := by
  cases c
  · exact nop
  · exact h rfl

theorem Act.Keeps.of_all {q : Upd → Prop} {a : Act} (ha : a.All q) (h : ∀ m u, q u → P m → P (u.app m)) : a.Keeps P :=
  fun m hm => ha.keeps h m hm

end keeps

/-! ### Taking an exception (R121, R124) -/

/-- What a program sees of its thallus `t` is as in `th`, and memory is `mem`. -/
def ProgramSees (t : Nat) (th : Thallus) (mem : List Host.Cell) (m : Mod) : Prop :=
  (m.thallus t).pc = th.pc ∧ (m.thallus t).sregs = th.sregs ∧ (m.thallus t).vregs = th.vregs ∧
  (m.thallus t).pregs = th.pregs ∧ m.mem = mem

/-- A thallus is stopped with an exception code. -/
def StoppedBy (t code : Nat) (m : Mod) : Prop :=
  m.thState t = thStopped ∧ m.fld (thReg t) CD_THALLUS_STATE_EXCEPTION = code

/-- The updates that taking an exception makes beside those of the thallus and of its state register. -/
def Upd.besideThallus : Upd → Prop
  | .reg .. | .queues _ | .cdies _ | .flight _ | .replies _ => True
  | _ => False

theorem Upd.besideThallus.keeps_programSees {t : Nat} {th : Thallus} {mem : List Host.Cell} (m : Mod) (u : Upd)
    (hu : u.besideThallus) (h : ProgramSees t th mem m) : ProgramSees t th mem (u.app m) := by
  cases u with
  | reg _ _ => exact h
  | queues _ => exact h
  | cdies _ => exact h
  | flight _ => exact h
  | replies _ => exact h
  | _ => exact hu.elim

/-- An update that leaves one register alone. -/
def Upd.sparesReg (off : Nat) : Upd → Prop
  | .reg o _ => o ≠ off
  | .regsClear _ => False
  | _ => True

theorem Upd.sparesReg.reg_eq {off : Nat} {u : Upd} (h : u.sparesReg off) (m : Mod) : (u.app m).reg off = m.reg off := by
  cases u with
  | reg o v => rw [reg_upd, if_neg fun hc => h hc.1.symm]
  | regsClear _ => exact h.elim
  | _ => exact reg_congr (by simp) off

theorem Upd.sparesReg.keeps_stoppedBy {t code : Nat} (m : Mod) (u : Upd) (hu : u.sparesReg (thReg t))
    (h : StoppedBy t code m) : StoppedBy t code (u.app m) := by
  simpa [StoppedBy, Mod.thState, Mod.fld, hu.reg_eq m] using h

theorem modThallus_keeps_programSees {t : Nat} {th : Thallus} {mem : List Host.Cell} {f : Thallus → Thallus}
    (hf : ∀ x, (f x).pc = x.pc ∧ (f x).sregs = x.sregs ∧ (f x).vregs = x.vregs ∧ (f x).pregs = x.pregs) :
    (modThallus t f).Keeps (ProgramSees t th mem) := by
  intro m h
  obtain ⟨h1, h2, h3, h4⟩ := hf (m.thallus t)
  simp only [ProgramSees, thallus_modThallus, if_true, h1, h2, h3, h4]
  exact h

theorem excRecord_besideThallus (t code : Nat) (pc word : Word) (st : Nat) (addr : Word) :
    (excRecord t code pc word st addr).All Upd.besideThallus := by
  intro m
  refine (record_frame _ _ _ _ _ _ _ _).mono fun u hu => ?_
  obtain ⟨x, rfl⟩ | ⟨off, v, rfl⟩ := hu <;> trivial

theorem thReg_ne_launchEntry (t : Fin 1200) (d i w : Nat) (hi : i < 64) (hw : w < 16) :
    CD_LAUNCH_ENTRY d i w ≠ thReg t := by
  unfold CD_LAUNCH_ENTRY thReg CD_THALLUS_STATE sorusOf coreOf
  rcases Nat.lt_trichotomy d (dieOf t) with h | h | h <;> omega

/-- A stage's fault changes the launch entries and the launches. -/
theorem stageFault_all (t : Fin 1200) (key st code : Nat) :
    (stageFault key st code).All fun u => u.besideThallus ∧ u.sparesReg (thReg t) := by
  intro m
  refine ⟨Act.All.forEach fun k _ => fun m => ⟨trivial, ?_⟩, Act.All.forEach fun k _ => fun m => ?_, trivial⟩
  · exact thReg_ne_launchEntry t _ _ _ (Nat.mod_lt _ (by decide)) (by decide)
  · dsimp only
    split
    · trivial
    · exact fun m => ⟨trivial, trivial⟩

theorem nearClean_keeps_programSees (t : Nat) (sel : Nat → NLine → Bool) (drop : Bool) {th : Thallus}
    {mem : List Host.Cell} : (nearClean t sel drop).Keeps (ProgramSees t th mem) :=
  .look fun _ _ => .acts_cons
    (.forEach fun _ _ => .of_all (q := Upd.besideThallus) (fun _ => trivial) Upd.besideThallus.keeps_programSees)
    (.acts_cons (modThallus_keeps_programSees fun _ => ⟨rfl, rfl, rfl, rfl⟩) .acts_nil)

theorem nearClean_sparesReg (t : Nat) (sel : Nat → NLine → Bool) (drop : Bool) (off : Nat) :
    (nearClean t sel drop).All (Upd.sparesReg off) := fun _ =>
  ⟨Act.All.forEach fun _ _ _ => trivial, fun _ => trivial, trivial⟩

/-- A running or waiting thallus that takes an exception stops with its code, its registers and memory as they were. -/
theorem raiseAs_stops (k : StopKind) (t : Fin 1200) (code : Nat) (pc word : Word) (st : Nat) (addr : Word) (m : Mod)
    (hc : code < 16) (hr : m.thState t = thRunning ∨ m.thState t = thWaiting) :
    StoppedBy t code ((raiseAs k t code pc word st addr).run m) ∧
    ProgramSees t (m.thallus t) m.mem ((raiseAs k t code pc word st addr).run m) := by
  have hcond : ¬ (m.thState t ≠ thRunning ∧ m.thState t ≠ thWaiting) := by tauto
  have hsees : ProgramSees t (m.thallus t) m.mem m := ⟨rfl, rfl, rfl, rfl, rfl⟩
  simp only [raiseAs, Act.run_look, if_neg hcond]
  constructor
  · rw [run_acts_cons, run_acts_cons, run_acts_cons]
    refine Act.Keeps.of_all (q := Upd.sparesReg (thReg t)) ?_ Upd.sparesReg.keeps_stoppedBy _ ⟨?_, ?_⟩
    · refine ⟨fun _ => trivial, fun _ => trivial, nearClean_sparesReg _ _ _ _, ?_, trivial⟩
      split
      · exact Act.All.onlyIf fun _ => (stageFault_all t _ _ _).mono fun _ hu => hu.2
      · trivial
    · rw [Mod.thState, fld_setF_apart _ _ _ _ _ (by decide) (fldOk_thState t), setThState,
        fld_setF _ _ _ _ (fldOk_thState t)]; rfl
    · rw [fld_setF _ _ _ _ (fldOk_thException t)]; exact Nat.mod_eq_of_lt hc
  · refine Act.Keeps.acts_cons ?_ (.acts_cons ?_ (.acts_cons ?_ (.acts_cons ?_ (.acts_cons ?_ (.acts_cons ?_
      (.acts_cons ?_ .acts_nil)))))) m hsees
    · exact .onlyIf fun _ => .of_all (excRecord_besideThallus _ _ _ _ _ _) Upd.besideThallus.keeps_programSees
    · exact .of_all (q := Upd.besideThallus) (fun _ => trivial) Upd.besideThallus.keeps_programSees
    · exact .of_all (q := Upd.besideThallus) (fun _ => trivial) Upd.besideThallus.keeps_programSees
    · exact modThallus_keeps_programSees fun _ => ⟨rfl, rfl, rfl, rfl⟩
    · exact .of_all (q := Upd.besideThallus) (fun _ => trivial) Upd.besideThallus.keeps_programSees
    · exact nearClean_keeps_programSees _ _ _
    · split
      · exact .onlyIf fun _ => .of_all ((stageFault_all t _ _ _).mono fun _ hu => hu.1)
          Upd.besideThallus.keeps_programSees
      · exact .nop

end Sys2Proof.Machine
end

section

namespace Sys2Proof.Machine

/-! ### Illegal instructions (R8, R92) -/

/-- The exception of an instruction is a precise one at the program counter. -/
theorem fault_run (t code : Nat) (w addr : Word) (m : Mod) :
    (fault t code w addr).run m = (raiseAs .precise t code (m.thallus t).pc w 0 addr).run m := rfl

theorem thState_of_mayIssue {m : Mod} {t : Nat} (h : mayIssue m t = true) : m.thState t = thRunning := by
  simp only [mayIssue, Bool.and_eq_true, decide_eq_true_eq] at h
  exact h.1.1.1.1.1

/-- With a word standing at the program counter, a command issues only that word: an undefined one is an illegal
instruction whichever command comes, a defined one runs its body. -/
theorem runWord_standing {m : Mod} {t : Fin 1200} {e : Env} {x : Word} (h : Claims.Standing m t e x) (body : Body)
    (w : Word) : (runWord body t e w).run m =
      if opDefined x = true then (if x = w then (body t e w).run m else m) else (fault t exIllegal x 0).run m := by
  obtain ⟨hmay, hheld, halign, hrange, hx, hfetch⟩ := h
  have hin : ¬ ((m.thallus t).pc.toNat % 8 ≠ 0 ∨ 8 * (m.thallus t).codeLen ≤ (m.thallus t).pc.toNat) := by omega
  have hgo : ¬ ((!mayIssue m t) = true ∨ (m.thallus t).held.isSome = true) := by simp [hmay, hheld]
  simp only [runWord, Act.run_look, if_neg hgo, if_neg hin, hx, hfetch]
  by_cases hd : opDefined x = true
  · by_cases hw : x = w
    · subst hw; simp [hd]
    · simp [hd, hw]
  · simp [hd]

/-- A body that raises the illegal-instruction exception on a word with a non-zero reserved bit, whatever the state. -/
def ChecksReserved (used : List (Nat × Nat)) (body : Body) : Prop :=
  ∀ t e w m, badBits w used = true → (body t e w).run m = (fault t exIllegal w 0).run m

/-- The usual frame of a body is a check of the reserved bits before the rest. -/
theorem run_checkReserved {used : List (Nat × Nat)} {w : Word} (h : badBits w used = true) (a : Act) (k : Mod → Act)
    (m : Mod) : (Act.look fun m => if badBits w used then a else k m).run m = a.run m := by
  simp [h]

/-- A command of a class and opcode issues its word with a body that checks the bits reserved in its encoding. -/
def IssuesChecked (cls : Nat) (used : List (Nat × Nat)) (c : Fin 1200 → Env → BitVec 54 → Instr) (op : Nat) : Prop :=
  ∃ body, (∀ t e f s, exec (c t e f) s = done (runWord body t e (wordOf cls op f)) s) ∧ ChecksReserved used body

theorem scalarEncodings_issueChecked : ∀ x ∈ Claims.scalarEncodings, ∀ y ∈ x.commands,
    IssuesChecked x.cls x.used y.1 y.2 := by
  simp only [Claims.scalarEncodings, List.forall_mem_cons, List.not_mem_nil, IsEmpty.forall_iff, implies_true, and_true]
  and_intros
  all_goals exact ⟨_, fun _ _ _ _ => rfl, fun _ _ _ _ h => run_checkReserved h _ _ _⟩

theorem vectorEncodings_issueChecked : ∀ x ∈ Claims.vectorEncodings, ∀ y ∈ x.commands,
    IssuesChecked x.cls x.used y.1 y.2 := by
  simp only [Claims.vectorEncodings, List.forall_mem_cons, List.not_mem_nil, IsEmpty.forall_iff, implies_true, and_true]
  and_intros
  all_goals exact ⟨_, fun _ _ _ _ => rfl, fun _ _ _ _ h => run_checkReserved h _ _ _⟩

theorem otherEncodings_issueChecked : ∀ x ∈ Claims.otherEncodings, ∀ y ∈ x.commands,
    IssuesChecked x.cls x.used y.1 y.2 := by
  simp only [Claims.otherEncodings, List.forall_mem_cons, List.not_mem_nil, IsEmpty.forall_iff, implies_true, and_true]
  and_intros
  all_goals exact ⟨_, fun _ _ _ _ => rfl, fun _ _ _ _ h => run_checkReserved h _ _ _⟩

theorem encodings_issueChecked :
    ∀ x ∈ Claims.scalarEncodings ++ Claims.vectorEncodings ++ Claims.otherEncodings, ∀ y ∈ x.commands,
    IssuesChecked x.cls x.used y.1 y.2 := by
  simp only [List.forall_mem_append]
  exact ⟨⟨scalarEncodings_issueChecked, vectorEncodings_issueChecked⟩, otherEncodings_issueChecked⟩

/-- A command that raises the illegal-instruction exception of the word that stands stops its thallus. -/
theorem stopsIllegal_of_fault {c : Instr} {t : Fin 1200} {e : Env} {w : Word} {s : State} {a : Act}
    (h : Claims.Standing s.mod t e w) (hc : exec c s = done a s)
    (ha : a.run s.mod = (fault t exIllegal w 0).run s.mod) : Claims.StopsIllegal c t s := by
  obtain ⟨⟨hstop, hcode⟩, hpc, hs, hv, hp, hmem⟩ := raiseAs_stops .precise t exIllegal (s.mod.thallus t).pc w 0 0 s.mod
    (by decide) (.inl (thState_of_mayIssue h.1))
  refine ⟨_, hc.trans (done_eq a s), ?_⟩
  rw [ha, fault_run]
  exact ⟨hstop, hcode, hpc, hs, hv, hp, fun _ => hmem⟩

end Sys2Proof.Machine

open Sys2Proof.Machine in
/-- Settles O24: every body checks its reserved bits before anything else, and an undefined word stops at issue, before
the command's own body. -/
theorem illegalInstructionStops : Obligations.IllegalInstructionStops := by
  unfold Obligations.IllegalInstructionStops
  constructor
  · intro x hx y hy t e fl s hst hbad
    obtain ⟨body, hexec, hcheck⟩ := encodings_issueChecked x hx y hy
    refine stopsIllegal_of_fault hst (hexec t e fl s) ?_
    rw [runWord_standing hst, if_pos rfl, hcheck _ _ _ _ hbad, ite_self]
  · intro x hx y hy t e fl w s hst hundef
    obtain ⟨body, hexec, -⟩ := encodings_issueChecked x hx y hy
    refine stopsIllegal_of_fault hst (hexec t e fl s) ?_
    rw [runWord_standing hst, if_neg (by simp [hundef])]

end

section

namespace Sys2Proof.Machine

/-! ### What a register write takes (R10–R13) -/

/-- The bits that the fields of one access code in a list take. -/
def fieldsAcc (fs : List RField) (acc : Acc) : Word :=
  fs.foldl (fun a f => if f.acc = acc then a ||| fieldMask f.lo f.w else a) 0

theorem accMask_of_find {off : Nat} {row : RegRow} {ix : List Nat} (h : regFind off regTable = some (row, ix))
    (acc : Acc) : accMask off acc = fieldsAcc row.fields acc := by rw [← regFields_of_find h]; rfl

/-- In every row the bits that a 1 clears are apart from those that a write replaces or sets, and a write takes only
bits of fields. -/
theorem regTable_masks : ∀ r ∈ regTable,
    fieldsAcc r.fields .w1c &&& (fieldsAcc r.fields .rw ||| fieldsAcc r.fields .tfw ||| fieldsAcc r.fields .w1s) = 0 ∧
    (fieldsAcc r.fields .rw ||| fieldsAcc r.fields .tfw ||| fieldsAcc r.fields .w1c ||| fieldsAcc r.fields .w1s) &&&
      ~~~fieldsMask r.fields = 0 := by decide +kernel

/-- The value that a write gives a register, before its reserved bits drop out. -/
def written (who : Requester) (off size : Nat) (val old : Word) : Word :=
  let o := regOff off
  let v := Claims.laid off size val &&& writeCover off size
  let take := (accMask o .rw ||| (if who = .tfw then accMask o .tfw else 0)) &&& writeCover off size
  let kept := (old &&& ~~~take) ||| (v &&& take)
  (if o = TH_STATUS then kept else kept &&& ~~~(v &&& accMask o .w1c)) ||| (v &&& accMask o .w1s)

/-- An allowed write gives the register its value, then the bits written as 1 start their action. -/
theorem writeReg_run {who : Requester} {off size : Nat} {val : Word} {row : RegRow} {ix : List Nat} {m : Mod}
    (hok : accessOk off size = true) (hreach : reaches m who off = true)
    (hfind : regFind (regOff off) regTable = some (row, ix)) (hign : ignores m who row.base ix = false) :
    (writeReg who off size val).run m = (regAction row.base ix (Claims.laid off size val &&& writeCover off size)).run
      (Upd.app m (.reg (regOff off) (written who off size val (m.reg (regOff off))))) := by
  simp only [writeReg, Act.run_look, hok, hreach, Bool.not_true, Bool.false_eq_true, or_self, if_false, hfind, hign,
    run_acts_cons, run_acts_nil, Act.run_upd]
  rfl

/-- An access that is not allowed is a fault, and nothing else. -/
theorem writeReg_run_fault {who : Requester} {off size : Nat} {val : Word} {m : Mod}
    (h : accessOk off size = false ∨ reaches m who off = false) :
    (writeReg who off size val).run m = (emit (.regFault who off)).run m := by
  have hc : (!accessOk off size) = true ∨ (!reaches m who off) = true := by simpa using h
  simp only [writeReg, Act.run_look, if_pos hc]

/-- One bit of a write: replaced, cleared, set or kept, where what a 1 clears is neither replaced nor set. -/
theorem writtenBit (cover take clr set old v : Bool) (h : (clr && (take || set)) = false) :
    (((old && !(take && cover)) || ((v && cover) && (take && cover))) && !((v && cover) && clr) || ((v && cover) && set)) =
      (if !cover then old else if take then v else if clr then old && !v else if set then old || v else old) := by
  revert cover take clr set old v; decide

/-- A bit that a 1 clears is not one that a write replaces or that a 1 sets. -/
theorem accMask_of_w1c {o : Nat} {row : RegRow} {ix : List Nat} (hfind : regFind o regTable = some (row, ix)) {b : Nat}
    (h : (accMask o .w1c).getLsbD b = true) :
    (accMask o .rw).getLsbD b = false ∧ (accMask o .tfw).getLsbD b = false ∧ (accMask o .w1s).getLsbD b = false := by
  have hd := congrArg (·.getLsbD b) (regTable_masks row (mem_of_regFind hfind)).1
  simp only [← accMask_of_find hfind, BitVec.getLsbD_and, BitVec.getLsbD_or, BitVec.ofNat_eq_ofNat,
    BitVec.getLsbD_zero, h, Bool.true_and, Bool.or_eq_false_iff] at hd
  exact ⟨hd.1.1, hd.1.2, hd.2⟩

/-- A register but `TH_STATUS` takes each bit of a write by the access code of the bit's field. -/
theorem getLsbD_written {who : Requester} {off size : Nat} {val old : Word} {row : RegRow} {ix : List Nat}
    (hfind : regFind (regOff off) regTable = some (row, ix)) (hne : regOff off ≠ TH_STATUS) {b : Nat} (hb : b < 64) :
    (written who off size val old).getLsbD b = Claims.bitAfter who off size val old b := by
  have ht : (if who = .tfw then accMask (regOff off) .tfw else 0).getLsbD b =
      (decide (who = .tfw) && (accMask (regOff off) .tfw).getLsbD b) := by split <;> simp [*]
  simp only [written, if_neg hne, BitVec.getLsbD_and, BitVec.getLsbD_or, BitVec.getLsbD_not, hb, decide_true,
    Bool.true_and, ht]
  refine writtenBit _ _ _ _ _ _ ?_
  cases hc : (accMask (regOff off) .w1c).getLsbD b
  · rfl
  · obtain ⟨hrw, htfw, hw1s⟩ := accMask_of_w1c hfind hc
    simp [hrw, htfw, hw1s]

/-- Outside the fields of a register a write changes nothing. -/
theorem bitAfter_of_reserved {who : Requester} {off size : Nat} {val old : Word} {row : RegRow} {ix : List Nat}
    (hfind : regFind (regOff off) regTable = some (row, ix)) {b : Nat} (hb : b < 64)
    (hres : (regMask (regOff off)).getLsbD b = false) : Claims.bitAfter who off size val old b = old.getLsbD b := by
  have hs := congrArg (·.getLsbD b) (regTable_masks row (mem_of_regFind hfind)).2
  simp only [← accMask_of_find hfind, ← regMask_of_find hfind, BitVec.getLsbD_and, BitVec.getLsbD_or,
    BitVec.getLsbD_not, BitVec.ofNat_eq_ofNat, BitVec.getLsbD_zero, hb, decide_true, hres, Bool.not_false, Bool.and_true,
    Bool.or_eq_false_iff] at hs
  obtain ⟨⟨⟨hrw, htfw⟩, hw1c⟩, hw1s⟩ := hs
  simp [Claims.bitAfter, hrw, htfw, hw1c, hw1s]

/-! ### A write of a whole register -/

theorem regOff_of_aligned {o : Nat} (h : o % 8 = 0) : regOff o = o := by simp [regOff, h]

theorem writeCover_eight (o : Nat) : writeCover o 8 = BitVec.allOnes 64 := by simp [writeCover]

theorem laid_eight (o : Nat) (val : Word) : Claims.laid o 8 val = val := rfl

/-- The module after a write of all 64 bits of a register, before the write's action. -/
def wroteReg (who : Requester) (o : Nat) (val : Word) (m : Mod) : Mod :=
  Upd.app m (.reg o (written who o 8 val (m.reg o)))

/-- A write of a whole register by service firmware, which reaches all of them (R42). -/
theorem writeReg_sfw_run {o : Nat} {val : Word} {row : RegRow} {ix : List Nat} {m : Mod} (h8 : o % 8 = 0)
    (hfind : regFind o regTable = some (row, ix)) (hign : ignores m .sfw row.base ix = false) :
    (writeReg .sfw o 8 val).run m = (regAction row.base ix val).run (wroteReg .sfw o val m) := by
  have ho := regOff_of_aligned h8
  have hok : accessOk o 8 = true := by simp [accessOk, h8, ho, regAssigned_of_find hfind]
  rw [writeReg_run hok rfl (by rw [ho]; exact hfind) hign, laid_eight, writeCover_eight, BitVec.and_allOnes, ho]
  rfl

theorem reg_wroteReg_other (who : Requester) (val : Word) (m : Mod) {o q : Nat} (h : q ≠ o) :
    (wroteReg who o val m).reg q = m.reg q := by rw [wroteReg, reg_upd, if_neg fun hc => h hc.1]

theorem fld_wroteReg_other (who : Requester) (val : Word) (m : Mod) {o q : Nat} (f : Fld) (h : q ≠ o) :
    (wroteReg who o val m).fld q f = m.fld q f := by rw [Mod.fld, reg_wroteReg_other _ _ _ h]; rfl

/-- A field lies within the bits of a mask. -/
def Fld.within (f : Fld) (k : Word) : Prop := fieldMask f.lo f.w &&& ~~~k = 0

/-- A field lies apart from the bits of a mask. -/
def Fld.apart (f : Fld) (k : Word) : Prop := fieldMask f.lo f.w &&& k = 0

theorem getLsbD_fieldMask {lo w i : Nat} (h64 : lo + w ≤ 64) (hi : i < w) : (fieldMask lo w).getLsbD (lo + i) = true := by
  have hl : lo + i < 64 := by omega
  simp [fieldMask, BitVec.getLsbD_ofNat, Nat.testBit_mul_two_pow, Nat.testBit_two_pow_sub_one, hl, hi]

theorem Fld.within.getLsbD {f : Fld} {k : Word} (h : f.within k) (h64 : f.lo + f.w ≤ 64) {i : Nat} (hi : i < f.w) :
    k.getLsbD (f.lo + i) = true := by
  have hb := congrArg (·.getLsbD (f.lo + i)) h
  have hl : f.lo + i < 64 := by omega
  simpa only [BitVec.getLsbD_and, BitVec.getLsbD_not, getLsbD_fieldMask h64 hi, hl, decide_true, Bool.true_and,
    BitVec.ofNat_eq_ofNat, BitVec.getLsbD_zero, Bool.not_eq_false'] using hb

theorem Fld.apart.getLsbD {f : Fld} {k : Word} (h : f.apart k) (h64 : f.lo + f.w ≤ 64) {i : Nat} (hi : i < f.w) :
    k.getLsbD (f.lo + i) = false := by
  have hb := congrArg (·.getLsbD (f.lo + i)) h
  simpa only [BitVec.getLsbD_and, getLsbD_fieldMask h64 hi, Bool.true_and, BitVec.ofNat_eq_ofNat,
    BitVec.getLsbD_zero] using hb

section whole
variable {who : Requester} {o : Nat} {val : Word} {m : Mod} {row : RegRow} {ix : List Nat} {f : Fld}

theorem testBit_fld_wroteReg (h8 : o % 8 = 0) (hfind : regFind o regTable = some (row, ix)) (hne : o ≠ TH_STATUS)
    (hf : fldOk o f = true) (i : Nat) : ((wroteReg who o val m).fld o f).testBit i =
      (decide (i < f.w) && Claims.bitAfter who o 8 val (m.reg o) (f.lo + i)) := by
  simp only [fldOk, Bool.and_eq_true, decide_eq_true_eq] at hf
  obtain ⟨⟨ha, h64⟩, hm⟩ := hf
  have ho := regOff_of_aligned h8
  rw [Mod.fld, wroteReg, reg_upd, if_pos ⟨rfl, ha⟩, bitsOf_and_mask _ _ _ _ h64 hm, testBit_bitsOf]
  by_cases hi : i < f.w
  · rw [getLsbD_written (by rw [ho]; exact hfind) (by rw [ho]; exact hne) (by omega)]
  · simp [hi]

theorem bitAfter_eight (h8 : o % 8 = 0) {b : Nat} (hb : b < 64) (old : Word) : Claims.bitAfter who o 8 val old b =
    if (accMask o .rw).getLsbD b || (decide (who = .tfw) && (accMask o .tfw).getLsbD b) then val.getLsbD b
    else if (accMask o .w1c).getLsbD b then old.getLsbD b && !val.getLsbD b
    else if (accMask o .w1s).getLsbD b then old.getLsbD b || val.getLsbD b
    else old.getLsbD b := by
  have hcov : (writeCover o 8).getLsbD b = true := by rw [writeCover_eight, BitVec.getLsbD_allOnes]; simpa using hb
  simp [Claims.bitAfter, hcov, laid_eight, regOff_of_aligned h8]

/-- A field that software writes takes the value written (R11). -/
theorem fld_wroteReg_rw (h8 : o % 8 = 0) (hfind : regFind o regTable = some (row, ix)) (hne : o ≠ TH_STATUS)
    (hf : fldOk o f = true) (h64 : f.lo + f.w ≤ 64) (hacc : f.within (fieldsAcc row.fields .rw)) :
    (wroteReg who o val m).fld o f = bitsOf val f.lo f.w := by
  apply Nat.eq_of_testBit_eq
  intro i
  rw [testBit_fld_wroteReg h8 hfind hne hf, testBit_bitsOf]
  by_cases hi : i < f.w
  · rw [bitAfter_eight h8 (by omega), accMask_of_find hfind, hacc.getLsbD h64 hi]; rfl
  · simp [hi]

/-- A field that no write takes stays (R11). -/
theorem fld_wroteReg_kept (h8 : o % 8 = 0) (hfind : regFind o regTable = some (row, ix)) (hne : o ≠ TH_STATUS)
    (hf : fldOk o f = true) (h64 : f.lo + f.w ≤ 64) (hacc : f.apart (fieldsAcc row.fields .rw |||
      fieldsAcc row.fields .tfw ||| fieldsAcc row.fields .w1c ||| fieldsAcc row.fields .w1s)) :
    (wroteReg who o val m).fld o f = m.fld o f := by
  apply Nat.eq_of_testBit_eq
  intro i
  rw [testBit_fld_wroteReg h8 hfind hne hf, Mod.fld, testBit_bitsOf]
  by_cases hi : i < f.w
  · have h := hacc.getLsbD h64 hi
    simp only [BitVec.getLsbD_or, Bool.or_eq_false_iff, ← accMask_of_find hfind] at h
    obtain ⟨⟨⟨hrw, htfw⟩, hw1c⟩, hw1s⟩ := h
    simp [bitAfter_eight h8 (by omega : f.lo + i < 64), hrw, htfw, hw1c, hw1s]
  · simp [hi]

theorem bitsOf_one (w : Word) (i : Nat) : bitsOf w i 1 = (bitOf w i).toNat := by
  rw [bitsOf, bitOf, BitVec.getLsbD, Nat.testBit, Nat.shiftRight_eq_div_pow]
  rcases Nat.mod_two_eq_zero_or_one (w.toNat / 2 ^ i) with h | h <;> simp [h, Nat.one_and_eq_mod_two]

theorem flag_eq_bitOf (m : Mod) (o : Nat) (hw : f.w = 1) : m.flag o f = bitOf (m.reg o) f.lo := by
  rw [Mod.flag, Mod.fld, hw, bitsOf_one]
  cases bitOf (m.reg o) f.lo <;> rfl

theorem flag_eq_testBit (m : Mod) (o : Nat) (hw : f.w = 1) : m.flag o f = (m.fld o f).testBit 0 := by
  rw [flag_eq_bitOf m o hw, Mod.fld, testBit_bitsOf, hw]; rfl

/-- A bit that a 1 clears (R12). -/
theorem flag_wroteReg_w1c (h8 : o % 8 = 0) (hfind : regFind o regTable = some (row, ix)) (hne : o ≠ TH_STATUS)
    (hf : fldOk o f = true) (h64 : f.lo + f.w ≤ 64) (hw : f.w = 1) (hacc : f.within (fieldsAcc row.fields .w1c)) :
    (wroteReg who o val m).flag o f = (m.flag o f && !bitOf val f.lo) := by
  have hc : (accMask o .w1c).getLsbD f.lo = true := by
    rw [accMask_of_find hfind]; exact hacc.getLsbD (i := 0) h64 (by omega)
  obtain ⟨hrw, htfw, -⟩ := accMask_of_w1c hfind hc
  rw [flag_eq_testBit _ _ hw, testBit_fld_wroteReg h8 hfind hne hf, hw, Nat.add_zero, bitAfter_eight h8 (by omega),
    flag_eq_bitOf m o hw]
  simp [hc, hrw, htfw, bitOf]

/-- A bit that a 1 sets (R13). -/
theorem flag_wroteReg_w1s (h8 : o % 8 = 0) (hfind : regFind o regTable = some (row, ix)) (hne : o ≠ TH_STATUS)
    (hf : fldOk o f = true) (h64 : f.lo + f.w ≤ 64) (hw : f.w = 1) (hacc : f.within (fieldsAcc row.fields .w1s))
    (hrest : f.apart (fieldsAcc row.fields .rw ||| fieldsAcc row.fields .tfw ||| fieldsAcc row.fields .w1c)) :
    (wroteReg who o val m).flag o f = (m.flag o f || bitOf val f.lo) := by
  have hs : (accMask o .w1s).getLsbD f.lo = true := by
    rw [accMask_of_find hfind]; exact hacc.getLsbD (i := 0) h64 (by omega)
  have h := hrest.getLsbD (i := 0) h64 (by omega)
  simp only [BitVec.getLsbD_or, Bool.or_eq_false_iff, ← accMask_of_find hfind, Nat.add_zero] at h
  obtain ⟨⟨hrw, htfw⟩, hw1c⟩ := h
  rw [flag_eq_testBit _ _ hw, testBit_fld_wroteReg h8 hfind hne hf, hw, Nat.add_zero, bitAfter_eight h8 (by omega),
    flag_eq_bitOf m o hw]
  simp [hs, hrw, htfw, hw1c, bitOf]

end whole

end Sys2Proof.Machine

end

section

namespace Sys2Proof.Machine

/-! ### Rows of the registers with an action -/

theorem regFind_CD_SORUS_STATE {d s : Nat} (hd : d < 8) (hs : s < 25) :
    regFind (CD_SORUS_STATE d s) regTable = some (⟨0x100800, [(8, 0x10000), (25, 0x8)],
      [⟨0, 2, .hwu, 0x0⟩, ⟨8, 3, .hwu, 0x0⟩, ⟨11, 1, .hwu, 0x0⟩, ⟨32, 32, .hwu, 0x0⟩]⟩, [d, s]) := by
  have e : CD_SORUS_STATE d s = 0x100800 + 0x10000 * d + (0x8 * s + 0) := by unfold CD_SORUS_STATE; omega
  rw [e]
  refine regFind_getElem (n := 10) rfl ?_ ?_
  · simp (disch := omega) only [regTable, regsMOD0, regsCD0, List.cons_append, List.nil_append, List.take_succ_cons,
      List.take_zero, List.forall_mem_cons, List.not_mem_nil, IsEmpty.forall_iff, implies_true, and_true, hit_die,
      Option.map_eq_none_iff, hit_eq_none, regIndex_nil_eq_none]
    and_intros <;> omega
  · simp (disch := omega) only [hit_die, Nat.add_sub_cancel_left, regIndex_mul_add, regIndex_nil_zero, Option.map_some]

theorem regFind_CD_RING_CTL {d r : Nat} (hd : d < 8) (hr : r < 256) :
    regFind (CD_RING_CTL d r) regTable = some (⟨0x109010, [(8, 0x10000), (256, 0x20)],
      [⟨0, 4, .lck, 0x4⟩, ⟨4, 3, .lck, 0x0⟩, ⟨7, 1, .lck, 0x0⟩, ⟨8, 1, .w1s, 0x0⟩, ⟨32, 32, .rw, 0x0⟩]⟩, [d, r]) := by
  have e : CD_RING_CTL d r = 0x109010 + 0x10000 * d + (0x20 * r + 0) := by unfold CD_RING_CTL; omega
  rw [e]
  refine regFind_getElem (n := 17) rfl ?_ ?_
  · simp (disch := omega) only [regTable, regsMOD0, regsCD0, regsCD1, List.cons_append, List.nil_append,
      List.take_succ_cons, List.take_zero, List.forall_mem_cons, List.not_mem_nil, IsEmpty.forall_iff, implies_true,
      and_true, hit_die, Option.map_eq_none_iff, hit_eq_none, regIndex_nil_eq_none, regIndex_cons_eq_none]
    and_intros <;> omega
  · simp (disch := omega) only [hit_die, Nat.add_sub_cancel_left, regIndex_mul_add, regIndex_nil_zero, Option.map_some]

theorem regFind_CD_RING_STATE {d r : Nat} (hd : d < 8) (hr : r < 256) :
    regFind (CD_RING_STATE d r) regTable = some (⟨0x109018, [(8, 0x10000), (256, 0x20)],
      [⟨0, 32, .hwu, 0x0⟩, ⟨32, 2, .hwu, 0x0⟩]⟩, [d, r]) := by
  have e : CD_RING_STATE d r = 0x109018 + 0x10000 * d + (0x20 * r + 0) := by unfold CD_RING_STATE; omega
  rw [e]
  refine regFind_getElem (n := 18) rfl ?_ ?_
  · simp (disch := omega) only [regTable, regsMOD0, regsCD0, regsCD1, List.cons_append, List.nil_append,
      List.take_succ_cons, List.take_zero, List.forall_mem_cons, List.not_mem_nil, IsEmpty.forall_iff, implies_true,
      and_true, hit_die, Option.map_eq_none_iff, hit_eq_none, regIndex_nil_eq_none, regIndex_cons_eq_none]
    and_intros <;> omega
  · simp (disch := omega) only [hit_die, Nat.add_sub_cancel_left, regIndex_mul_add, regIndex_nil_zero, Option.map_some]

theorem regFind_PT_CAL {p : Nat} (hp : p < 64) :
    regFind (PT_CAL p) regTable = some (⟨0x300038, [(64, 0x1000)],
      [⟨0, 5, .rw, 0x0⟩, ⟨5, 1, .w1s, 0x0⟩, ⟨6, 1, .w1c, 0x0⟩, ⟨7, 1, .w1c, 0x0⟩, ⟨32, 32, .hwu, 0x0⟩]⟩, [p]) := by
  have e : PT_CAL p = 0x300038 + (0x1000 * p + 0) := by unfold PT_CAL; omega
  rw [e]
  refine regFind_getElem (n := 58) rfl ?_ ?_
  · simp only [regTable, regsMOD0, regsCD0, regsCD1, regsMS0, regsMS1, regsFB0, regsRM0, regsPT0, List.cons_append,
      List.nil_append, List.take_succ_cons, List.take_zero, List.forall_mem_cons, List.not_mem_nil, IsEmpty.forall_iff,
      implies_true, and_true, hit_eq_none, regIndex_nil_eq_none, regIndex_cons_eq_none]
    and_intros <;> omega
  · simp (disch := omega) only [hit_add, regIndex_mul_add, regIndex_nil_zero, Option.map_some]

theorem regFind_FB_PORT_LINK {p : Nat} (hp : p < 64) :
    regFind (FB_PORT_LINK p) regTable = some (⟨0x501008, [(64, 0x20)],
      [⟨0, 3, .hwu, 0x0⟩, ⟨3, 1, .hwu, 0x0⟩, ⟨4, 1, .hwu, 0x0⟩, ⟨16, 16, .hwu, 0x0⟩, ⟨32, 32, .hwu, 0x0⟩]⟩, [p]) := by
  have e : FB_PORT_LINK p = 0x501008 + (0x20 * p + 0) := by unfold FB_PORT_LINK; omega
  rw [e]
  refine regFind_getElem (n := 41) rfl ?_ ?_
  · simp only [regTable, regsMOD0, regsCD0, regsCD1, regsMS0, regsMS1, regsFB0, List.cons_append,
      List.nil_append, List.take_succ_cons, List.take_zero, List.forall_mem_cons, List.not_mem_nil, IsEmpty.forall_iff,
      implies_true, and_true, hit_eq_none, regIndex_nil_eq_none, regIndex_cons_eq_none]
    and_intros <;> omega
  · simp (disch := omega) only [hit_add, regIndex_mul_add, regIndex_nil_zero, Option.map_some]

/-- The row of `DD_RESET` (R510). -/
def resetRow : RegRow :=
  ⟨0x800500, [], [⟨0, 8, .rw, 0x0⟩, ⟨8, 1, .w1s, 0x0⟩, ⟨16, 6, .rw, 0x0⟩, ⟨22, 1, .w1s, 0x0⟩, ⟨24, 1, .w1c, 0x0⟩,
    ⟨25, 1, .w1c, 0x0⟩]⟩

theorem regFind_DD_RESET : regFind DD_RESET regTable = some (resetRow, []) := by decide

theorem regFind_TH_STATUS : regFind TH_STATUS regTable =
    some (⟨0x30000, [], [⟨0, 1, .hwu, 0x0⟩, ⟨1, 1, .w1c, 0x0⟩]⟩, []) := by decide

/-! ### Commands whose effect is one act -/

theorem after_done {c : Instr} {a : Act} {s : State} {P : Mod → Prop} (h : exec c s = done a s) (hp : P (a.run s.mod)) :
    Claims.After c s P := ⟨_, h, rfl, hp⟩

/-! ### Plain registers and faults (R9) -/

theorem regAction_of_plain {base : Nat} {ix : List Nat} (v : Word)
    (h : base ∉ [CD_RING_CTL 0 0, PT_CAL 0, DD_RESET, TH_STATUS, TR_GATE_CTL 0]) : regAction base ix v = .nop := by
  simp only [List.mem_cons, List.not_mem_nil, or_false, not_or] at h
  obtain ⟨h1, h2, h3, h4, h5⟩ := h
  simp [regAction, h1, h2, h3, h4, h5]

theorem after_registerWrite {who : Requester} {off size : Nat} {val : Word} {row : RegRow} {ix : List Nat} {s : State}
    (hok : accessOk off size = true) (hreach : reaches s.mod who off = true)
    (hfind : regFind (regOff off) regTable = some (row, ix)) (hign : ignores s.mod who row.base ix = false)
    (hplain : row.base ∉ [CD_RING_CTL 0 0, PT_CAL 0, DD_RESET, TH_STATUS, TR_GATE_CTL 0])
    (hold : s.mod.reg (regOff off) &&& regMask (regOff off) = s.mod.reg (regOff off)) :
    Claims.After (.registerWrite who off size val) s fun u =>
      (∀ b < 64, (u.reg (regOff off)).getLsbD b = Claims.bitAfter who off size val (s.mod.reg (regOff off)) b) ∧
      (∀ q, q ≠ regOff off → u.reg q = s.mod.reg q) ∧ u.mem = s.mod.mem ∧ u.out = s.mod.out := by
  have hne : regOff off ≠ TH_STATUS := by
    intro h
    rw [h, regFind_TH_STATUS, Option.some.injEq, Prod.mk.injEq] at hfind
    rw [← hfind.1] at hplain
    exact absurd hplain (by decide)
  refine after_done (a := writeReg who off size val) rfl ?_
  rw [writeReg_run hok hreach hfind hign, regAction_of_plain _ hplain, Act.run_nop]
  refine ⟨fun b hb => ?_, fun q hq => ?_, by simp, by simp⟩
  · rw [reg_upd, if_pos ⟨rfl, regAssigned_of_find hfind⟩, BitVec.getLsbD_and, getLsbD_written hfind hne hb]
    cases hm : (regMask (regOff off)).getLsbD b
    · rw [bitAfter_of_reserved hfind hb hm, ← hold, BitVec.getLsbD_and, hm, Bool.and_false, Bool.and_false]
    · rw [Bool.and_true]
  · rw [reg_upd, if_neg fun hc => hq hc.1]

theorem exec_registerWrite_fault {who : Requester} {off size : Nat} {val : Word} {s : State}
    (h : accessOk off size = false ∨ reaches s.mod who off = false) :
    exec (.registerWrite who off size val) s =
      .next { s with mod := { s.mod with out := .regFault who off :: s.mod.out } } := by
  show done (writeReg who off size val) s = _
  rw [done_eq, writeReg_run_fault h]; rfl

theorem accessOk_iff (off size : Nat) : accessOk off size = true ↔
    (size = 8 ∧ off % 8 = 0 ∨ size = 4 ∧ off % 4 = 0) ∧ regAssigned (regOff off) = true := by
  simp [accessOk]

/-- A companion's read that is not an access of R9 is answered DENIED and changes nothing. -/
theorem exec_regRd_denied {tag : BitVec 16} {off : BitVec 52} {n : BitVec 13} {s : State} (hup : voloshUp s.mod = true)
    (hfree : tagBusy s.mod tag = false) (hn : n.toNat = 4 ∨ n.toNat = 8) (hok : accessOk off.toNat n.toNat = false) :
    exec (.regRd tag off n) s = .next { s with mod := { s.mod with
      out := vPacket s.mod 0x81 stDenied 0 tag 0 0 [] :: s.mod.out } } := by
  have hsize : regSize n.toNat = true := by simpa [regSize] using hn
  show execRegRd tag off n s = _
  simp only [execRegRd, done_eq, Act.run_look, hup, hfree, hsize, hok, Bool.not_true, Bool.false_eq_true, if_false,
    Bool.or_self, Bool.false_and, voloshAnswer, emit_run, if_true]

/-! ### Ring resets (R187) -/

section ring
variable {d r : Nat} {val : Word} {m : Mod}

theorem fld_wroteReg_ring (hd : d < 8) (hr : r < 256) {f : Fld} (h : f = CD_RING_CTL_CHAMBER ∨ f = CD_RING_CTL_ENABLE) :
    (wroteReg .sfw (CD_RING_CTL d r) val m).fld (CD_RING_CTL d r) f = m.fld (CD_RING_CTL d r) f := by
  have hfind := regFind_CD_RING_CTL hd hr
  have h8 : CD_RING_CTL d r % 8 = 0 := by unfold CD_RING_CTL; omega
  have hne : CD_RING_CTL d r ≠ TH_STATUS := by unfold CD_RING_CTL TH_STATUS; omega
  rcases h with rfl | rfl <;>
    exact fld_wroteReg_kept h8 hfind hne (fldOk_of_find hfind (by decide)) (by decide) (by unfold Fld.apart; decide)

theorem fld_wroteReg_startSeq (hd : d < 8) (hr : r < 256) :
    (wroteReg .sfw (CD_RING_CTL d r) val m).fld (CD_RING_CTL d r) CD_RING_CTL_START_SEQ = bitsOf val 32 32 := by
  have hfind := regFind_CD_RING_CTL hd hr
  exact fld_wroteReg_rw (by unfold CD_RING_CTL; omega) hfind (by unfold CD_RING_CTL TH_STATUS; omega)
    (fldOk_of_find hfind (by decide)) (by decide) (by unfold Fld.within; decide)

theorem ring_modRing (f : Ring → Ring) : ((modRing d r f).run m).ring d r = f (m.ring d r) := by
  simp [modRing, modCDie_run, Mod.ring, Mod.cdie]

theorem stackOwner_congr {m m' : Mod} {s : Nat} (h : m'.reg (stackReg s) = m.reg (stackReg s)) :
    stackOwner m' s = stackOwner m s := by
  unfold stackOwner Mod.flag Mod.fld; rw [h]

theorem dieRuns_congr {m m' : Mod} (h : m'.reg MOD_DIE_STATE = m.reg MOD_DIE_STATE) (n : Nat) :
    m'.dieRuns n = m.dieRuns n := by
  unfold Mod.dieRuns Mod.dieState; rw [h]

theorem stackServes_congr {m m' : Mod} {s : Nat} (h : m'.reg (stackReg s) = m.reg (stackReg s))
    (hd : m'.reg MOD_DIE_STATE = m.reg MOD_DIE_STATE) : stackServes m' s = stackServes m s := by
  unfold stackServes stackState Mod.fld; rw [h, dieRuns_congr hd]

/-- What decides whether a chamber's rings may be watched are the chambers, the stacks' registers and the die states. -/
theorem ringsAllowed_congr {m m' : Mod} (hc : m'.chambers = m.chambers)
    (hs : ∀ s < 32, m'.reg (stackReg s) = m.reg (stackReg s)) (hd : m'.reg MOD_DIE_STATE = m.reg MOD_DIE_STATE) (k : Nat) :
    ringsAllowed m' k = ringsAllowed m k := by
  have hown : stacksOf m' k = stacksOf m k :=
    List.filter_congr fun s h => by rw [stackOwner_congr (hs s (List.mem_range.1 h))]
  have hserves : (stacksOf m k).all (stackServes m') = (stacksOf m k).all (stackServes m) := by
    rw [Bool.eq_iff_iff, List.all_eq_true, List.all_eq_true]
    refine forall₂_congr fun s h => ?_
    rw [stackServes_congr (hs s (List.mem_range.1 (List.mem_filter.1 h).1)) hd]
  unfold ringsAllowed Mod.chamber
  rw [hc, hown, hserves]

theorem ring_setF (off : Nat) (f : Fld) (v d' r' : Nat) : ((setF off f v).run m).ring d' r' = m.ring d' r' := rfl

/-- A ring that no binding holds starts watching at its START_SEQ. -/
theorem startRing_run (hd : d < 8) (hr : r < 256) (hb : bound m (ringChamber m d r) = false) :
    ((startRing d r).run m).fld (CD_RING_STATE d r) CD_RING_STATE_STATE = 1 ∧
    ringExpect ((startRing d r).run m) d r = m.fld (CD_RING_CTL d r) CD_RING_CTL_START_SEQ ∧
    (((startRing d r).run m).ring d r).reading = false ∧
    ((startRing d r).run m).flag (CD_RING_CTL d r) CD_RING_CTL_RESET = false ∧ ((startRing d r).run m).mem = m.mem := by
  have hst := regFind_CD_RING_STATE hd hr
  have hctl := regFind_CD_RING_CTL hd hr
  have hne : CD_RING_CTL d r ≠ CD_RING_STATE d r := by unfold CD_RING_CTL CD_RING_STATE; omega
  have hE : fldOk (CD_RING_STATE d r) CD_RING_STATE_EXPECT = true := fldOk_of_find hst (by decide)
  have hlt : m.fld (CD_RING_CTL d r) CD_RING_CTL_START_SEQ < 2 ^ 32 := bitsOf_lt _ _ _
  simp only [startRing, Act.run_look, hb, Bool.false_and, Bool.false_eq_true, if_false, run_acts_cons, run_acts_nil]
  refine ⟨?_, ?_, ?_, ?_, rfl⟩
  · rw [fld_setF _ _ _ _ (fldOk_of_find hst (by decide))]; rfl
  · rw [ringExpect, fld_setF_apart _ _ _ _ _ (by decide) hE, fld_setF _ _ _ _ hE, BitVec.toNat_ofNat,
      Nat.mod_eq_of_lt hlt]
    exact Nat.mod_eq_of_lt hlt
  · rw [ring_setF, ring_setF, ring_modRing]
  · rw [Mod.flag, fld_setF_other _ _ _ _ _ _ hne, fld_setF_other _ _ _ _ _ _ hne]
    show decide (((setF (CD_RING_CTL d r) CD_RING_CTL_RESET 0).run m).fld (CD_RING_CTL d r) CD_RING_CTL_RESET = 1) = false
    rw [fld_setF _ _ _ _ (fldOk_of_find hctl (by decide))]; rfl

/-- A ring reset of a ring that may be watched, which no binding holds, starts it again at its START_SEQ. -/
theorem actRingReset_run (hd : d < 8) (hr : r < 256) (hallow : ringsAllowed m (ringChamber m d r) = true)
    (hen : m.flag (CD_RING_CTL d r) CD_RING_CTL_ENABLE = true) (hrun : m.dieRuns d = true)
    (hb : bound m (ringChamber m d r) = false) :
    ((actRingReset d r).run m).fld (CD_RING_STATE d r) CD_RING_STATE_STATE = 1 ∧
    ringExpect ((actRingReset d r).run m) d r = m.fld (CD_RING_CTL d r) CD_RING_CTL_START_SEQ ∧
    (((actRingReset d r).run m).ring d r).reading = false ∧
    ((actRingReset d r).run m).flag (CD_RING_CTL d r) CD_RING_CTL_RESET = false ∧
    ((actRingReset d r).run m).mem = m.mem := by
  have hctl : CD_RING_CTL d r ≠ CD_RING_STATE d r := by unfold CD_RING_CTL CD_RING_STATE; omega
  have hconf : ∀ k, VL_CONF_STATE k ≠ CD_RING_STATE d r := by intro k; unfold VL_CONF_STATE CD_RING_STATE; omega
  simp only [actRingReset, Act.run_look, run_acts_cons, run_acts_nil, hallow, hen, hrun, Bool.and_self, onlyIf_true]
  have hkeep : ∀ q, q ≠ CD_RING_STATE d r → ∀ f, ((setF (CD_RING_STATE d r) CD_RING_STATE_STATE 0).run
      ((modRing d r fun x => { x with reading := false, reread := false }).run m)).fld q f = m.fld q f :=
    fun q hq f => fld_setF_other _ _ _ _ _ _ hq
  have hseq := hkeep _ hctl CD_RING_CTL_START_SEQ
  obtain ⟨hstate, hexpect, hreading, hreset, hmem⟩ := startRing_run (m := (setF (CD_RING_STATE d r) CD_RING_STATE_STATE 0).run
    ((modRing d r fun x => { x with reading := false, reread := false }).run m)) hd hr (by
      rw [ringChamber, hkeep _ hctl, bound, confState, hkeep _ (hconf _)]; exact hb)
  exact ⟨hstate, hexpect.trans hseq, hreading, hreset, hmem⟩

end ring

theorem after_ringReset {d : Fin 8} {r : Fin 256} {val : Word} {s : State} (hgo : bitOf val 8 = true)
    (hallow : ringsAllowed s.mod (ringChamber s.mod d r) = true)
    (hen : s.mod.flag (CD_RING_CTL d r) CD_RING_CTL_ENABLE = true) (hrun : s.mod.dieRuns d = true)
    (hb : bound s.mod (ringChamber s.mod d r) = false) :
    Claims.After (.ringReset .sfw d r val) s fun u => u.fld (CD_RING_STATE d r) CD_RING_STATE_STATE = 1 ∧
      ringExpect u d r = bitsOf val 32 32 ∧ (u.ring d r).reading = false ∧
      u.flag (CD_RING_CTL d r) CD_RING_CTL_RESET = false ∧ u.mem = s.mod.mem := by
  have hcham : ringChamber (wroteReg .sfw (CD_RING_CTL d r) val s.mod) d r = ringChamber s.mod d r :=
    fld_wroteReg_ring d.isLt r.isLt (.inl rfl)
  have hdie : (wroteReg .sfw (CD_RING_CTL d r) val s.mod).reg MOD_DIE_STATE = s.mod.reg MOD_DIE_STATE :=
    reg_wroteReg_other _ _ _ (by unfold MOD_DIE_STATE CD_RING_CTL; omega)
  refine after_done (a := writeReg .sfw (CD_RING_CTL d r) 8 val) rfl ?_
  rw [writeReg_sfw_run (by unfold CD_RING_CTL; omega) (regFind_CD_RING_CTL d.isLt r.isLt) rfl]
  have hrings : ringsAllowed (wroteReg .sfw (CD_RING_CTL d r) val s.mod) (ringChamber s.mod d r) =
      ringsAllowed s.mod (ringChamber s.mod d r) :=
    ringsAllowed_congr (m := s.mod) (m' := wroteReg .sfw (CD_RING_CTL d r) val s.mod) rfl (fun q _ => reg_wroteReg_other _ _ _
      (by unfold stackReg MS_STACK_STATE CD_RING_CTL; omega)) hdie _
  have hact : regAction 0x109010 [d.val, r.val] val = actRingReset d r := by
    show onlyIf (decide (bitsOf val 8 1 = 1)) (actRingReset d r) = _
    rw [bitsOf_one, hgo]; rfl
  rw [hact]
  obtain ⟨hstate, hexpect, hreading, hreset, hmem⟩ := actRingReset_run
    (m := wroteReg .sfw (CD_RING_CTL d r) val s.mod) d.isLt r.isLt
    (by rw [hcham, hrings, hallow])
    (by rw [Mod.flag, fld_wroteReg_ring d.isLt r.isLt (.inr rfl)]; exact hen)
    (by rw [dieRuns_congr hdie, hrun])
    (by
      rw [hcham, bound, confState, fld_wroteReg_other _ _ _ _ (by unfold VL_CONF_STATE CD_RING_CTL; omega)]; exact hb)
  exact ⟨hstate, hexpect.trans (fld_wroteReg_startSeq d.isLt r.isLt), hreading, hreset, hmem⟩

end Sys2Proof.Machine

end

section

namespace Sys2Proof.Machine

/-! ### Calibration (R389) -/

section calibration
variable {p : Nat} {val : Word} {m : Mod}

/-- A calibration's refusal does not look at `PT_CAL`. -/
theorem calRefused_wroteReg (hp : p < 64) (l : Nat) :
    calRefused (wroteReg .sfw (PT_CAL p) val m) p l = calRefused m p l := by
  have hother : ∀ q, q ≠ PT_CAL p → ∀ f, (wroteReg .sfw (PT_CAL p) val m).fld q f = m.fld q f :=
    fun q hq f => fld_wroteReg_other _ _ _ _ hq
  have hdie := hother (LS_DIE (p / 8)) (by unfold LS_DIE PT_CAL; omega) LS_DIE_HANDOVER
  have hmode := hother MOD_DIE_MODE (by unfold MOD_DIE_MODE PT_CAL; omega) MOD_DIE_MODE_IO_MODE
  have hlink := hother (FB_PORT_LINK p) (by unfold FB_PORT_LINK PT_CAL; omega) FB_PORT_LINK_STATE
  have hspare := hother (PT_SPARE p) (by unfold PT_SPARE PT_CAL; omega)
  unfold calRefused ioMode Mod.portOpen Mod.linkState Mod.spareUse
  simp only [hdie, hmode, hlink, hspare]
  rfl

theorem regAction_PT_CAL : regAction 0x300038 [p] val =
    onlyIf (bitOf val 5) (.look fun m => startCal p (m.fld (PT_CAL p) PT_CAL_LANE)) := by
  show onlyIf (decide (bitsOf val 5 1 = 1)) _ = _
  rw [bitsOf_one]
  cases bitOf val 5 <;> rfl

theorem PT_CAL_ne_TH_STATUS : PT_CAL p ≠ TH_STATUS := by unfold PT_CAL TH_STATUS; omega

theorem fldOk_PT_CAL (hp : p < 64) {f : Fld} (hf : f.lo + f.w ≤ 64 ∧ fieldMask f.lo f.w &&&
    ~~~fieldsMask [⟨0, 5, .rw, 0x0⟩, ⟨5, 1, .w1s, 0x0⟩, ⟨6, 1, .w1c, 0x0⟩, ⟨7, 1, .w1c, 0x0⟩, ⟨32, 32, .hwu, 0x0⟩] = 0) :
    fldOk (PT_CAL p) f = true := fldOk_of_find (regFind_PT_CAL hp) hf

/-- A write of `PT_CAL` takes the lane, then START starts a calibration. -/
theorem writeReg_PT_CAL (hp : p < 64) : (writeReg .sfw (PT_CAL p) 8 val).run m =
    (onlyIf (bitOf val 5) (startCal p (bitsOf val 0 5))).run (wroteReg .sfw (PT_CAL p) val m) := by
  have hfind := regFind_PT_CAL hp
  have h8 : PT_CAL p % 8 = 0 := by unfold PT_CAL; omega
  have hlane : (wroteReg .sfw (PT_CAL p) val m).fld (PT_CAL p) PT_CAL_LANE = bitsOf val 0 5 :=
    fld_wroteReg_rw h8 hfind PT_CAL_ne_TH_STATUS (fldOk_PT_CAL hp (by decide)) (by decide) (by unfold Fld.within; decide)
  rw [writeReg_sfw_run h8 hfind rfl, regAction_PT_CAL]
  cases bitOf val 5
  · rfl
  · rw [onlyIf_true, onlyIf_true, Act.run_look, hlane]

theorem startCal_refused (hp : p < 64) {l : Nat} (h : calRefused m p l = true) :
    ((startCal p l).run m).flag (PT_CAL p) PT_CAL_REFUSED = true ∧ ((startCal p l).run m).calPhase = m.calPhase ∧
    ((startCal p l).run m).ports = m.ports ∧ ((startCal p l).run m).mem = m.mem := by
  have hR : fldOk (PT_CAL p) PT_CAL_REFUSED = true := fldOk_PT_CAL hp (by decide)
  have hset : ((setF (PT_CAL p) PT_CAL_REFUSED 1).run m).flag (PT_CAL p) PT_CAL_REFUSED = true := by
    rw [Mod.flag, fld_setF _ _ _ _ hR]; rfl
  simp only [startCal, Act.run_look, h, if_true, run_acts_cons, run_acts_nil]
  cases decide (m.calPort ≠ some p)
  · exact ⟨hset, rfl, rfl, rfl⟩
  · refine ⟨?_, rfl, rfl, rfl⟩
    rw [onlyIf_true, Mod.flag, fld_setF_apart _ _ _ _ _ (by decide) hR]
    exact hset

/-- The updates of a calibration in place beside those of its own registers. -/
def Upd.besideCal (p : Nat) : Upd → Prop
  | .reg o _ => o ≠ PT_CAL p ∧ o ≠ LS_CAL
  | .ports _ | .out _ => True
  | _ => False

theorem Upd.besideCal.eqs {m : Mod} {u : Upd} (h : u.besideCal p) : (u.app m).reg (PT_CAL p) = m.reg (PT_CAL p) ∧
    (u.app m).reg LS_CAL = m.reg LS_CAL ∧ (u.app m).calPhase = m.calPhase ∧ (u.app m).mem = m.mem := by
  cases u with
  | reg o v => exact ⟨by rw [reg_upd, if_neg fun hc => h.1 hc.1.symm], by rw [reg_upd, if_neg fun hc => h.2 hc.1.symm],
      rfl, rfl⟩
  | ports _ => exact ⟨rfl, rfl, rfl, rfl⟩
  | out _ => exact ⟨rfl, rfl, rfl, rfl⟩
  | _ => exact h.elim

theorem besideCal_setF {off : Nat} (f : Fld) (v : Nat) (h : off ≠ PT_CAL p ∧ off ≠ LS_CAL) :
    (setF off f v).All (Upd.besideCal p) := fun _ => h

theorem besideCal_setSpare (x use l : Nat) : (setSpare p x use l).All (Upd.besideCal p) := by
  have h : PT_SPARE p ≠ PT_CAL p ∧ PT_SPARE p ≠ LS_CAL := by unfold PT_SPARE PT_CAL LS_CAL; omega
  exact ⟨besideCal_setF _ _ h, besideCal_setF _ _ h, trivial⟩

theorem besideCal_sendFrame (type l x cause : Nat) (slot : Option Bool) :
    (sendFrame p type l x cause slot).All (Upd.besideCal p) := fun _ => ⟨fun _ => trivial, trivial, trivial⟩

/-- What the calibration of a lane in place does after it has entered its phase. -/
def calTail (p l : Nat) : Act := acts [onlyIf (decide (16 ≤ l)) (setSpare p l 1 l), setF (PT_TX_LANE p l) lockFld 1,
  sendFrame p frCalStart (l % 16) l 3 (some true)]

theorem startCal_spare_run {l : Nat} (h : calRefused m p l = false) (hl : 16 ≤ l) :
    (startCal p l).run m = (calTail p l).run (Upd.app ((setF LS_CAL LS_CAL_LANE l).run ((setF LS_CAL LS_CAL_PORT p).run
      ((setF LS_CAL LS_CAL_ACTIVE 1).run m))) (.calPhase (some (p, l, 1)))) := by
  have hplace : ¬ (ioMode m (p / 8) ≠ 1 ∧ l < 16 ∧ (m.logicalOn true p l).isSome = true) := by omega
  simp only [startCal, Act.run_look, h, Bool.false_eq_true, if_false, if_neg hplace]
  rfl

/-- The calibration of a spare lane starts in place. -/
theorem startCal_spare (hp : p < 64) {l : Nat} (h : calRefused m p l = false) (hl : 16 ≤ l)
    (hgo : m.flag (PT_CAL p) PT_CAL_START = true) :
    ((startCal p l).run m).calPhase = some (p, l, 1) ∧ ((startCal p l).run m).flag (PT_CAL p) PT_CAL_START = true ∧
    ((startCal p l).run m).fld LS_CAL LS_CAL_ACTIVE = 1 ∧ ((startCal p l).run m).mem = m.mem := by
  have hA : fldOk LS_CAL LS_CAL_ACTIVE = true := by decide
  have hl18 : l < 18 := by
    simp only [calRefused, Bool.or_eq_false_iff, decide_eq_false_iff_not] at h
    omega
  have hne : PT_CAL p ≠ LS_CAL := by unfold PT_CAL LS_CAL; omega
  have htail : (calTail p l).All (Upd.besideCal p) :=
    ⟨Act.All.onlyIf fun _ => besideCal_setSpare _ _ _,
      besideCal_setF _ _ (by unfold PT_TX_LANE PT_CAL LS_CAL; omega), besideCal_sendFrame _ _ _ _ _, trivial⟩
  rw [startCal_spare_run h hl]
  refine ⟨?_, ?_, ?_, ?_⟩
  · rw [htail.frame (p := Mod.calPhase) fun _ _ hu => hu.eqs.2.2.1, Upd.app_calPhase]
  · rw [Mod.flag, Mod.fld, htail.frame (p := fun u => u.reg (PT_CAL p)) fun _ _ hu => hu.eqs.1,
      Upd.sparesReg.reg_eq (u := .calPhase _) trivial, ← Mod.fld, fld_setF_other _ _ _ _ _ _ hne,
      fld_setF_other _ _ _ _ _ _ hne, fld_setF_other _ _ _ _ _ _ hne]
    exact hgo
  · rw [Mod.fld, htail.frame (p := fun u => u.reg LS_CAL) fun _ _ hu => hu.eqs.2.1,
      Upd.sparesReg.reg_eq (u := .calPhase _) trivial, ← Mod.fld, fld_setF_apart _ _ _ _ _ (by decide) hA,
      fld_setF_apart _ _ _ _ _ (by decide) hA, fld_setF _ _ _ _ hA]
    rfl
  · rw [htail.frame (p := Mod.mem) fun _ _ hu => hu.eqs.2.2.2, Upd.app_mem]
    rfl

end calibration

theorem after_ptCalStart_refused {p : Fin 64} {val : Word} {s : State} (hgo : bitOf val 5 = true)
    (h : calRefused s.mod p (bitsOf val 0 5) = true) :
    Claims.After (.ptCalStart .sfw p val) s fun u => u.flag (PT_CAL p) PT_CAL_REFUSED = true ∧
      u.calPhase = s.mod.calPhase ∧ u.ports = s.mod.ports ∧ u.mem = s.mod.mem := by
  refine after_done (a := writeReg .sfw (PT_CAL p) 8 val) rfl ?_
  rw [writeReg_PT_CAL p.isLt, hgo, onlyIf_true]
  exact startCal_refused p.isLt ((calRefused_wroteReg p.isLt _).trans h)

theorem after_ptCalStart_spare {p : Fin 64} {val : Word} {s : State} (hgo : bitOf val 5 = true)
    (h : calRefused s.mod p (bitsOf val 0 5) = false) (hl : 16 ≤ bitsOf val 0 5) :
    Claims.After (.ptCalStart .sfw p val) s fun u => u.calPhase = some (p.val, bitsOf val 0 5, 1) ∧
      u.flag (PT_CAL p) PT_CAL_START = true ∧ u.fld LS_CAL LS_CAL_ACTIVE = 1 ∧ u.mem = s.mod.mem := by
  have hstart : (wroteReg .sfw (PT_CAL p) val s.mod).flag (PT_CAL p) PT_CAL_START = true := by
    rw [flag_wroteReg_w1s (by unfold PT_CAL; omega) (regFind_PT_CAL p.isLt) PT_CAL_ne_TH_STATUS
      (fldOk_PT_CAL p.isLt (by decide)) (by decide) rfl (by unfold Fld.within; decide) (by unfold Fld.apart; decide)]
    show (_ || bitOf val 5) = true
    rw [hgo, Bool.or_true]
  refine after_done (a := writeReg .sfw (PT_CAL p) 8 val) rfl ?_
  rw [writeReg_PT_CAL p.isLt, hgo, onlyIf_true]
  exact startCal_spare p.isLt ((calRefused_wroteReg p.isLt _).trans h) hl hstart

theorem after_ptCalFlagClear {p : Fin 64} {val : Word} {s : State} (hgo : bitOf val 5 = false) :
    Claims.After (.ptCalFlagClear .sfw p val) s fun u =>
      u.flag (PT_CAL p) PT_CAL_ABANDONED = (s.mod.flag (PT_CAL p) PT_CAL_ABANDONED && !bitOf val 6) ∧
      u.flag (PT_CAL p) PT_CAL_REFUSED = (s.mod.flag (PT_CAL p) PT_CAL_REFUSED && !bitOf val 7) ∧
      u.calPhase = s.mod.calPhase ∧ u.mem = s.mod.mem := by
  have h8 : PT_CAL p % 8 = 0 := by unfold PT_CAL; omega
  refine after_done (a := writeReg .sfw (PT_CAL p) 8 val) rfl ?_
  rw [writeReg_PT_CAL p.isLt, hgo, onlyIf_false, Act.run_nop]
  exact ⟨flag_wroteReg_w1c h8 (regFind_PT_CAL p.isLt) PT_CAL_ne_TH_STATUS (fldOk_PT_CAL p.isLt (by decide)) (by decide)
      rfl (by unfold Fld.within; decide),
    flag_wroteReg_w1c h8 (regFind_PT_CAL p.isLt) PT_CAL_ne_TH_STATUS (fldOk_PT_CAL p.isLt (by decide)) (by decide)
      rfl (by unfold Fld.within; decide), rfl, rfl⟩

/-! ### `DD_RESET` (R488, R489) -/

section reset
variable {val : Word} {m : Mod}

theorem fldOk_DD_RESET {f : Fld} (hf : f.lo + f.w ≤ 64 ∧ fieldMask f.lo f.w &&& ~~~fieldsMask resetRow.fields = 0) :
    fldOk DD_RESET f = true := fldOk_of_find regFind_DD_RESET hf

/-- A write of `DD_RESET` takes its fields, then its GO bits start what they name. -/
theorem writeReg_DD_RESET : (writeReg .sfw DD_RESET 8 val).run m =
    (acts [onlyIf (bitOf val 8) actSorusGo, onlyIf (bitOf val 22) actPortGo]).run (wroteReg .sfw DD_RESET val m) := by
  have hact : regAction DD_RESET [] val = acts [onlyIf (bitOf val 8) actSorusGo, onlyIf (bitOf val 22) actPortGo] := by
    show acts [onlyIf (decide (bitsOf val 8 1 = 1)) _, onlyIf (decide (bitsOf val 22 1 = 1)) _] = _
    rw [bitsOf_one, bitsOf_one]
    cases bitOf val 8 <;> cases bitOf val 22 <;> rfl
  rw [writeReg_sfw_run (by decide) regFind_DD_RESET rfl]
  exact congrArg (fun a : Act => a.run (wroteReg .sfw DD_RESET val m)) hact

theorem fld_wroteReg_reset {f : Fld} (h : f = DD_RESET_SORUS ∨ f = DD_RESET_PORT) :
    (wroteReg .sfw DD_RESET val m).fld DD_RESET f = bitsOf val f.lo f.w := by
  rcases h with rfl | rfl <;>
    exact fld_wroteReg_rw (by decide) regFind_DD_RESET (by decide) (fldOk_DD_RESET (by decide)) (by decide)
      (by unfold Fld.within; decide)

theorem flag_wroteReg_refused {f : Fld} (h : f = DD_RESET_SORUS_REFUSED ∨ f = DD_RESET_PORT_REFUSED) :
    (wroteReg .sfw DD_RESET val m).flag DD_RESET f = (m.flag DD_RESET f && !bitOf val f.lo) := by
  rcases h with rfl | rfl <;>
    exact flag_wroteReg_w1c (by decide) regFind_DD_RESET (by decide) (fldOk_DD_RESET (by decide)) (by decide) rfl
      (by unfold Fld.within; decide)

/-- No launch entry is `DD_RESET`. -/
theorem lword_wroteReg (key w : Nat) (hw : w < 16) : (wroteReg .sfw DD_RESET val m).lword key w = m.lword key w := by
  refine reg_wroteReg_other _ _ _ ?_
  unfold CD_LAUNCH_ENTRY DD_RESET; omega

/-- The refusal of a sorus's reset looks at the die states and the launch entries, not at `DD_RESET`. -/
theorem sorusResetRefused_wroteReg (g : Nat) :
    sorusResetRefused (wroteReg .sfw DD_RESET val m) g = sorusResetRefused m g := by
  have hdie : (wroteReg .sfw DD_RESET val m).reg MOD_DIE_STATE = m.reg MOD_DIE_STATE :=
    reg_wroteReg_other _ _ _ (by decide)
  unfold sorusResetRefused Mod.lstate
  simp only [dieRuns_congr hdie, lword_wroteReg _ _ (by decide : 0 < 16), lword_wroteReg _ _ (by decide : 15 < 16)]
  rfl

/-- The GO of a sorus's reset (R488). -/
theorem writeReg_sorusGo (hgo : bitOf val 8 = true) (hport : bitOf val 22 = false) :
    (writeReg .sfw DD_RESET 8 val).run m =
      if sorusResetRefused m (bitsOf val 0 8) = true then
        (acts [setF DD_RESET DD_RESET_SORUS_GO 0, setF DD_RESET DD_RESET_SORUS_REFUSED 1]).run
          (wroteReg .sfw DD_RESET val m)
      else (resetSorus (bitsOf val 0 8)).run (wroteReg .sfw DD_RESET val m) := by
  rw [writeReg_DD_RESET, hgo, hport, onlyIf_true, onlyIf_false, run_acts_cons, run_acts_cons, run_acts_nil, Act.run_nop]
  simp only [actSorusGo, Act.run_look]
  rw [fld_wroteReg_reset (.inl rfl)]
  show (if sorusResetRefused _ (bitsOf val 0 8) = true then _ else resetSorus (bitsOf val 0 8)).run _ = _
  rw [sorusResetRefused_wroteReg]
  split <;> rfl

end reset

theorem after_sorusReset_refused {g : Nat} {val : Word} {s : State} (hgo : bitOf val 8 = true)
    (hport : bitOf val 22 = false) (hg : bitsOf val 0 8 = g) (h : sorusResetRefused s.mod g = true) :
    Claims.After (.sorusReset .sfw val) s fun u => u.flag DD_RESET DD_RESET_SORUS_REFUSED = true ∧
      u.flag DD_RESET DD_RESET_SORUS_GO = false ∧ u.mem = s.mod.mem ∧ u.thalli = s.mod.thalli := by
  have hG : fldOk DD_RESET DD_RESET_SORUS_GO = true := fldOk_DD_RESET (by decide)
  refine after_done (a := writeReg .sfw DD_RESET 8 val) rfl ?_
  rw [writeReg_sorusGo hgo hport, hg, if_pos h, run_acts_cons, run_acts_cons, run_acts_nil]
  refine ⟨?_, ?_, rfl, rfl⟩
  · rw [Mod.flag, fld_setF _ _ _ _ (fldOk_DD_RESET (by decide))]; rfl
  · rw [Mod.flag, fld_setF_apart _ _ _ _ _ (by decide) hG, fld_setF _ _ _ _ hG]; rfl

theorem after_ddResetFlagClear {val : Word} {s : State} (hsorus : bitOf val 8 = false) (hport : bitOf val 22 = false) :
    Claims.After (.ddResetFlagClear .sfw val) s fun u =>
      u.flag DD_RESET DD_RESET_SORUS_REFUSED = (s.mod.flag DD_RESET DD_RESET_SORUS_REFUSED && !bitOf val 24) ∧
      u.flag DD_RESET DD_RESET_PORT_REFUSED = (s.mod.flag DD_RESET DD_RESET_PORT_REFUSED && !bitOf val 25) ∧
      u.mem = s.mod.mem := by
  refine after_done (a := writeReg .sfw DD_RESET 8 val) rfl ?_
  rw [writeReg_DD_RESET, hsorus, hport, onlyIf_false, onlyIf_false, run_acts_cons, run_acts_cons, run_acts_nil,
    Act.run_nop, Act.run_nop]
  exact ⟨flag_wroteReg_refused (.inl rfl), flag_wroteReg_refused (.inr rfl), rfl⟩

/-! ### `FAULT_N` (R443) -/

theorem after_faultClear {val : Word} {s : State} (hgo : bitOf val 1 = true) (hhalt : s.mod.trust.halted = false)
    (hiso : ∀ n < 22, s.mod.flag (TH_DIE n) TH_DIE_ISOLATED = false) :
    Claims.After (.faultClear .sfw val) s fun u => u.flag TH_STATUS TH_STATUS_FAULT = false ∧
      u.pins = { s.mod.pins with faultLow := false } ∧ u.mem = s.mod.mem := by
  have hact : regAction 0x30000 [] val = clearFault := by
    show onlyIf (decide (bitsOf val 1 1 = 1)) clearFault = _
    rw [bitsOf_one, hgo]; rfl
  have hnone : ((List.range 22).any fun n =>
      (wroteReg .sfw TH_STATUS val s.mod).flag (TH_DIE n) TH_DIE_ISOLATED) = false := by
    rw [List.any_eq_false]
    intro n hn
    rw [Mod.flag, fld_wroteReg_other _ _ _ _ (by unfold TH_DIE TH_STATUS; omega)]
    exact Bool.eq_false_iff.1 (hiso n (List.mem_range.1 hn))
  have hhalt' : (wroteReg .sfw TH_STATUS val s.mod).trust.halted = false := hhalt
  have hrun : (regAction 0x30000 [] val).run (wroteReg .sfw TH_STATUS val s.mod) =
      (modPins fun p => { p with faultLow := false }).run
        ((setF TH_STATUS TH_STATUS_FAULT 0).run (wroteReg .sfw TH_STATUS val s.mod)) := by
    rw [hact]
    simp only [clearFault, Act.run_look, hhalt', hnone, Bool.not_false, Bool.and_self, onlyIf_true, run_acts_cons,
      run_acts_nil]
  refine after_done (a := writeReg .sfw TH_STATUS 8 val) rfl ?_
  rw [writeReg_sfw_run (by decide) regFind_TH_STATUS rfl, hrun]
  refine ⟨?_, rfl, rfl⟩
  show decide (((setF TH_STATUS TH_STATUS_FAULT 0).run _).fld TH_STATUS TH_STATUS_FAULT = 1) = false
  rw [fld_setF _ _ _ _ (by decide)]; rfl

end Sys2Proof.Machine

end

section

namespace Sys2Proof.Machine

/-! ### A sorus's reset (R488) -/

/-- What a list of effects establishes one by one, and none of them undoes, holds after all of them. -/
theorem forEach_establishes {α : Type} {P : α → Mod → Prop} {l : List α} {f : α → Act}
    (hest : ∀ x ∈ l, ∀ m, P x ((f x).run m)) (hkeep : ∀ x ∈ l, ∀ y, (f x).Keeps (P y)) (m : Mod) :
    ∀ x ∈ l, P x ((forEach l f).run m) := by
  induction l generalizing m with
  | nil => simp
  | cons a l ih =>
    intro x hx
    rw [run_forEach_cons]
    rcases List.mem_cons.1 hx with rfl | hx
    · exact Act.Keeps.forEach (fun y hy => hkeep y (List.mem_cons_of_mem _ hy) x) _ (hest x (by simp) m)
    · exact ih (fun y hy => hest y (List.mem_cons_of_mem _ hy)) (fun y hy => hkeep y (List.mem_cons_of_mem _ hy)) _ x hx

/-- A thallus that is asleep and has lost its registers and its tile store. -/
def ThallusLost (t : Nat) (m : Mod) : Prop :=
  m.thState t = thAsleep ∧ (m.thallus t).sregs = [] ∧ ∀ o < tileBytes, memByte m.mem (tileAddr t o) = 0

/-- What a sorus's reset does to one of its thalli. -/
def loseThallus (t : Nat) : Act := acts [
  modThallus t Thallus.lose, setThState t thAsleep, setF (thReg t) CD_THALLUS_STATE_EXCEPTION 0,
  setF (thReg t) CD_THALLUS_STATE_CHAMBER_VALID 0, .upd (.zero (tileAddr t 0) tileBytes)]

theorem memByte_zero_of_zero {mem : List Host.Cell} {a : Nat} (b n : Nat) (h : memByte mem a = 0) :
    memByte (memZero mem b n) a = 0 := by
  rw [memByte_memZero]; split
  · rfl
  · exact h

theorem thReg_ne {t u : Nat} (h : t ≠ u) : thReg t ≠ thReg u := by
  intro he
  unfold thReg CD_THALLUS_STATE dieOf sorusOf coreOf at he
  rcases Nat.lt_trichotomy (t / 150) (u / 150) with hd | hd | hd
  · omega
  · rcases Nat.lt_trichotomy (t / 6 % 25) (u / 6 % 25) with hs | hs | hs <;> omega
  · omega

theorem sorusReg_ne_thReg (g t : Nat) : thReg t ≠ sorusReg g := by
  unfold thReg CD_THALLUS_STATE sorusReg CD_SORUS_STATE sorusOf coreOf
  rcases Nat.lt_trichotomy (g / 25) (dieOf t) with h | h | h <;> omega

theorem setF_keeps_thallusLost {t off : Nat} (f : Fld) (v : Nat) (h : thReg t ≠ off) :
    (setF off f v).Keeps (ThallusLost t) := by
  intro m hm
  rw [ThallusLost, Mod.thState, fld_setF_other _ _ _ _ _ _ h]
  exact hm

theorem loseThallus_lost (t : Fin 1200) (m : Mod) : ThallusLost t ((loseThallus t).run m) := by
  have hS := fldOk_thState t
  simp only [loseThallus, run_acts_cons, run_acts_nil, Act.run_upd]
  refine ⟨?_, ?_, fun o ho => ?_⟩
  · rw [Mod.thState, Mod.fld, Upd.sparesReg.reg_eq (u := .zero _ _) trivial, ← Mod.fld,
      fld_setF_apart _ _ _ _ _ (by decide) hS, fld_setF_apart _ _ _ _ _ (by decide) hS, setThState, fld_setF _ _ _ _ hS]
    rfl
  · show (((modThallus t Thallus.lose).run m).thallus t).sregs = []
    rw [thallus_modThallus, if_pos rfl]; rfl
  · rw [Upd.app_mem, memByte_memZero, if_pos (by unfold tileAddr; omega)]; rfl

theorem loseThallus_keeps_lost (t : Fin 1200) (u : Nat) : (loseThallus t).Keeps (ThallusLost u) := by
  by_cases h : u = t
  · subst h; exact fun m _ => loseThallus_lost t m
  · refine .acts_cons ?_ (.acts_cons (setF_keeps_thallusLost _ _ (thReg_ne h)) (.acts_cons
      (setF_keeps_thallusLost _ _ (thReg_ne h)) (.acts_cons (setF_keeps_thallusLost _ _ (thReg_ne h))
      (.acts_cons ?_ .acts_nil))))
    · rintro m ⟨hs, hr, hm⟩
      exact ⟨hs, by rw [thallus_modThallus, if_neg h]; exact hr, hm⟩
    · rintro m ⟨hs, hr, hm⟩
      exact ⟨hs, hr, fun o ho => memByte_zero_of_zero _ _ (hm o ho)⟩

theorem cdie_modCDie (d : Nat) (f : CDie → CDie) (m : Mod) : ((modCDie d f).run m).cdie d = f (m.cdie d) := by
  rw [modCDie_run, Mod.cdie, SMap.getD_put_same]

theorem domain_modCDie (d : Nat) (f : CDie → CDie) (m : Mod) (g : Nat) :
    ((modCDie d f).run m).domain g = m.domain g := rfl

theorem contains_of_added (l : List Nat) (x : Nat) : (if l.contains x then l else l ++ [x]).contains x = true := by
  split
  · assumption
  · simp

/-- What a sorus's reset does to its compute die. -/
def resetCDie (k : Nat) (now : Word) (c : CDie) : CDie :=
  { c with
    resident := c.resident.del k
    timers := c.timers.del k
    wakeReqs := if c.waking.contains k then c.wakeReqs ++ [(k, now)] else c.wakeReqs
    waking := c.waking.filter (· ≠ k)
    resetting := if c.resetting.contains k then c.resetting else c.resetting ++ [k] }

/-- What a sorus's reset does beside its thalli. -/
def resetBeside (g : Nat) (now : Word) : Act := acts [
  .look fun m => .upd (.replies (m.replies.filter fun r => gsorusOf r.t ≠ g)),
  setF (sorusReg g) CD_SORUS_STATE_DOMAIN 1, modCDie (g / 25) (resetCDie (g % 25) now)]

theorem resetSorus_eq (g : Nat) :
    resetSorus g = .look fun m => .seq (forEach (thalliOf g) loseThallus) (resetBeside g m.now) := rfl

theorem resetBeside_run (g : Nat) (now : Word) (m : Mod) :
    (((resetBeside g now).run m).cdie (g / 25)).resetting.contains (g % 25) = true ∧
    (fldOk (sorusReg g) CD_SORUS_STATE_DOMAIN = true → ((resetBeside g now).run m).domain g = 1) := by
  simp only [resetBeside, run_acts_cons, run_acts_nil]
  refine ⟨?_, fun hD => ?_⟩
  · rw [cdie_modCDie]
    exact contains_of_added _ _
  · rw [domain_modCDie, Mod.domain, fld_setF _ _ _ _ hD]
    rfl

theorem resetBeside_keeps_thallusLost (g : Nat) (now : Word) (t : Nat) :
    (resetBeside g now).Keeps (ThallusLost t) :=
  .acts_cons (fun _ h => h) (.acts_cons (setF_keeps_thallusLost _ _ (sorusReg_ne_thReg g t))
    (.acts_cons (fun _ h => h) .acts_nil))

theorem resetSorus_run {g : Nat} (hg : g < 200) (m : Mod) :
    (((resetSorus g).run m).cdie (g / 25)).resetting.contains (g % 25) = true ∧ ((resetSorus g).run m).domain g = 1 ∧
    ∀ t ∈ thalliOf g, ThallusLost t ((resetSorus g).run m) := by
  have hthalli : ∀ t ∈ thalliOf g, t < 1200 := by
    intro t ht
    simp only [thalliOf, List.mem_map, List.mem_range] at ht
    omega
  have hlost := forEach_establishes (P := ThallusLost) (l := thalliOf g) (f := loseThallus)
    (fun t ht m => loseThallus_lost ⟨t, hthalli t ht⟩ m) (fun t ht u => loseThallus_keeps_lost ⟨t, hthalli t ht⟩ u) m
  have hD : fldOk (sorusReg g) CD_SORUS_STATE_DOMAIN = true :=
    fldOk_of_find (regFind_CD_SORUS_STATE (by omega) (by omega)) (by decide)
  rw [resetSorus_eq, Act.run_look, Act.run_seq]
  obtain ⟨hreset, hdomain⟩ := resetBeside_run g m.now ((forEach (thalliOf g) loseThallus).run m)
  exact ⟨hreset, hdomain hD, fun t ht => resetBeside_keeps_thallusLost g m.now t _ (hlost t ht)⟩

theorem after_sorusReset {g : Fin 200} {val : Word} {s : State} (hgo : bitOf val 8 = true) (hport : bitOf val 22 = false)
    (hg : bitsOf val 0 8 = g.val) (h : sorusResetRefused s.mod g = false) :
    Claims.After (.sorusReset .sfw val) s fun u => (u.cdie (g.val / 25)).resetting.contains (g.val % 25) = true ∧
      u.domain g = 1 ∧ (∀ t ∈ thalliOf g, u.thState t = thAsleep ∧ (u.thallus t).sregs = [] ∧
        ∀ o < tileBytes, memByte u.mem (tileAddr t o) = 0) := by
  refine after_done (a := writeReg .sfw DD_RESET 8 val) rfl ?_
  rw [writeReg_sorusGo hgo hport, hg, if_neg (by rw [h]; decide)]
  exact resetSorus_run g.isLt _

end Sys2Proof.Machine

end

section

namespace Sys2Proof.Machine

/-! ### What a port reset leaves alone: memory, `DD_RESET` and the links' states

`Upd.Quiet` bounds the updates of every part of a closing epoch but three: the count of closes, the link's own state, and
the lane selectors of a feed handover. -/

/-- A register other than `DD_RESET` and the `FB_PORT_LINK` registers. -/
def QuietReg (off : Nat) : Prop := off ≠ DD_RESET ∧ (off < FB_PORT_LINK 0 ∨ FB_PORT_LINK 64 ≤ off)

/-- An update that changes neither memory nor `DD_RESET` nor a link register. -/
def Upd.Quiet : Upd → Prop
  | .reg off _ => QuietReg off
  | .regsClear _ | .mem .. | .zero .. => False
  | _ => True

theorem Act.All.ite {q : Upd → Prop} {c : Prop} [Decidable c] {a b : Act} (ha : a.All q) (hb : b.All q) :
    (if c then a else b).All q := by
  split
  · exact ha
  · exact hb

theorem quietReg_of_lt {off : Nat} (h : off < 0x501008) : QuietReg off := by
  unfold QuietReg DD_RESET FB_PORT_LINK; omega

theorem quietReg_of_ge {off : Nat} (h : 0x501808 ≤ off) (hne : off ≠ DD_RESET) : QuietReg off := by
  unfold QuietReg FB_PORT_LINK; omega

theorem quiet_setF {off : Nat} (f : Fld) (v : Nat) (h : QuietReg off) : (setF off f v).All Upd.Quiet := fun _ => h

theorem quiet_bumpSat {off : Nat} (f : Fld) (n : Nat) (h : QuietReg off) : (bumpSat off f n).All Upd.Quiet :=
  fun _ _ => h

theorem quiet_bumpWrap {off : Nat} (f : Fld) (n : Nat) (h : QuietReg off) : (bumpWrap off f n).All Upd.Quiet :=
  fun _ _ => h

theorem quiet_modPort (p : Nat) (f : Port → Port) : (modPort p f).All Upd.Quiet := fun _ => trivial

theorem quiet_modHand (i : Nat) (f : Hand → Hand) : (modHand i f).All Upd.Quiet := fun _ => trivial

theorem quiet_scoreEvent (key pts : Nat) : (scoreEvent key pts).All Upd.Quiet := fun _ => trivial

/-! #### Records -/

theorem quiet_record {q : Nat} (hq : queueDie q < 32) (code cls : Nat) (g : Grade) (ch : Option Nat) (dp mp : Word)
    (d : BitVec 256) : (record q code cls g ch dp mp d).All Upd.Quiet := by
  intro m
  simp only [pushRec]
  intro m'
  dsimp only
  split
  · exact ⟨trivial, .onlyIf fun h => quiet_setF _ _ (quietReg_of_lt (by
      have := of_decide_eq_true h
      unfold ER_QUEUE; omega)), trivial⟩
  · exact ⟨trivial, quiet_bumpSat _ _ (quietReg_of_lt (by unfold ER_QUEUE; omega)), trivial⟩

theorem queueDie_qDie {n : Nat} (hn : n < 32) : queueDie (qDie n) < 32 := by simp [queueDie, qDie, hn]

theorem queueDie_qPort {p : Nat} (hp : p < 64) : queueDie (qPort p) < 32 := by
  unfold queueDie qPort ioDie
  rw [if_neg (by omega), if_neg (by omega), if_neg (by omega)]; omega

theorem quiet_portRecord {p : Nat} (hp : p < 64) (code cls : Nat) (g : Grade) (fs : List (Nat × Nat × Nat)) :
    (portRecord p code cls g fs).All Upd.Quiet := fun _ => quiet_record (queueDie_qPort hp) _ _ _ _ _ _ _

theorem quiet_laneRecord {p : Nat} (hp : p < 64) (tx : Bool) (l code cls : Nat) (fs : List (Nat × Nat × Nat)) :
    (laneRecord p tx l code cls fs).All Upd.Quiet := fun _ => quiet_record (queueDie_qPort hp) _ _ _ _ _ _ _

theorem quiet_retireRecord {p : Nat} (hp : p < 64) (pool cause amount : Nat) :
    (retireRecord (qPort p) pool cause amount).All Upd.Quiet :=
  fun _ => .onlyIf fun _ => quiet_record (queueDie_qPort hp) _ _ _ _ _ _ _

/-! #### Credits and cells -/

/-- `MOD_DIE_STATE` holds the states of 32 dies. -/
theorem lt_of_dieRuns {m : Mod} {n : Nat} (h : m.dieRuns n = true) : n < 32 := by
  by_contra hn
  have h3 : bitsOf (m.reg MOD_DIE_STATE) (2 * n) 2 = 3 := of_decide_eq_true h
  have hlt : (m.reg MOD_DIE_STATE).toNat < 2 ^ (2 * n) :=
    (BitVec.isLt _).trans_le (Nat.pow_le_pow_right (by decide) (by omega))
  rw [bitsOf, Nat.div_eq_of_lt hlt] at h3
  exact absurd h3 (by decide)

/-- The pool register of a port whose die runs is none of the links'. -/
theorem quietReg_poolStat {m : Mod} {p : Nat} (h : m.dieRuns (ioDie (p / 8)) = true) :
    QuietReg (FB_POOL_STAT (p / 8)) := by
  have := lt_of_dieRuns h
  unfold ioDie at this
  exact quietReg_of_lt (by unfold FB_POOL_STAT; omega)

theorem quiet_modPool (i : Nat) (f : Pool → Pool) : (modPool i f).All Upd.Quiet := fun _ => .onlyIf fun _ => trivial

theorem quiet_grant {p : Nat} (h : QuietReg (FB_POOL_STAT (p / 8))) (j n : Nat) : (grant p j n).All Upd.Quiet :=
  .ite trivial ⟨fun _ => trivial, quiet_modPool _ _,
    .onlyIf fun _ _ => ⟨quiet_setF _ _ h, quiet_modPool _ _, trivial⟩, trivial⟩

theorem quiet_topUpJ (p j : Nat) : (topUpJ p j).All Upd.Quiet := by
  refine fun m => .onlyIf fun h => ?_
  simp only [mayGrant, Bool.and_eq_true] at h
  obtain ⟨⟨hrun, -⟩, -⟩ := h
  exact ⟨fun _ => quiet_grant (quietReg_poolStat hrun) _ _,
    fun _ => .onlyIf fun _ => quiet_grant (quietReg_poolStat hrun) _ _, trivial⟩

theorem quiet_topUpDie (i net : Nat) : (topUpDie i net).All Upd.Quiet :=
  .forEach fun _ _ => .forEach fun _ _ => quiet_topUpJ _ _

theorem quiet_giveBack (p j n : Nat) : (giveBack p j n).All Upd.Quiet := fun _ => .onlyIf fun h =>
  ⟨quiet_setF _ _ (quietReg_poolStat (Bool.and_eq_true_iff.1 h).2), quiet_modPool _ _, trivial⟩

theorem quiet_freeOpt (c : Option (Nat × Nat)) : (freeOpt c).All Upd.Quiet := by
  cases c with
  | none => trivial
  | some c => exact fun _ => .ite trivial ⟨fun _ => trivial, quiet_modPool _ _, quiet_giveBack _ _ _, quiet_topUpJ _ _,
      quiet_topUpDie _ _, trivial⟩

theorem quiet_cutPacket (p j : Nat) (x : Partial) : (cutPacket p j x).All Upd.Quiet := by
  unfold cutPacket
  split
  · exact ⟨fun _ => trivial, fun _ => .onlyIf fun _ _ => trivial, trivial⟩
  · trivial

theorem quiet_retireCredits {p : Nat} (hp : p < 64) (j : Nat) : (retireCredits p j).All Upd.Quiet := fun _ =>
  ⟨fun _ => trivial, quiet_modPool _ _, quiet_retireRecord hp _ _ _, quiet_retireRecord hp _ _ _, quiet_giveBack _ _ _,
    trivial⟩

/-! #### Volosh ports -/

theorem quiet_voloshPump : voloshPump.All Upd.Quiet := by
  refine fun m => .onlyIf fun _ => .forEach fun _ _ m' => ?_
  dsimp only
  split
  · trivial
  · split
    · trivial
    · exact ⟨fun _ => trivial, trivial, trivial⟩

theorem quiet_vRequest (opc off : Nat) (data : List Byte) (watch : Option (Nat × Nat)) :
    (vRequest opc off data watch).All Upd.Quiet := ⟨fun _ => trivial, quiet_voloshPump, trivial⟩

theorem quiet_readWatch (d r : Nat) : (readWatch d r).All Upd.Quiet := fun _ =>
  ⟨fun _ _ => trivial, quiet_vRequest _ _ _ _, trivial⟩

theorem quietReg_VL {off : Nat} (h : 0x700000 ≤ off ∧ off < 0x800000) : QuietReg off :=
  quietReg_of_ge (by omega) (by unfold DD_RESET; omega)

theorem quiet_wakeWatch (off : Nat) (w : Nat × Nat) : (wakeWatch off w).All Upd.Quiet :=
  fun _ => ⟨quiet_bumpWrap _ _ (quietReg_VL (by decide)), .ite (.onlyIf fun _ => quiet_readWatch _ _)
    (.onlyIf fun _ => quiet_vRequest _ _ _ _), trivial⟩

theorem quiet_writeBackLine (off : Nat) (l : VLine) : (writeBackLine off l).All Upd.Quiet :=
  ⟨fun _ => trivial, quiet_vRequest _ _ _ _, fun _ => ⟨quiet_setF _ _ (quietReg_VL (by decide)),
    quiet_setF _ _ (quietReg_VL (by decide)), trivial⟩, trivial⟩

theorem quiet_voloshMove (i : Nat) : (voloshMove i).All Upd.Quiet := by
  refine fun m => .ite trivial ⟨.forEach fun _ _ => trivial, fun _ => trivial,
    quiet_bumpSat _ _ (quietReg_VL (by decide)), .forEach fun l _ => ?_, .forEach fun _ _ => quiet_writeBackLine _ _,
    trivial⟩
  split
  · exact quiet_wakeWatch _ _
  · trivial

/-! #### Routes, notices and chambers -/

theorem quiet_sendNotices : sendNotices.All Upd.Quiet := fun _ =>
  ⟨fun _ => trivial, .forEach fun _ _ _ => ⟨fun _ => .forEach fun _ _ _ => trivial, fun _ _ => trivial, fun _ => trivial,
    trivial⟩, trivial⟩

theorem quiet_startRing {d r : Nat} (hd : d < 8) (hr : r < 256) : (startRing d r).All Upd.Quiet := by
  have hctl : QuietReg (CD_RING_CTL d r) := quietReg_of_lt (by unfold CD_RING_CTL; omega)
  have hstate : QuietReg (CD_RING_STATE d r) := quietReg_of_lt (by unfold CD_RING_STATE; omega)
  exact fun _ => .ite ⟨quiet_setF _ _ hctl, quiet_record (queueDie_qDie (by omega)) _ _ _ _ _ _ _, trivial⟩
    ⟨quiet_setF _ _ hctl, fun _ _ => trivial, quiet_setF _ _ hstate, quiet_setF _ _ hstate, trivial⟩

/-- The rings of a chamber are rings of the compute dies. -/
theorem lt_of_mem_ringsOf {m : Mod} {k : Nat} {x : Nat × Nat} (h : x ∈ ringsOf m k) : x.1 < 8 ∧ x.2 < 256 := by
  simp only [ringsOf, List.mem_flatten, List.mem_map, List.mem_range] at h
  obtain ⟨l, ⟨d, hd, rfl⟩, hx⟩ := h
  obtain ⟨e, -, he⟩ := List.mem_filterMap.1 (List.mem_filter.1 hx).1
  split at he
  · next hoff =>
    cases he
    unfold CD_RING_CTL at hoff ⊢
    exact ⟨hd, by dsimp only; omega⟩
  · cases he

theorem quiet_serveRings (k : Nat) : (serveRings k).All Upd.Quiet := by
  refine fun m => .forEach fun x hx => ?_
  obtain ⟨hd, hr⟩ := lt_of_mem_ringsOf hx
  exact .ite (quiet_startRing hd hr) (.ite (quiet_setF _ _ (quietReg_of_lt (by unfold CD_RING_STATE; omega))) trivial)

theorem quiet_setChamber (k st : Nat) : (setChamber k st).All Upd.Quiet := fun _ => .ite trivial
  ⟨fun _ => trivial, quiet_record (queueDie_qDie (by decide)) _ _ _ _ _ _ _, quiet_serveRings _, trivial⟩

theorem quiet_decideChamber (k : Nat) : (decideChamber k).All Upd.Quiet := fun _ =>
  .ite trivial (.ite
    (.ite trivial (.ite (quiet_setChamber _ _) (.ite trivial (.ite (quiet_setChamber _ _) (quiet_setChamber _ _)))))
    (.ite (.onlyIf fun _ => quiet_setChamber _ _)
      (.ite (quiet_setChamber _ _) (.onlyIf fun _ => quiet_setChamber _ _))))

theorem quiet_rebuildRoutes (announce : Bool) : (rebuildRoutes announce).All Upd.Quiet :=
  ⟨fun _ _ => trivial, .onlyIf fun _ => quiet_sendNotices, .forEach fun _ _ => quiet_decideChamber _, trivial⟩

/-! #### The end of a feed handover and of a calibration -/

theorem quietReg_LS_DIE {i : Nat} (hi : i < 8) : QuietReg (LS_DIE i) := quietReg_of_lt (by unfold LS_DIE; omega)

theorem quiet_dropFeed {f : Nat} (hf : f < 16) : (dropFeed f).All Upd.Quiet := by
  have h : QuietReg (LS_FEED_STAT f) := quietReg_of_lt (by unfold LS_FEED_STAT; omega)
  exact fun _ => .onlyIf fun _ => ⟨⟨fun _ => trivial, quiet_setF _ _ h, trivial⟩, quiet_setF _ _ h,
    .onlyIf fun _ _ => trivial, trivial⟩

theorem quiet_handEnd {i : Nat} (hi : i < 8) : (handEnd i).All Upd.Quiet := by
  intro m
  dsimp only
  split
  · trivial
  · exact ⟨fun _ => trivial, quiet_setF _ _ (quietReg_LS_DIE hi), quiet_setF _ _ (quietReg_LS_DIE hi),
      quiet_bumpWrap _ _ (quietReg_LS_DIE hi), quiet_dropFeed (by omega), trivial⟩

theorem quietReg_PT_CAL {p : Nat} (hp : p < 64) : QuietReg (PT_CAL p) := quietReg_of_lt (by unfold PT_CAL; omega)

theorem quiet_endCal {p : Nat} (hp : p < 64) (pass : Bool) : (endCal p pass).All Upd.Quiet :=
  ⟨trivial, quiet_setF _ _ (quietReg_of_lt (by decide)), quiet_setF _ _ (quietReg_PT_CAL hp),
    .onlyIf fun _ => quiet_bumpWrap _ _ (quietReg_PT_CAL hp), trivial⟩

/-! ### A port reset under way -/

/-- `DD_RESET.PORT_GO` is clear, memory is `mem` and port `p`'s link is in state `v`. -/
def Settled (p v : Nat) (mem : List Host.Cell) (m : Mod) : Prop :=
  m.flag DD_RESET DD_RESET_PORT_GO = false ∧ m.mem = mem ∧ m.linkState p = v

theorem Upd.Quiet.mem_eq {u : Upd} (h : u.Quiet) (m : Mod) : (u.app m).mem = m.mem := by
  rw [Upd.app_mem]
  cases u with
  | mem _ _ => exact h.elim
  | zero _ _ => exact h.elim
  | _ => rfl

theorem Upd.Quiet.sparesReg {u : Upd} {off : Nat} (h : u.Quiet) (hoff : ¬ QuietReg off) : u.sparesReg off := by
  cases u with
  | reg o v => exact fun he => hoff (he ▸ h)
  | regsClear _ => exact h
  | _ => trivial

section settled
variable {p v : Nat} {mem : List Host.Cell}

theorem Act.All.keeps_settled {a : Act} (ha : a.All Upd.Quiet) (hp : p < 64) : a.Keeps (Settled p v mem) := by
  refine .of_all ha fun m u hu h => ?_
  have hreset : (u.app m).reg DD_RESET = m.reg DD_RESET := (hu.sparesReg fun hq => hq.1 rfl).reg_eq m
  have hlink : (u.app m).reg (FB_PORT_LINK p) = m.reg (FB_PORT_LINK p) :=
    (hu.sparesReg fun hq => by unfold QuietReg FB_PORT_LINK at hq; omega).reg_eq m
  obtain ⟨hgo, hmem, hstate⟩ := h
  exact ⟨by rw [Mod.flag, Mod.fld, hreset]; exact hgo, (hu.mem_eq m).trans hmem,
    by rw [Mod.linkState, Mod.fld, hlink]; exact hstate⟩

theorem fldOk_linkState (hp : p < 64) : fldOk (FB_PORT_LINK p) FB_PORT_LINK_STATE = true :=
  fldOk_of_find (regFind_FB_PORT_LINK hp) (by decide)

/-- A field above a link's state, of whatever register but `DD_RESET`, may be set. -/
theorem setF_keeps_settled {off : Nat} {f : Fld} (x : Nat) (hp : p < 64) (hoff : off ≠ DD_RESET) (hlo : 3 ≤ f.lo) :
    (setF off f x).Keeps (Settled p v mem) := by
  rintro m ⟨hgo, hmem, hlink⟩
  refine ⟨?_, hmem, ?_⟩
  · rw [Mod.flag, fld_setF_other _ _ _ _ _ _ hoff.symm]; exact hgo
  · by_cases he : off = FB_PORT_LINK p
    · rw [Mod.linkState, he, fld_setF_apart _ _ _ _ _ (.inl (by exact hlo)) (fldOk_linkState hp)]; exact hlink
    · rw [Mod.linkState, fld_setF_other _ _ _ _ _ _ (Ne.symm he)]; exact hlink

theorem setLink_settled {st : Nat} {m : Mod} (hp : p < 64) (hst : st < 8) (h : Settled p v mem m) :
    Settled p st mem ((setLink p st).run m) := by
  obtain ⟨hgo, hmem, -⟩ := h
  refine ⟨?_, hmem, ?_⟩
  · rw [Mod.flag, setLink, fld_setF_other _ _ _ _ _ _ (by unfold DD_RESET FB_PORT_LINK; omega)]; exact hgo
  · rw [Mod.linkState, setLink, fld_setF _ _ _ _ (fldOk_linkState hp)]; exact Nat.mod_eq_of_lt hst

/-! #### The feed handover that the close of a port resumes (R395)

It writes lane selectors of the ports in its list, which the model does not bound; none of them reaches `DD_RESET` or a
link's state. -/

/-- The lanes of a handover are lane numbers, and none waits to be shuttled before the spares are selected. -/
def Hand.Safe (h : Hand) : Prop :=
  (∀ x ∈ h.unwind, x < 32) ∧ (∀ x ∈ h.spares, x < 32) ∧ (h.unwind = [] → h.spares = [] → h.shuttle = [])

def HandSafe (i : Nat) (m : Mod) : Prop := ∀ h, (m.iodie i).hand = some h → h.Safe

theorem hand_modHand (i : Nat) (f : Hand → Hand) (m : Mod) :
    (((modHand i f).run m).iodie i).hand = (m.iodie i).hand.map f := by
  rw [modHand, modIoDie_run, Mod.iodie, SMap.getD_put_same]

theorem handSafe_modHand {i : Nat} {f : Hand → Hand} {m : Mod} (hf : ∀ h, (m.iodie i).hand = some h → (f h).Safe) :
    HandSafe i ((modHand i f).run m) := by
  intro h hh
  rw [hand_modHand, Option.map_eq_some_iff] at hh
  obtain ⟨h', hh', rfl⟩ := hh
  exact hf h' hh'

theorem laneReg_ne_DD_RESET (q : Nat) {x : Nat} (hx : x < 32) : PT_TX_LANE q x ≠ DD_RESET := by
  unfold PT_TX_LANE DD_RESET; omega

theorem spareReg_ne_DD_RESET (q : Nat) : PT_SPARE q ≠ DD_RESET := by unfold PT_SPARE DD_RESET; omega

theorem le_lo_feedFld (x : Nat) : 3 ≤ (feedFld x).lo := by unfold feedFld; split <;> decide

theorem selectFeed_keeps_settled (hp : p < 64) (q feed : Nat) {x : Nat} (hx : x < 32) :
    (selectFeed q x feed).Keeps (Settled p v mem) :=
  .acts_cons (setF_keeps_settled _ hp (laneReg_ne_DD_RESET q hx) (by decide)) (.acts_cons
    (setF_keeps_settled _ hp (laneReg_ne_DD_RESET q hx) (by decide)) (.acts_cons
    (.onlyIf fun _ => setF_keeps_settled _ hp (spareReg_ne_DD_RESET q) (le_lo_feedFld x)) .acts_nil))

/-- A port handed over with its epoch closed has its selectors switched at once. -/
theorem selectClosed_keeps (hp : p < 64) (i q feed : Nat) :
    (forEach (List.range 18) fun x => acts [setF (PT_TX_LANE q x) PT_TX_LANE_FEED feed,
      onlyIf (decide (16 ≤ x)) (setF (PT_SPARE q) (feedFld x) feed)]).Keeps
        fun m => Settled p v mem m ∧ HandSafe i m := by
  refine .forEach fun x hx => .acts_cons (fun m h => ⟨setF_keeps_settled _ hp ?_ (by decide) m h.1, h.2⟩)
    (.acts_cons (.onlyIf fun _ m h => ⟨setF_keeps_settled _ hp (spareReg_ne_DD_RESET q) (le_lo_feedFld x) m h.1, h.2⟩)
      .acts_nil)
  exact laneReg_ne_DD_RESET q (by have := List.mem_range.1 hx; omega)

/-- The handover goes on with port `q`, as the module `m` stands, and then `next`. -/
def handPort (m : Mod) (i feed q : Nat) (next : Act) : Act := acts [setF (LS_DIE i) LS_DIE_PORT (q % 8),
  if !m.portOpen q then acts [
    forEach (List.range 18) (fun x => acts [setF (PT_TX_LANE q x) PT_TX_LANE_FEED (feed % 2),
      onlyIf (decide (16 ≤ x)) (setF (PT_SPARE q) (feedFld x) (feed % 2))]),
    next]
  else
    let moved := [16, 17].filter fun x => m.spareUse q x = 2
    let free := [16, 17].filter fun x => m.spareUse q x = 0 ∨ m.spareUse q x = 2
    if free.isEmpty then acts [modHand i (fun h => { h with left := true }), next]
    else acts [
      modHand i (fun h => { h with
        unwind := moved.map fun x => m.fld (PT_SPARE q) (logFld x)
        spares := free
        shuttle := (List.range 18).filter fun x =>
          laneFeed m q x ≠ h.feed ∧ (m.logicalOn true q x).isSome ∧ !moved.contains x }),
      next]]

/-- The lanes that a port's handover starts with. -/
theorem startPort_safe (m : Mod) (q : Nat) (h : Hand) (moved shuttle : List Nat) {p : Nat → Bool}
    (hfree : ([16, 17].filter p).isEmpty = false) :
    ({ h with unwind := moved.map fun x => m.fld (PT_SPARE q) (logFld x), spares := [16, 17].filter p
              shuttle := shuttle } : Hand).Safe := by
  refine ⟨fun x hx => ?_, fun x hx => ?_, fun _ hs => ?_⟩
  · obtain ⟨y, -, rfl⟩ := List.mem_map.1 hx
    dsimp only [logFld]
    split <;> exact bitsOf_lt _ _ 5
  · have := (List.mem_filter.1 hx).1
    simp only [List.mem_cons, List.not_mem_nil, or_false] at this
    omega
  · exact absurd (List.isEmpty_iff.2 hs) (by rw [hfree]; decide)

theorem modHand_keeps_settled (hp : p < 64) (i : Nat) (f : Hand → Hand) : (modHand i f).Keeps (Settled p v mem) :=
  (quiet_modHand _ _).keeps_settled hp

theorem handPort_settled (hp : p < 64) (m' : Mod) {i : Nat} (hi : i < 8) (feed q : Nat) {next : Act}
    (hnext : ∀ {m}, Settled p v mem m → HandSafe i m → Settled p v mem (next.run m)) {m : Mod} (hs : Settled p v mem m)
    (hsafe : HandSafe i m) : Settled p v mem ((handPort m' i feed q next).run m) := by
  have hs2 := (quiet_setF LS_DIE_PORT (q % 8) (quietReg_LS_DIE hi)).keeps_settled hp m hs
  have hsafe2 : HandSafe i ((setF (LS_DIE i) LS_DIE_PORT (q % 8)).run m) := hsafe
  rw [handPort, run_acts_cons, run_acts_cons, run_acts_nil]
  generalize (setF (LS_DIE i) LS_DIE_PORT (q % 8)).run m = m2 at hs2 hsafe2 ⊢
  split
  · obtain ⟨hs3, hsafe3⟩ := selectClosed_keeps hp i q (feed % 2) m2 ⟨hs2, hsafe2⟩
    rw [run_acts_cons, run_acts_cons, run_acts_nil]
    exact hnext hs3 hsafe3
  · dsimp only
    split
    · rw [run_acts_cons, run_acts_cons, run_acts_nil]
      exact hnext (modHand_keeps_settled hp _ _ _ hs2) (handSafe_modHand hsafe2)
    next hfree =>
      rw [run_acts_cons, run_acts_cons, run_acts_nil]
      refine hnext (modHand_keeps_settled hp _ _ _ hs2) (handSafe_modHand fun h _ => startPort_safe _ _ _ _ _ ?_)
      rw [← Bool.not_eq_true]
      exact hfree

theorem handStep_settled (hp : p < 64) {i : Nat} (hi : i < 8) (fuel : Nat) {m : Mod} (hs : Settled p v mem m)
    (hsafe : HandSafe i m) : Settled p v mem ((handStep i fuel).run m) := by
  induction fuel generalizing m with
  | zero => exact hs
  | succ fuel ih =>
    rw [handStep, Act.run_look]
    split
    · exact hs
    next h hh =>
    obtain ⟨hunwind, hspares, hshuttle⟩ := hsafe h hh
    split
    · exact (quiet_handEnd hi).keeps_settled hp _ hs
    next q0 rest hports =>
    split
    next l ls hl =>
      exact Act.Keeps.acts_cons ((quiet_setF _ _ (quietReg_LS_DIE hi)).keeps_settled hp)
        (.acts_cons (selectFeed_keeps_settled hp _ _ (hunwind l (by simp [hl]))) .acts_nil) m hs
    next =>
      exact Act.Keeps.forEach (fun x hx => selectFeed_keeps_settled hp _ _ (hspares x hx)) _ hs
    next hu hsp hsh =>
      simp [hshuttle hu hsp] at hsh
    next hu hsp hsh =>
      have hs1 := modHand_keeps_settled hp i (fun h => { h with ports := rest }) m hs
      have hsafe1 : HandSafe i ((modHand i fun h => { h with ports := rest }).run m) := handSafe_modHand hsafe
      rw [run_acts_cons, run_acts_cons, run_acts_nil, Act.run_look]
      generalize (modHand i fun h => { h with ports := rest }).run m = m1 at hs1 hsafe1 ⊢
      split
      · exact (quiet_handEnd hi).keeps_settled hp _ hs1
      · exact handPort_settled hp m1 hi h.feed _ ih hs1 hsafe1

theorem handSkip_keeps_settled (hp : p < 64) : (handSkip p).Keeps (Settled p v mem) := by
  intro m hs
  rw [handSkip, Act.run_look]
  split
  · exact hs
  · refine Act.Keeps.onlyIf (P := Settled p v mem) (fun _ m hs => ?_) m hs
    rw [run_acts_cons, run_acts_cons, run_acts_nil]
    exact handStep_settled hp (by omega) 9 (modHand_keeps_settled hp _ _ _ hs)
      (handSafe_modHand fun h _ => ⟨by simp, by simp, fun _ _ => rfl⟩)

/-! #### The close of an epoch (R292) -/

theorem dropMoves_keeps_settled (hp : p < 64) : (dropMoves p).Keeps (Settled p v mem) := by
  refine .look fun m _ => .acts_cons ((quiet_modPort _ _).keeps_settled hp)
    (.acts_cons ((quiet_setF _ _ (quietReg_of_lt ?_)).keeps_settled hp)
    (.acts_cons (.onlyIf fun _ => Act.All.keeps_settled
      ⟨quiet_endCal hp _, quiet_setF _ _ (quietReg_PT_CAL hp), ?_, trivial⟩ hp)
    (.acts_cons (handSkip_keeps_settled hp) .acts_nil)))
  · unfold PT_MOVE; omega
  · split
    · exact quiet_laneRecord hp _ _ _ _ _
    · trivial

theorem closes_keeps_settled (hp : p < 64) (n : Nat) :
    (bumpWrap (FB_PORT_LINK p) FB_PORT_LINK_CLOSES n).Keeps (Settled p v mem) :=
  .look fun _ _ => setF_keeps_settled _ hp (by unfold FB_PORT_LINK DD_RESET; omega) (by decide)

theorem closeEpoch_settled (hp : p < 64) {st : Nat} (hst : st < 8) (cls : Nat) {m : Mod} (hs : Settled p v mem m) :
    Settled p st mem ((closeEpoch p st cls).run m) := by
  rw [closeEpoch, Act.run_look]
  split
  · exact setLink_settled hp hst hs
  iterate 5 rw [run_acts_cons]
  have hcells : (forEach (m.port p).outq fun f => freeOpt f.cell).All Upd.Quiet := .forEach fun _ _ => quiet_freeOpt _
  have hcut : (Act.look fun m => forEach (m.port p).asm fun e => cutPacket p e.1 e.2).All Upd.Quiet :=
    fun _ => .forEach fun _ _ => quiet_cutPacket _ _ _
  have hpool : (Act.look fun m => acts [modPool (retryPool p) fun q => { q with retired := q.retired +
      (m.port p).retryBuf.length }, retireRecord (qPort p) (retryPool p) (closeCause m)
      (m.port p).retryBuf.length]).All Upd.Quiet := fun _ => ⟨quiet_modPool _ _, quiet_retireRecord hp _ _ _, trivial⟩
  refine Act.Keeps.acts_cons (P := Settled p st mem)
    (Act.All.keeps_settled (.forEach fun _ _ => quiet_retireCredits hp _) hp)
    (.acts_cons (hpool.keeps_settled hp) (.acts_cons ((quiet_modPort _ _).keeps_settled hp)
    (.acts_cons (dropMoves_keeps_settled hp) (.acts_cons (closes_keeps_settled hp 1)
    (.acts_cons ((quiet_portRecord hp _ _ _ _).keeps_settled hp)
    (.acts_cons ((quiet_scoreEvent _ _).keeps_settled hp)
    (.acts_cons (Act.All.keeps_settled (fun m => ?_) hp) .acts_nil))))))) _
    (setLink_settled hp hst (v := v) ?_)
  · dsimp only
    split
    · exact ⟨quiet_setF _ _ (quietReg_VL (by decide)), quiet_voloshMove _, trivial⟩
    · exact quiet_rebuildRoutes _
  refine (quiet_modPort _ _).keeps_settled hp _ (hcut.keeps_settled hp _ ?_)
  exact Act.All.keeps_settled (.forEach fun _ _ => quiet_modPort _ _) hp _ (hcells.keeps_settled hp _ hs)

theorem portReset_settled (hp : p < 64) (cause : Nat) {m : Mod} (hs : Settled p v mem m) :
    Settled p lkTraining mem ((portReset p cause).run m) := by
  rw [portReset, Act.run_look]
  iterate 2 rw [run_acts_cons]
  refine Act.Keeps.acts_cons (P := Settled p lkTraining mem) ((quiet_portRecord hp _ _ _ _).keeps_settled hp)
    (.acts_cons ((quiet_scoreEvent _ _).keeps_settled hp) .acts_nil) _
    (closeEpoch_settled hp (by decide) _ (v := v) ?_)
  exact (quiet_modPort _ _).keeps_settled hp _ hs

end settled

/-- The GO of a port's reset clears at once, and the port resets (R489). -/
theorem after_portReset {p : Fin 64} {val : Word} {s : State} (hsorus : bitOf val 8 = false) (hgo : bitOf val 22 = true)
    (hport : bitsOf val 16 6 = p.val) (hrun : s.mod.dieRuns (ioDie (p.val / 8)) = true) :
    Claims.After (.portReset .sfw val) s fun u => u.linkState p = lkTraining ∧
      u.flag DD_RESET DD_RESET_PORT_GO = false ∧ u.mem = s.mod.mem := by
  have hname : (wroteReg .sfw DD_RESET val s.mod).fld DD_RESET DD_RESET_PORT = p.val :=
    (fld_wroteReg_reset (.inr rfl)).trans hport
  have hmem : (wroteReg .sfw DD_RESET val s.mod).mem = s.mod.mem := rfl
  have hdie : (wroteReg .sfw DD_RESET val s.mod).reg MOD_DIE_STATE = s.mod.reg MOD_DIE_STATE :=
    reg_wroteReg_other _ _ _ (by decide)
  refine after_done (a := writeReg .sfw DD_RESET 8 val) rfl ?_
  rw [writeReg_DD_RESET, hsorus, hgo, onlyIf_false, onlyIf_true, run_acts_cons, run_acts_cons, run_acts_nil, Act.run_nop]
  generalize wroteReg .sfw DD_RESET val s.mod = m at hname hmem hdie ⊢
  have hclear : Settled p (((setF DD_RESET DD_RESET_PORT_GO 0).run m).linkState p) s.mod.mem
      ((setF DD_RESET DD_RESET_PORT_GO 0).run m) :=
    ⟨by rw [Mod.flag, fld_setF _ _ _ _ (fldOk_DD_RESET (by decide))]; rfl, hmem, rfl⟩
  have hrun' : m.dieRuns (ioDie (p.val / 8)) = true := (dieRuns_congr hdie _).trans hrun
  rw [actPortGo, Act.run_look, hname]
  dsimp only
  rw [if_pos hrun', run_acts_cons, run_acts_cons, run_acts_nil]
  obtain ⟨hflag, hmem', hlink⟩ := portReset_settled p.isLt 3 hclear
  exact ⟨hlink, hflag, hmem'⟩

end Sys2Proof.Machine

end

section

open Sys2Proof.Machine in
/-- Settles O49: a write lays its bytes over the register and takes each bit by its access code; of the five registers
with an action each row's act is run on the register so written. -/
theorem registerWrites : Obligations.RegisterWrites := by
  unfold Obligations.RegisterWrites
  refine ⟨?plain, ?fault, accessOk_iff, ?denied, ?ringReset, ?calRefused, ?calSpare, ?calFlags, ?sorusReset,
    ?sorusRefused, ?portReset, ?resetFlags, ?faultClear⟩
  case plain =>
    intro who off size val row ix s hok hreach hfind hign hplain hold
    exact after_registerWrite hok hreach hfind hign hplain hold
  case fault => exact fun who off size val s h => exec_registerWrite_fault h
  case denied => exact fun tag off n s hup hfree hn hok => exec_regRd_denied hup hfree hn hok
  case ringReset => exact fun d r val s hgo hallow hen hrun hb => after_ringReset hgo hallow hen hrun hb
  case calRefused => exact fun p val s hgo h => after_ptCalStart_refused hgo h
  case calSpare => exact fun p val s hgo h hl => after_ptCalStart_spare hgo h hl
  case calFlags => exact fun p val s hgo => after_ptCalFlagClear hgo
  case sorusReset => exact fun g val s hgo hport hg h => after_sorusReset hgo hport hg h
  case sorusRefused => exact fun g val s hgo hport hg h => after_sorusReset_refused hgo hport hg h
  case portReset => exact fun p val s hsorus hgo hport hrun => after_portReset hsorus hgo hport hrun
  case resetFlags => exact fun val s hsorus hport => after_ddResetFlagClear hsorus hport
  case faultClear => exact fun val s hgo hhalt hiso => after_faultClear hgo hhalt hiso

end

section

namespace Sys2Proof.Machine

/-! ### Issuing a tile instruction (R92, R106) -/

theorem opDefined_tile (op : Nat) (f : BitVec 54) (h : op ≤ 5) : opDefined (wordOf 3 op f) = true := by
  simp [opDefined, clsOf_wordOf 3 op f (by decide), opOf_wordOf 3 op f (by omega), h]

/-- The protected read of the own tile store passes where the array reads without an error (R61). -/
theorem ownTile_good (t : Nat) {e : Env} (w : Word) (off : Nat) (k : Act) (h : e.tile = .good) :
    ownTile t e w off k = k := by
  rw [ownTile, h]; rfl

/-- A command that completes leaves the module that its effect does. -/
theorem exec_next_of_run {c : Instr} {a : Act} {s : State} {m : Mod} (hc : exec c s = done a s) (h : a.run s.mod = m) :
    exec c s = .next { s with mod := m } := by
  rw [hc, done_eq, h]

/-! ### Rows of memory, one after another (R108) -/

/-- Writes in turn, each of which may read what the earlier ones left, change memory alone. -/
theorem run_forEach_mem {α : Type} (l : List α) (a : α → Nat) (row : α → List Host.Cell → List Byte) (m : Mod) :
    (forEach l fun i => .look fun m => .upd (.mem (a i) (row i m.mem))).run m =
      { m with mem := l.foldl (fun mem i => memWrite mem (a i) (row i mem)) m.mem } := by
  induction l generalizing m with
  | nil => rfl
  | cons i l ih => rw [run_forEach_cons, ih]; rfl

/-! ### Where a store of rows to device memory may go (R91, R109) -/

theorem locate_of_stackDie {a : Nat} (h : (stackDie a).isSome = true) : ∃ s off, locate a = .stack s off := by
  unfold stackDie at h
  split at h
  · next s off hl => exact ⟨s, off, hl⟩
  · cases h

/-- A range that fits in its region passes where its first byte does. -/
theorem rangeCheck_of_fits {m : Mod} {t : Nat} {a : Word} {n : Nat} (hx : xferCheck m t a = none)
    (hn : n ≤ roomAt a.toNat) : rangeCheck m t a n = none := by
  unfold rangeCheck
  split
  · rfl
  · rw [if_neg (by omega), hx]

/-! ### What each tile move does to the module (R63, R106, R108, R109) -/

section tile
variable {m : Mod} {t : Fin 1200} {e : Env} {w : Word}

theorem tfillBody_run
    (h : Ready m t e w [(12, 2), (17, 3), (20, 2), (22, 5), (27, 5), (32, 5)] [tRa w, tRb w, tRc w])
    (hd : opDefined w = true)
    (hform : tType w ≤ 5 ∧ tSparse w ≠ 3 ∧ (tSparse w = 0 → tRb w = 0) ∧ (tType w ≠ 2 → tRc w = 0))
    (htile : ((m.thallus t).sget (tRa w)).toNat % tileSize (tType w) = 0 ∧
      ((m.thallus t).sget (tRa w)).toNat < tileBytes)
    (hmeta : tSparse w ≠ 0 → ((m.thallus t).sget (tRb w)).toNat % 64 = 0 ∧
      ((m.thallus t).sget (tRb w)).toNat < tileBytes)
    (hscale : tType w = 2 → ((m.thallus t).sget (tRc w)).toNat % 16 = 0 ∧
      ((m.thallus t).sget (tRc w)).toNat < tileBytes)
    (hfree : ((m.thallus t).frond (fUnit w)).fill = none) (hgood : e.tile = .good) :
    (runWord tfillBody t e w).run m = withThallus m t (retire fun th => th.setFrond (fUnit w)
      { th.frond (fUnit w) with fill := some (readBank m t (tType w) (tSparse w) (th.sget (tRa w)).toNat
        (th.sget (tRb w)).toNat (th.sget (tRc w)).toNat) }) := by
  rw [tfillBody, run_ready h hd]
  dsimp only
  -- the form is legal; the tile, the metadata and the scales lie aligned in the tile store
  rw [if_neg (by omega), if_neg (by omega), if_neg (by omega), if_neg (by omega), hfree, ownTile_good _ _ _ _ hgood]
  rfl

theorem tmoveBody_run (h : Ready m t e w [(22, 5), (27, 5), (42, 8)] [tRa w, tRb w]) (hd : opDefined w = true)
    (ha : rowsOk ((m.thallus t).sget (tRa w)) (tRows w) = true)
    (hb : rowsOk ((m.thallus t).sget (tRb w)) (tRows w) = true) (hgood : e.tile = .good) :
    (runWord tmoveBody t e w).run m = { withThallus m t (retire id) with
      mem := (List.range (tRows w)).foldl (fun mem i =>
        memWrite mem (tileAddr t (((m.thallus t).sget (tRb w)).toNat + 128 * i))
          (memRead mem (tileAddr t (((m.thallus t).sget (tRa w)).toNat + 128 * i)) 128)) m.mem } := by
  rw [tmoveBody, run_ready h hd]
  simp only [ha, hb, Bool.not_true, Bool.false_eq_true, if_false, ownTile_good _ _ _ _ hgood, run_acts_cons,
    run_acts_nil, commit_run, Mod.tileBytes]
  rw [run_forEach_mem (row := fun i mem => memRead mem (tileAddr t (((m.thallus t).sget (tRa w)).toNat + 128 * i)) 128)]
  rfl

theorem tzeroBody_run (h : Ready m t e w [(22, 5), (42, 8)] [tRa w]) (hd : opDefined w = true)
    (ha : rowsOk ((m.thallus t).sget (tRa w)) (tRows w) = true) :
    (runWord tzeroBody t e w).run m = { withThallus m t (retire id) with
      mem := memZero m.mem (tileAddr t ((m.thallus t).sget (tRa w)).toNat) (128 * tRows w) } := by
  rw [tzeroBody, run_ready h hd]
  dsimp only
  rw [ha]
  rfl

theorem tstrmBody_run (h : Ready m t e w [(22, 5), (27, 5), (42, 8)] [tRa w, tRb w]) (hd : opDefined w = true)
    (ha : rowsOk ((m.thallus t).sget (tRa w)) (tRows w) = true) (hb : ((m.thallus t).sget (tRb w)).toNat % 128 = 0)
    (hx : xferCheck m t ((m.thallus t).sget (tRb w)) = none)
    (hdev : (stackDie ((m.thallus t).sget (tRb w)).toNat).isSome = true)
    (hfit : 128 * tRows w ≤ roomAt ((m.thallus t).sget (tRb w)).toNat) (hgood : e.tile = .good) :
    (runWord tstrmBody t e w).run m = { withThallus m t (retire id) with
      flight := m.flight ++ (List.range (tRows w)).map fun i => strmAccess m t (m.thallus t).pc w
        (((m.thallus t).sget (tRb w)).toNat + 128 * i)
        (memRead m.mem (tileAddr t (((m.thallus t).sget (tRa w)).toNat + 128 * i)) 128) } := by
  obtain ⟨st, off, hloc⟩ := locate_of_stackDie hdev
  rw [tstrmBody, run_ready h hd]
  simp only [ha, hb, hloc, rangeCheck_of_fits hx hfit, ownTile_good _ _ _ _ hgood]
  rfl

theorem trowstBody_run (h : Ready m t e w [(22, 5), (37, 5), (50, 3)] [tRa w]) (hd : opDefined w = true)
    (ha : rowsOk ((m.thallus t).sget (tRa w)) 1 = true) :
    (runWord trowstBody t e w).run m = { withThallus m t (retire id) with
      mem := memWrite m.mem (tileAddr t ((m.thallus t).sget (tRa w)).toNat) ((List.range 128).map fun j =>
        if ((m.thallus t).pget (bitsOf w 50 3)).getLsbD j then
          (leBytes 128 ((m.thallus t).vget (tRe w)).toNat).getD j 0
        else (memRead m.mem (tileAddr t ((m.thallus t).sget (tRa w)).toNat) 128).getD j 0) } := by
  rw [trowstBody, run_ready h hd]
  dsimp only
  rw [ha]
  rfl

end tile

end Sys2Proof.Machine

end

section

open Sys2Proof.Machine in
/-- Settles O17: each ready word runs its body, whose checks pass, so that what is left is the write of its rows, or the
frond's fill, and the retirement. -/
theorem tileMoves : Obligations.TileMoves := by
  unfold Obligations.TileMoves
  refine ⟨?tfill, ?tmove, ?tzero, ?tstrm, ?trowst⟩
  case tfill =>
    intro t e fl s h ⟨hty, hsp, hrb, hrc, hal, hin, hmeta, hscale, hfree, hgood⟩
    exact exec_next_of_run rfl
      (tfillBody_run h (opDefined_tile _ fl (by decide)) ⟨hty, hsp, hrb, hrc⟩ ⟨hal, hin⟩ hmeta hscale hfree hgood)
  case tmove =>
    intro t e fl s h w a b ha hb hgood
    exact exec_next_of_run rfl (tmoveBody_run h (opDefined_tile _ fl (by decide)) ha hb hgood)
  case tzero =>
    intro t e fl s h w a ha
    exact exec_next_of_run rfl (tzeroBody_run h (opDefined_tile _ fl (by decide)) ha)
  case tstrm =>
    intro t e fl s h w a b ha hb hx hdev hfit hgood
    exact exec_next_of_run rfl (tstrmBody_run h (opDefined_tile _ fl (by decide)) ha hb hx hdev hfit hgood)
  case trowst =>
    intro t e fl s h w th a ha
    exact exec_next_of_run rfl (trowstBody_run h (opDefined_tile _ fl (by decide)) ha)

end
